-- ==== Sys2Proof/Word.lean ====
section
/-! DEFINITION. The words of the Mantilo 6420: the byte of the cell link, the only unit the manual treats as bits. -/

namespace Sys2Proof

/-- One byte of a frame on the cell link (R179). Addresses, kinds, correlators and result codes are bytes. -/
abbrev Byte := BitVec 8

/-- The byte whose value is `n` modulo 256. -/
def byte (n : Nat) : Byte := BitVec.ofNat 8 n

end Sys2Proof
end

