-- ==== Sys2Proof/Syntax.lean ====
section
/-! DEFINITION. The commands of the 6420, one constructor for each row of spec/opcode_table.json, with their operands. -/

namespace Sys2Proof

/-- The two link ports (01): upstream faces the cell computer, downstream the deck nodes. -/
inductive Port where
  | upstream
  | downstream
deriving DecidableEq, Repr

/-- The two pick heads: West is head 0, East is head 1. -/
inductive Head where
  | west
  | east
deriving DecidableEq, Repr

/-- A MGMT REQUEST as it reaches the part on the upstream port, addressed to the part (R7, R156, R182): the
header's source and correlator, the flags byte (bit 0 is the notify flag) and the bytes of the request's fields.
The request code is the constructor's. -/
structure Request where
  source : Byte
  correlator : Byte
  flags : Byte
  fields : List Byte
deriving DecidableEq, Repr

/-- The commands (opcode_table.json). The four arrival rows carry the port and every byte received, header to trailer
(R179); the request rows carry a `Request`; the expiry rows name their timer (R148). -/
inductive Instr where
  /-- POWER_ON (R18): RESET_N rises; `straps` is what the five ADDR pins read. -/
  | powerOn (straps : BitVec 5)
  /-- FRAME_ARRIVAL (R1): the last byte of a frame's trailer has been received on a port. -/
  | frameArrival (port : Port) (bytes : List Byte)
  /-- SITE_REPORT (R63): a frame of kind SITE REPORT arrives. -/
  | siteReport (port : Port) (bytes : List Byte)
  /-- HEAD_STATUS (R123): a frame of kind HEAD STATUS arrives. -/
  | headStatus (port : Port) (bytes : List Byte)
  /-- SHUTTLE_REPORT (R27): a frame of kind SHUTTLE REPORT arrives. -/
  | shuttleReport (port : Port) (bytes : List Byte)
  /-- TRANSMISSION_END (R14): the frame in transmission on a port has been sent. -/
  | transmissionEnd (port : Port)
  /-- TICK (R146): the end of a tick. -/
  | tick
  /-- SOAK_EXPIRY (R56). -/
  | soakExpiry (socket : Fin 64)
  /-- WATCHDOG_EXPIRY (R65). -/
  | watchdogExpiry (socket : Fin 64)
  /-- FILL_WAIT_EXPIRY (R60). -/
  | fillWaitExpiry (group : Fin 16)
  /-- ORDER_TIMER_EXPIRY (R125). -/
  | orderTimerExpiry (head : Head)
  /-- YIELD_TIMER_EXPIRY (R143). -/
  | yieldTimerExpiry (head : Head)
  /-- RECOVER_TIMER_EXPIRY (R132). -/
  | recoverTimerExpiry (head : Head)
  /-- PLANNING_PASS (R98). -/
  | planningPass (head : Head)
  /-- LOT_START (R158). -/
  | lotStart (r : Request)
  /-- LOT_PAUSE (R159). -/
  | lotPause (r : Request)
  /-- LOT_RESUME (R159). -/
  | lotResume (r : Request)
  /-- LOT_DRAIN (R160). -/
  | lotDrain (r : Request)
  /-- LOT_END (R161). -/
  | lotEnd (r : Request)
  /-- BYPASS_ENTER (R162). -/
  | bypassEnter (r : Request)
  /-- BYPASS_EXIT (R162). -/
  | bypassExit (r : Request)
  /-- RESET (R169), the soft reset. -/
  | reset (r : Request)
  /-- TABLE_WRITE (R165). -/
  | tableWrite (r : Request)
  /-- TABLE_READ (R168). -/
  | tableRead (r : Request)
  /-- CURSOR_RESET (R168). -/
  | cursorReset (r : Request)
  /-- STATUS_READ (R176). -/
  | statusRead (r : Request)
  /-- EVENT_ACK (R174). -/
  | eventAck (r : Request)
  /-- EVENT_MASK (R172). -/
  | eventMask (r : Request)
  /-- SOCKET_ENABLE (R72). -/
  | socketEnable (r : Request)
  /-- SOCKET_DISABLE (R73). -/
  | socketDisable (r : Request)
  /-- SOCKET_CLEAR (R74). -/
  | socketClear (r : Request)
  /-- TRAY_READY (R90). -/
  | trayReady (r : Request)
  /-- TRAY_WITHDRAW (R91). -/
  | trayWithdraw (r : Request)
  /-- HEAD_RECOVER (R130). -/
  | headRecover (r : Request)
  /-- PART_PURGE (R35). -/
  | partPurge (r : Request)
  /-- LOCATE (R36). -/
  | locate (r : Request)
  /-- RESET_N_ASSERTION (R18): RESET_N is driven low. -/
  | resetNAssertion
deriving DecidableEq, Repr

end Sys2Proof
end

