-- ==== Sys2Proof/Decode.lean ====
section
/-! DEFINITION. The command a word spells. The opcode table gives no row any bits, so no word spells a command; the
commands reach the block as pins, timer expiries and frames (00, R1), and the bytes of a frame are read in
Machine/Operands.lean (`Frame.parse`) and Machine/Arrivals.lean. -/

namespace Sys2Proof

/-- The command that a word of `nbits` bits spells by the opcode table: none, since no row carries bits. -/
def decodeTableWord (_nbits _w : Nat) : Option Instr := none

end Sys2Proof
end

