-- ==== Sys2Proof/Config.lean ====
section
/-! DEFINITION. What the manual leaves open and the model leaves free. Each is an opaque constant: no proof can see its
value, so a claim holds whatever it is. -/

namespace Sys2Proof

/-- FREE VALUE (log 8). Which of several steps goes first where the manual says they "may come in either order"
inside one command: grants of the two heads, due yield PARKs and expiries (R108, R140, R142, R149, R150). Applied to the
model's draw counter; the result is taken modulo the number of candidates. -/
opaque Config.choice : Nat → Nat

/-- FREE VALUE (log 10). What a two-valued flag byte stands for when it carries neither 1 nor 0 (R178). -/
opaque Config.oddFlag : Byte → Bool

/-- FREE VALUE (log 11). The lot state code and the attention mark in the attention field of an own upstream frame sent
unstamped, in BYPASS (R12, R16, R162); bits 3 to 6 of it are not read (R179). Applied to the model's draw counter. -/
opaque Config.unstampedAttention : Nat → Byte

/-- FREE VALUE (log 33). The first detail of PLACE_STUCK when no device is on the order's nozzle any longer (R128, R171).
Applied to the model's draw counter. -/
opaque Config.stuckDetail : Nat → BitVec 32

/-- R11: a through queue holds up to 8 frames. -/
def Config.throughCapacity : Nat := 8

/-- R12: an own queue holds up to 32 frames. -/
def Config.ownCapacity : Nat := 32

/-- R163: the completion list holds up to 4 entries. -/
def Config.completionCapacity : Nat := 4

/-- R175, R153: the saturation value of lot counters and of the lot clock. -/
def Config.counterMax : Nat := 4294967295

/-- R171: the saturation value of an event's occurrence count. -/
def Config.occurrenceMax : Nat := 65535

/-- R44: the last rail coordinate along X. -/
def Config.railMaxX : Nat := 1599999

/-- R44: the last rail coordinate along Y. -/
def Config.railMaxY : Nat := 599999

/-- R50: the width of a zone. -/
def Config.zoneWidth : Nat := 100000

/-- R130: the count a recover timer is started with. -/
def Config.recoverTicks : Nat := 10000

/-- R184: the most bytes the result fields of a response may take. -/
def Config.resultMax : Nat := 238

end Sys2Proof
end

