-- ==== Sys2Proof/Machine/State.lean ====
section
/-! DEFINITION. The state of the 6420, every record and table the manual gives it, as plain data; its value after
power-on; and the reasons a step could stop. -/

namespace Sys2Proof.Machine

/-! ## Names and small values -/

/-- A value for each head. -/
structure PerHead (α : Type) where
  west : α
  east : α
deriving DecidableEq, Repr

/-- A point of the rail, in µm. -/
structure Pos where
  x : Nat
  y : Nat
deriving DecidableEq, Repr

/-- A run of zones, both ends included (R50, R136). -/
structure Span where
  lo : Nat
  hi : Nat
deriving DecidableEq, Repr

/-- R155: the lot states. -/
inductive LotState where
  | idle
  | run
  | pause
  | drain
  | bypass
deriving DecidableEq, Repr

/-- R85: the two trays of a bin. -/
inductive TrayId where
  | a
  | b
deriving DecidableEq, Repr

/-- R20 (field table): the custody places. -/
inductive Place where
  | socket (s : Fin 64)
  | nozzle (h : Head) (n : Fin 4)
  | input (i : Fin 8)
  | retest (r : Fin 8)
deriving DecidableEq, Repr

/-- R113: the location of an order. -/
inductive Location where
  | socket (s : Fin 64)
  | input (i : Fin 8)
  | retest (r : Fin 8)
  | pocket (bin : Fin 16) (tray : TrayId) (index : Nat)
deriving DecidableEq, Repr

/-- R20 (field table): what is to become of a device. -/
inductive Disposition where
  | none
  | retest
  | bin (b : Fin 16)
  | hold
deriving DecidableEq, Repr

/-! ## The cell link -/

/-- A frame (R179) that has passed the CRC check of R2 or that the part produced. The length field is the payload's
length and the trailer is always the CRC-32C of the rest (R2, R17), so neither is kept. -/
structure Frame where
  destination : Byte
  source : Byte
  kind : Byte
  attention : Byte
  correlator : Byte
  payload : List Byte
deriving DecidableEq, Repr

/-- R10: the two queues of a port. -/
inductive QueueKind where
  | through
  | own
deriving DecidableEq, Repr

/-- One port (R10, R13, R14): its queues, oldest frame first, the sequence count of its direction, the arbiter's
record and the frame on the wire. -/
structure PortState where
  through : List Frame
  own : List Frame
  sequence : Byte
  lastTaken : QueueKind
  sending : Option Frame
deriving DecidableEq, Repr

/-- R8: the directions a forwarding entry matches. -/
inductive Direction where
  | up
  | down
  | both
deriving DecidableEq, Repr

/-- R8: the actions of a forwarding entry. -/
inductive ForwardAction where
  | pass
  | drop
  | passInIdle
deriving DecidableEq, Repr

/-- R8: the fields of a forwarding entry in use; `none` is ANY. -/
structure ForwardRule where
  source : Option Byte
  destination : Option Byte
  kind : Option Byte
  direction : Direction
  action : ForwardAction
deriving DecidableEq, Repr

/-! ## Custody -/

/-- A part record in use (R20 to R23); the index is its position in the part table. -/
structure PartRecord where
  tag : Nat
  place : Place
  attempts : List (Fin 64 × Byte)
  disposition : Disposition
  plan : Option Nat
deriving DecidableEq, Repr

/-- An input slot entry (R24). -/
structure InputSlot where
  record : Option (Fin 96)
  plan : Option Nat
  taken : Option Nat
deriving DecidableEq, Repr

/-- A retest slot entry (R25). -/
structure RetestSlot where
  record : Option (Fin 96)
  plan : Option Nat
deriving DecidableEq, Repr

/-! ## Location tables -/

/-- R40: the heads that may serve a socket. -/
inductive Home where
  | west
  | east
  | either
deriving DecidableEq, Repr

/-- R40: a present SITE_GEOMETRY entry. -/
structure SiteGeometry where
  x : Nat
  y : Nat
  group : Fin 16
  home : Home
deriving DecidableEq, Repr

/-- R42: a NOZZLE entry. -/
structure Offset where
  dx : Int
  dy : Int
deriving DecidableEq, Repr

/-- R43: a MOTION entry. -/
structure Motion where
  vx : Nat
  vy : Nat
  base : Nat
  pick : Nat
  place : Nat
deriving DecidableEq, Repr

/-! ## Sockets and groups -/

/-- R54: the socket states. -/
inductive SocketState where
  | off
  | empty
  | filling
  | soaking
  | ready
  | testing
  | tested
  | emptying
deriving DecidableEq, Repr

/-- R54: the set of fault flags. -/
structure FaultFlags where
  miss : Bool
  stuck : Bool
  timeout : Bool
  result : Bool
deriving DecidableEq, Repr

/-- R54: the causes of pending-disable. -/
inductive DisableCause where
  | request
  | fault
deriving DecidableEq, Repr

/-- R54: a socket entry; `last` is the last result's code and test time. -/
structure Socket where
  state : SocketState
  record : Option (Fin 96)
  plan : Option Nat
  faults : FaultFlags
  faultCount : Nat
  pendingDisable : Option DisableCause
  last : Option (Byte × Nat)
deriving DecidableEq, Repr

/-- R57, R61: a group entry's start record, the time and the number of sockets of the last start. The fill-wait
timer stands in the timer pool. -/
structure Group where
  lastStart : Option (Nat × Nat)
deriving DecidableEq, Repr

/-! ## Disposition -/

/-- R77: the classes of a written bin map entry. -/
inductive BinClass where
  | bin
  | retest
  | hold
deriving DecidableEq, Repr

/-- R77: a written bin map entry. -/
structure BinEntry where
  cls : BinClass
  bin : Fin 16
  finalBin : Fin 16
  faultMark : Bool
deriving DecidableEq, Repr

/-- R85: the policies of a bin. -/
inductive Policy where
  | swap
  | divert
deriving DecidableEq, Repr

/-- R85: a written BIN_POLICY entry. -/
structure BinPolicy where
  policy : Policy
  divertBin : Fin 16
deriving DecidableEq, Repr

/-- R47: the orders a tray is filled in. -/
inductive FillOrder where
  | row
  | serpentine
deriving DecidableEq, Repr

/-- R47: the geometry of a tray. -/
structure TrayGeometry where
  ox : Nat
  oy : Nat
  columns : Nat
  rows : Nat
  px : Nat
  py : Nat
  order : FillOrder
deriving DecidableEq, Repr

/-- R86: the tray states. -/
inductive TrayState where
  | absent
  | ready
  | active
  | closing
  | full
deriving DecidableEq, Repr

/-- R86: a tray record. -/
structure TrayRecord where
  state : TrayState
  geometry : Option TrayGeometry
  allocated : Nat
  placed : Nat
  holes : Nat
deriving DecidableEq, Repr

/-- R85, R86: a bin record with its two trays; policy and divert bin stand in the BIN_POLICY table. -/
structure Bin where
  active : Option TrayId
  blocked : Bool
  trayA : TrayRecord
  trayB : TrayRecord
deriving DecidableEq, Repr

/-! ## Plans, orders and heads -/

/-- R94: the kinds of plan. -/
inductive PlanKind where
  | unload
  | exchange
  | load
  | stow
  | fetch
deriving DecidableEq, Repr

/-- R94: a live plan. `id` is the model's name for it (log 21). -/
structure Plan where
  id : Nat
  head : Head
  kind : PlanKind
deriving DecidableEq, Repr

/-- R113: the actions of an order. -/
inductive Action where
  | pick
  | place
  | park
deriving DecidableEq, Repr

/-- R113: the origins of an order. -/
inductive Origin where
  | planner
  | yield
  | lotEnd
deriving DecidableEq, Repr

/-- R113: the states of a queued order. -/
inductive OrderState where
  | pending
  | waitingZone
  | outstanding
  | unknown
deriving DecidableEq, Repr

/-- R49: the seat kinds of a MOVE ORDER. -/
inductive SeatKind where
  | socket
  | tray
  | shuttle
  | park
deriving DecidableEq, Repr

/-- R52: what the location resolver computes for an order at its grant. -/
structure Resolved where
  target : Pos
  seat : SeatKind
  span : Span
  timeout : Nat
deriving DecidableEq, Repr

/-- R113: an order record. Its head is the head whose queue holds it. -/
structure Order where
  tag : Nat
  action : Action
  nozzle : Option (Fin 4)
  location : Option Location
  part : Option (Fin 96)
  plan : Option Nat
  origin : Origin
  resolved : Option Resolved
  retry : Nat
  state : OrderState
deriving DecidableEq, Repr

/-- R117: a nozzle entry. -/
structure Nozzle where
  record : Option (Fin 96)
  blocked : Bool
  plan : Option Nat
deriving DecidableEq, Repr

/-- R116: the head states. -/
inductive HeadState where
  | offline
  | ready
  | stopped
  | recovering
deriving DecidableEq, Repr

/-- One head: the order unit's record of it (R114 to R117), the zone arbiter's (R136, R143), the planner's service
pointer (R100) and the model's mark that a planning opportunity awaits its pass (R97, log 4). The last granted
target is computed from the queue (R116). -/
structure HeadRecord where
  state : HeadState
  known : Option Pos
  ticket : Option Nat
  tagCounter : Nat
  queue : List Order
  nozzles : Vector Nozzle 4
  holdings : Span
  base : Option Nat
  yieldDue : Bool
  pointer : Nat
  passDue : Bool
deriving DecidableEq, Repr

/-! ## Timers -/

/-- R148: a timer's state with its remaining count. A timer whose expiry its owner has not taken yet is CLEAR for the timer
unit: an `expired` one was brought to 0 by a tick (R150, log 3), an `atOnce` one was started or resumed with 0, and that
expiry comes directly after the step (R149). -/
inductive Timer where
  | clear
  | running (n : Nat)
  | held (n : Nat)
  | expired
  | atOnce
deriving DecidableEq, Repr

/-- R148: the pool of 150 timers. -/
structure Timers where
  soak : Vector Timer 64
  watchdog : Vector Timer 64
  fill : Vector Timer 16
  order : PerHead Timer
  yield : PerHead Timer
  recover : PerHead Timer
deriving DecidableEq, Repr

/-- The model's own: what the present command has opened and its end takes up (log 7). `grant` marks a grant point of a
head (R119), `yieldCheck` a check of the yield that is due for a head (R143). -/
structure Points where
  grant : PerHead Bool
  yieldCheck : PerHead Bool
deriving DecidableEq, Repr

/-- R147: the two factors of the tick. -/
structure TimeBase where
  prescaler : Nat
  divider : Nat
deriving DecidableEq, Repr

/-! ## The request unit -/

/-- R163: what a long request concerns. -/
inductive Subject where
  | lot
  | socket (s : Fin 64)
  | head (h : Head)
deriving DecidableEq, Repr

/-- R163: an entry of the completion list. -/
structure Completion where
  ticket : Nat
  code : Byte
  subject : Subject
deriving DecidableEq, Repr

/-- R167: the fault modes. -/
inductive FaultMode where
  | sticky
  | perPart
deriving DecidableEq, Repr

/-- R167: the LOT table's entry. -/
structure LotTable where
  soak : Nat
  fillWait : Nat
  testLimit : Nat
  timeoutCode : Byte
  retestLimit : Nat
  groupAvoidance : Bool
  holdBin : Fin 16
  faultThreshold : Nat
  faultMode : FaultMode
  yieldDelay : Nat
deriving DecidableEq, Repr

/-- R171: the 21 event kinds, in their numbering. -/
inductive EventKind where
  | linkIntegrity
  | linkCongestion
  | headProtocol
  | pickMiss
  | placeStuck
  | headStopped
  | orderTimeout
  | siteTimeout
  | lateReport
  | unmappedResult
  | socketDisabled
  | retestOverflow
  | trayFull
  | binBlocked
  | dupTag
  | shuttleMismatch
  | yieldPark
  | partialStart
  | inputStarved
  | requestSlotFree
  | accessRefused
deriving DecidableEq, Repr

/-- R171: an event record. -/
structure EventRecord where
  pending : Bool
  detail : Option Nat
  count : Nat
deriving DecidableEq, Repr

/-- R175: the lot counters. -/
structure Counters where
  registered : Nat
  binned : Vector Nat 16
  testsStarted : Nat
  testTimeouts : Nat
  partialStarts : Nat
  retests : Nat
  returned : Nat
  removed : Nat
deriving DecidableEq, Repr

/-- R183: the 11 tables. -/
inductive TableId where
  | node
  | siteGeometry
  | deck
  | nozzle
  | motion
  | lot
  | binMap
  | binPolicy
  | serviceList
  | forwarding
  | timebase
deriving DecidableEq, Repr

/-! ## The state -/

/-- The whole state of the 6420. In every table `none` marks an unwritten entry (R39, R165). -/
structure State where
  /-- RESET_N is low (R18). -/
  resetLow : Bool
  /-- The part's own link address, absent when the straps read 31 (R1). -/
  ownAddress : Option Byte
  /-- The upstream and downstream ports (R10 to R14). -/
  upstream : PortState
  downstream : PortState
  /-- NODE (R4): cell computer, site interface, West head, East head, shuttle. -/
  node : Vector (Option Byte) 5
  /-- FORWARDING (R8); a written entry that is not in use is `some none`. -/
  forwarding : Vector (Option (Option ForwardRule)) 32
  /-- The part table and the slots (R20 to R25). -/
  parts : Vector (Option PartRecord) 96
  inputs : Vector InputSlot 8
  retests : Vector RetestSlot 8
  /-- SITE_GEOMETRY (R40); a written absent entry is `some none`. -/
  siteGeometry : Vector (Option (Option SiteGeometry)) 64
  /-- DECK (R41), NOZZLE (R42) and MOTION (R43). -/
  deck : Vector (Option Pos) 18
  nozzleTable : Vector (Option Offset) 8
  motion : Vector (Option Motion) 2
  /-- Sockets and groups (R54, R57). -/
  sockets : Vector Socket 64
  groups : Vector Group 16
  /-- Bin map, BIN_POLICY, bins and trays (R77, R85, R86). -/
  binMap : Vector (Option BinEntry) 256
  binPolicy : Vector (Option BinPolicy) 16
  bins : Vector Bin 16
  /-- The heads (R113 to R117, R136) and the live plans (R94). -/
  heads : PerHead HeadRecord
  plans : List Plan
  /-- The model's own: the name the next plan takes (log 21). -/
  planCount : Nat
  /-- The model's own: the grant points and yield checks of the present command (log 7). -/
  points : Points
  /-- The timer pool (R148), the lot clock (R153), TIMEBASE (R147), the factors of the tick in progress (R147) and
  the two counting stages (R146). -/
  timers : Timers
  lotClock : Nat
  timebase : TimeBase
  tickFactors : TimeBase
  prescaleCount : Nat
  divideCount : Nat
  /-- The lot state and, in PAUSE, the remembered state (R155). -/
  lotState : LotState
  remembered : Option LotState
  /-- The completion list, its ticket counter and the slot-wanted flag (R163, R164). -/
  completions : List Completion
  ticketCounter : Nat
  slotWanted : Bool
  /-- The write cursors, LOT and SERVICE_LIST (R165 to R167). -/
  cursors : Vector Nat 11
  lotTable : Option LotTable
  serviceList : List (Fin 64)
  /-- Event records, event mask and lot counters (R171, R172, R175). -/
  events : Vector EventRecord 21
  eventMask : BitVec 21
  counters : Counters
  /-- The model's own: how many free values have been drawn (logs 8, 11, 33). -/
  draws : Nat
  /-- The commands that wait, first in, first out. -/
  pending : List Instr
deriving DecidableEq, Repr

/-- Reasons a step could stop with a fault. The manual gives every command an effect in every state, so there is
none: no command of this block faults (safe). -/
inductive Fault where
deriving DecidableEq, Repr

/-- Reasons a command could be refused. -/
inductive Refusal where
  /-- Raised by an arm of `exec` for a command that has no meaning yet; safe, since nothing follows from it. No arm
  raises it. -/
  | notModelled (mnemonic : String)
deriving DecidableEq, Repr

/-! ## Power-on values -/

def PortState.initial : PortState :=
  { through := [], own := [], sequence := 0, lastTaken := .through, sending := none }

def InputSlot.initial : InputSlot := { record := none, plan := none, taken := none }

def RetestSlot.initial : RetestSlot := { record := none, plan := none }

def FaultFlags.none : FaultFlags := { miss := false, stuck := false, timeout := false, result := false }

def Socket.initial : Socket :=
  { state := .off, record := none, plan := none, faults := .none, faultCount := 0, pendingDisable := none, last := none }

def Group.initial : Group := { lastStart := none }

def TrayRecord.initial : TrayRecord :=
  { state := .absent, geometry := none, allocated := 0, placed := 0, holes := 0 }

def Bin.initial : Bin := { active := none, blocked := false, trayA := .initial, trayB := .initial }

def Nozzle.initial : Nozzle := { record := none, blocked := false, plan := none }

/-- R145: the default halves of the rail. -/
def Span.defaultHalf : Head → Span
  | .west => { lo := 0, hi := 6 }
  | .east => { lo := 9, hi := 15 }

/-- R112, R117, R135, R145. -/
def HeadRecord.initial (h : Head) : HeadRecord :=
  { state := .offline, known := none, ticket := none, tagCounter := 0, queue := [],
    nozzles := Vector.replicate 4 .initial, holdings := .defaultHalf h, base := none, yieldDue := false,
    pointer := 0, passDue := false }

def Points.none : Points := { grant := ⟨false, false⟩, yieldCheck := ⟨false, false⟩ }

def Timers.initial : Timers :=
  { soak := Vector.replicate 64 .clear, watchdog := Vector.replicate 64 .clear, fill := Vector.replicate 16 .clear,
    order := ⟨.clear, .clear⟩, yield := ⟨.clear, .clear⟩, recover := ⟨.clear, .clear⟩ }

def EventRecord.initial : EventRecord := { pending := false, detail := none, count := 0 }

def Counters.zero : Counters :=
  { registered := 0, binned := Vector.replicate 16 0, testsStarted := 0, testTimeouts := 0, partialStarts := 0,
    retests := 0, returned := 0, removed := 0 }

/-- R147: the factors after power-on. -/
def TimeBase.initial : TimeBase := { prescaler := 250, divider := 100 }

/-- The machine right after power-on (R18, R37, R39, R75, R93, R112, R135, R145, R154, R170, R177). The straps are
taken to read 0 (DESIGN CHOICE, log 2); POWER_ON reads any other address. -/
def State.reset : State where
  resetLow := false
  ownAddress := some 0
  upstream := .initial
  downstream := .initial
  node := Vector.replicate 5 none
  forwarding := Vector.replicate 32 none
  parts := Vector.replicate 96 none
  inputs := Vector.replicate 8 .initial
  retests := Vector.replicate 8 .initial
  siteGeometry := Vector.replicate 64 none
  deck := Vector.replicate 18 none
  nozzleTable := Vector.replicate 8 none
  motion := Vector.replicate 2 none
  sockets := Vector.replicate 64 .initial
  groups := Vector.replicate 16 .initial
  binMap := Vector.replicate 256 none
  binPolicy := Vector.replicate 16 none
  bins := Vector.replicate 16 .initial
  heads := ⟨.initial .west, .initial .east⟩
  plans := []
  planCount := 0
  points := .none
  timers := .initial
  lotClock := 0
  timebase := .initial
  tickFactors := .initial
  prescaleCount := 0
  divideCount := 0
  lotState := .idle
  remembered := none
  completions := []
  ticketCounter := 0
  slotWanted := false
  cursors := Vector.replicate 11 0
  lotTable := none
  serviceList := []
  events := Vector.replicate 21 .initial
  eventMask := 0
  counters := .zero
  draws := 0
  pending := []

end Sys2Proof.Machine
end

