-- ==== Sys2Proof/Machine/Operands.lean ====
section
/-! DEFINITION. The forms operands take: bytes and little-endian fields, the frame and its CRC, the payloads of the
deck frames, places, and the codes of chapter 12. -/

namespace Sys2Proof.Machine

/-! ## Plain helpers -/

/-- `f` on every entry of a table. -/
def mapVec (f : α → β) (v : Vector α n) : Vector β n :=
  ⟨⟨v.toList.map f⟩, by simp⟩

/-- The entry for a head. -/
def PerHead.get (p : PerHead α) : Head → α
  | .west => p.west
  | .east => p.east

/-- The pair with one head's entry replaced. -/
def PerHead.set (p : PerHead α) (h : Head) (x : α) : PerHead α :=
  match h with
  | .west => { p with west := x }
  | .east => { p with east := x }

end Sys2Proof.Machine

namespace Sys2Proof

/-- The other head. -/
def Head.other : Head → Head
  | .west => .east
  | .east => .west

/-- Heads are West and East, numbered 0 and 1 (00, Conventions). -/
def Head.num : Head → Nat
  | .west => 0
  | .east => 1

/-- The head a number names. -/
def Head.ofNum (n : Nat) : Option Head :=
  if n = 0 then some .west else if n = 1 then some .east else none

/-- The port opposite to a port. -/
def Port.other : Port → Port
  | .upstream => .downstream
  | .downstream => .upstream

/-- R2, R11: the upstream port is 0 in an event's detail, the downstream port 1. -/
def Port.num : Port → Nat
  | .upstream => 0
  | .downstream => 1

end Sys2Proof

namespace Sys2Proof.Machine

/-- The number below `n` that `v` is, if it is one. -/
def finOf (n v : Nat) : Option (Fin n) :=
  if h : v < n then some ⟨v, h⟩ else none

/-! ## Little-endian fields (R178) -/

/-- The number whose bytes, least significant first, are `bs`. -/
def leNat : List Byte → Nat
  | [] => 0
  | b :: bs => b.toNat + 256 * leNat bs

/-- The `n` bytes of `v`, least significant first. -/
def leBytes : Nat → Nat → List Byte
  | 0, _ => []
  | n + 1, v => byte v :: leBytes n (v / 256)

/-- The field of `n` bytes at byte `i` of a payload or entry. -/
def fieldAt (bs : List Byte) (i n : Nat) : Nat := leNat ((bs.drop i).take n)

/-- Byte `i` of a payload or entry. -/
def byteAt (bs : List Byte) (i : Nat) : Byte := bs.getD i 0

/-- R178: a signed field of four bytes in two's complement. -/
def signedAt (bs : List Byte) (i : Nat) : Int := (BitVec.ofNat 32 (fieldAt bs i 4)).toInt

/-- R178: four bytes of two's complement. -/
def signedBytes (v : Int) : List Byte := leBytes 4 (BitVec.ofInt 32 v).toNat

/-- R178: an absent field carries the all-ones value of its width. -/
def absentBytes (n : Nat) : List Byte := List.replicate n 0xFF#8

/-- A field that may be absent. -/
def optBytes (n : Nat) : Option Nat → List Byte
  | some v => leBytes n v
  | none => absentBytes n

/-- R178: a two-valued flag carries 1 for set and 0 otherwise. -/
def flagByte (b : Bool) : Byte := if b then 1 else 0

/-- R178: reading a two-valued flag; the manual gives no meaning to a byte above 1 (FREE VALUE, log 10). -/
def readFlag (b : Byte) : Bool :=
  if b = 0 then false else if b = 1 then true else Config.oddFlag b

/-- The entries of `size` bytes that `bs` holds. -/
def chunks (size : Nat) (bs : List Byte) : List (List Byte) :=
  (List.range (bs.length / size)).map fun i => (bs.drop (i * size)).take size

/-! ## The frame and its trailer (R179, R180) -/

/-- R180: one shift of the CRC register. -/
def crcShift (r : BitVec 32) : BitVec 32 :=
  if r.getLsbD 0 then (r >>> 1) ^^^ 0x82F63B78#32 else r >>> 1

/-- R180: one byte taken into the CRC register. -/
def crcByte (r : BitVec 32) (b : Byte) : BitVec 32 :=
  crcShift (crcShift (crcShift (crcShift (crcShift (crcShift (crcShift (crcShift (r ^^^ b.setWidth 32))))))))

/-- R180: the CRC-32C of a list of bytes. -/
def crc32c (bs : List Byte) : BitVec 32 := ~~~ (bs.foldl crcByte 0xFFFFFFFF#32)

/-- R179: header and payload, in the order they are sent. -/
def Frame.body (f : Frame) : List Byte :=
  [f.destination, f.source, f.kind, f.attention, f.correlator, byte f.payload.length] ++ f.payload

/-- R179: the whole frame as it is sent, trailer last. -/
def Frame.wire (f : Frame) : List Byte := f.body ++ leBytes 4 (crc32c f.body).toNat

/-- R2: the frame that a run of received bytes is, when it passes the checks on its length and its trailer. The check
on the source field needs the own address and stands in `Link`. -/
def Frame.parse : List Byte → Option Frame
  | dst :: src :: kind :: att :: cor :: len :: rest =>
    if len.toNat ≤ 240 ∧ rest.length = len.toNat + 4 then
      let f : Frame := ⟨dst, src, kind, att, cor, rest.take len.toNat⟩
      if leNat (rest.drop len.toNat) = (crc32c f.body).toNat then some f else none
    else none
  | _ => none

/-! ## Frame kinds (R180, R181) -/

def kindSiteStart : Byte := 0x21
def kindSiteReport : Byte := 0x22
def kindMoveOrder : Byte := 0x31
def kindHeadStatus : Byte := 0x32
def kindHeadControl : Byte := 0x33
def kindShuttleReport : Byte := 0x41
def kindShuttleTaken : Byte := 0x42
def kindMgmtRequest : Byte := 0x51
def kindMgmtResponse : Byte := 0x52
def kindCompletion : Byte := 0x53
def kindNotice : Byte := 0x54

/-- The broadcast address (00, Signals). -/
def broadcast : Byte := 31

/-- R3, R180: the payload lengths that fit a kind. -/
def lengthFits (kind : Byte) (n : Nat) : Bool :=
  if kind = kindSiteStart then decide (2 ≤ n ∧ n ≤ 65)
  else if kind = kindSiteReport then n == 7
  else if kind = kindMoveOrder then n == 12
  else if kind = kindHeadStatus then n == 12
  else if kind = kindHeadControl then n == 1
  else if kind = kindShuttleReport then n == 5
  else if kind = kindShuttleTaken then n == 5
  else if kind = kindMgmtRequest then decide (2 ≤ n ∧ n ≤ 240)
  else if kind = kindMgmtResponse then decide (2 ≤ n ∧ n ≤ 240)
  else if kind = kindCompletion then n == 4
  else if kind = kindNotice then n == 5
  else true

/-! ## Deck payloads (R181) -/

/-- R181: the outcomes of a HEAD STATUS. -/
inductive HeadOutcome where
  | ready
  | done
  | miss
  | stuck
  | jam
deriving DecidableEq, Repr

/-- R181: the outcome a byte names, if it is one of the five (R123). -/
def HeadOutcome.ofNum (n : Nat) : Option HeadOutcome :=
  if n = 0 then some .ready else if n = 1 then some .done else if n = 2 then some .miss
  else if n = 3 then some .stuck else if n = 4 then some .jam else none

/-- R181: the fields of a HEAD STATUS. -/
structure HeadStatusFields where
  head : Nat
  outcome : Option HeadOutcome
  tag : Nat
  presence : Byte
  position : Pos
deriving DecidableEq, Repr

/-- R53: a reported coordinate outside its range is brought to the nearer end. -/
def clampPos (p : Pos) : Pos := ⟨min p.x Config.railMaxX, min p.y Config.railMaxY⟩

/-- R181, R53: reading a HEAD STATUS payload. -/
def HeadStatusFields.read (bs : List Byte) : HeadStatusFields :=
  { head := fieldAt bs 0 1, outcome := HeadOutcome.ofNum (fieldAt bs 1 1), tag := fieldAt bs 2 1, presence := byteAt bs 3,
    position := clampPos ⟨fieldAt bs 4 4, fieldAt bs 8 4⟩ }

/-- R118: nozzle `n` is reported present. -/
def presentFlag (presence : Byte) (n : Fin 4) : Bool := presence.getLsbD n

/-- R181, R182: the disposition as a byte: bin 0..15, RETEST 16, HOLD 17, none 255. -/
def Disposition.code : Disposition → Byte
  | .bin b => byte b
  | .retest => 16
  | .hold => 17
  | .none => 255

/-- R15, R181: a SITE REPORT's payload with its disposition field rewritten. -/
def annotate (payload : List Byte) (d : Disposition) : List Byte := payload.set 6 d.code

/-! ## Places and locations (R182, R184) -/

/-- R182: a nozzle numbered 4 × head + nozzle, on the wire and in the NOZZLE table (R39). -/
def nozzleNum (h : Head) (n : Fin 4) : Fin 8 :=
  match h with
  | .west => ⟨n, by omega⟩
  | .east => ⟨4 + n, by omega⟩

/-- The head and nozzle a number 0..7 names. -/
def nozzleOfNum (k : Fin 8) : Head × Fin 4 :=
  if h : k.val < 4 then (.west, ⟨k, h⟩) else (.east, ⟨k - 4, by omega⟩)

/-- R182: a place as two bytes, its kind and its number. -/
def Place.bytes : Place → List Byte
  | .socket s => [0, byte s]
  | .nozzle h n => [1, byte (nozzleNum h n)]
  | .input i => [2, byte i]
  | .retest r => [3, byte r]

/-- R182: the place that a kind and a number name. -/
def Place.ofCode (kind number : Nat) : Option Place :=
  if kind = 0 then (finOf 64 number).map .socket
  else if kind = 1 then (finOf 8 number).map fun k => .nozzle (nozzleOfNum k).1 (nozzleOfNum k).2
  else if kind = 2 then (finOf 8 number).map .input
  else if kind = 3 then (finOf 8 number).map .retest
  else none

/-- Trays A and B, 0 and 1 on the link (R182). -/
def TrayId.num : TrayId → Nat
  | .a => 0
  | .b => 1

/-- The tray a number names. -/
def TrayId.ofNum (n : Nat) : Option TrayId :=
  if n = 0 then some .a else if n = 1 then some .b else none

/-- The bin's other tray. -/
def TrayId.other : TrayId → TrayId
  | .a => .b
  | .b => .a

/-- R184: a location of a queued order, a place or POCKET, then two bytes of pocket index (absent for a place). -/
def Location.bytes : Location → List Byte
  | .socket s => Place.bytes (.socket s) ++ absentBytes 2
  | .input i => Place.bytes (.input i) ++ absentBytes 2
  | .retest r => Place.bytes (.retest r) ++ absentBytes 2
  | .pocket b t k => [4, byte (2 * b + t.num)] ++ leBytes 2 k

/-! ## Numbers of the enumerated values (R178) -/

def LotState.num : LotState → Nat
  | .idle => 0
  | .run => 1
  | .pause => 2
  | .drain => 3
  | .bypass => 4

def SocketState.num : SocketState → Nat
  | .off => 0
  | .empty => 1
  | .filling => 2
  | .soaking => 3
  | .ready => 4
  | .testing => 5
  | .tested => 6
  | .emptying => 7

def HeadState.num : HeadState → Nat
  | .offline => 0
  | .ready => 1
  | .stopped => 2
  | .recovering => 3

def OrderState.num : OrderState → Nat
  | .pending => 0
  | .waitingZone => 1
  | .outstanding => 2
  | .unknown => 3

def Action.num : Action → Nat
  | .pick => 0
  | .place => 1
  | .park => 2

def SeatKind.num : SeatKind → Nat
  | .socket => 0
  | .tray => 1
  | .shuttle => 2
  | .park => 3

def PlanKind.num : PlanKind → Nat
  | .unload => 0
  | .exchange => 1
  | .load => 2
  | .stow => 3
  | .fetch => 4

def TrayState.num : TrayState → Nat
  | .absent => 0
  | .ready => 1
  | .active => 2
  | .closing => 3
  | .full => 4

/-- R148: the state of a timer, CLEAR, RUNNING or HELD. A timer that has expired is CLEAR (R150). -/
def Timer.num : Timer → Nat
  | .clear => 0
  | .expired => 0
  | .atOnce => 0
  | .running _ => 1
  | .held _ => 2

/-- R148: the remaining count, absent while CLEAR. -/
def Timer.remaining : Timer → Option Nat
  | .clear => none
  | .expired => none
  | .atOnce => none
  | .running n => some n
  | .held n => some n

/-- R178: pending-disable with its cause in one byte. -/
def disableNum : Option DisableCause → Nat
  | none => 0
  | some .request => 1
  | some .fault => 2

/-- R171: the numbers of the event kinds. -/
def EventKind.num : EventKind → Fin 21
  | .linkIntegrity => 0
  | .linkCongestion => 1
  | .headProtocol => 2
  | .pickMiss => 3
  | .placeStuck => 4
  | .headStopped => 5
  | .orderTimeout => 6
  | .siteTimeout => 7
  | .lateReport => 8
  | .unmappedResult => 9
  | .socketDisabled => 10
  | .retestOverflow => 11
  | .trayFull => 12
  | .binBlocked => 13
  | .dupTag => 14
  | .shuttleMismatch => 15
  | .yieldPark => 16
  | .partialStart => 17
  | .inputStarved => 18
  | .requestSlotFree => 19
  | .accessRefused => 20

/-- R183: the table ids. -/
def TableId.num : TableId → Fin 11
  | .node => 0
  | .siteGeometry => 1
  | .deck => 2
  | .nozzle => 3
  | .motion => 4
  | .lot => 5
  | .binMap => 6
  | .binPolicy => 7
  | .serviceList => 8
  | .forwarding => 9
  | .timebase => 10

/-- R183: the table a byte names. -/
def TableId.ofNum (n : Nat) : Option TableId :=
  [TableId.node, .siteGeometry, .deck, .nozzle, .motion, .lot, .binMap, .binPolicy, .serviceList, .forwarding,
    .timebase][n]?

/-- R163, R182: a COMPLETION's subject: socket, head, or 255 for the lot. -/
def Subject.code : Subject → Byte
  | .lot => 255
  | .socket s => byte s
  | .head h => byte h.num

/-- R156, R182: the result codes. -/
inductive ResultCode where
  | ok
  | inProgress
  | busy
  | state
  | range
  | access
  | unknown
  | notFound
deriving DecidableEq, Repr

def ResultCode.num : ResultCode → Nat
  | .ok => 0
  | .inProgress => 1
  | .busy => 2
  | .state => 3
  | .range => 4
  | .access => 5
  | .unknown => 6
  | .notFound => 7

/-- R163, R182: the final codes of a COMPLETION. -/
inductive FinalCode where
  | ok
  | timeout
  | cancelled
deriving DecidableEq, Repr

def FinalCode.num : FinalCode → Nat
  | .ok => 0
  | .timeout => 1
  | .cancelled => 2

/-- R182: the request codes. -/
def codeLotStart : Byte := 0x01
def codeLotPause : Byte := 0x02
def codeLotResume : Byte := 0x03
def codeLotDrain : Byte := 0x04
def codeLotEnd : Byte := 0x05
def codeBypassEnter : Byte := 0x06
def codeBypassExit : Byte := 0x07
def codeReset : Byte := 0x08
def codeTableWrite : Byte := 0x10
def codeTableRead : Byte := 0x11
def codeCursorReset : Byte := 0x12
def codeStatusRead : Byte := 0x20
def codeEventAck : Byte := 0x21
def codeEventMask : Byte := 0x22
def codeSocketEnable : Byte := 0x30
def codeSocketDisable : Byte := 0x31
def codeSocketClear : Byte := 0x32
def codeTrayReady : Byte := 0x40
def codeTrayWithdraw : Byte := 0x41
def codeHeadRecover : Byte := 0x50
def codePartPurge : Byte := 0x60
def codeLocate : Byte := 0x61

end Sys2Proof.Machine

namespace Sys2Proof

/-- R182: bit 0 of the flags byte is the notify flag. -/
def Request.notify (r : Request) : Bool := r.flags.getLsbD 0

/-- R182: the frame a MGMT REQUEST with this code is, addressed to `own`. -/
def Request.frame (r : Request) (own code : Byte) : Machine.Frame :=
  { destination := own, source := r.source, kind := Machine.kindMgmtRequest, attention := 0,
    correlator := r.correlator, payload := code :: r.flags :: r.fields }

end Sys2Proof
end

