-- ==== Sys2Proof/Machine/Flags.lean ====
section
/-! DEFINITION. Flags and counts: saturation, the event record, the attention byte, a socket's fault flags, and what a
timer's state says. -/

namespace Sys2Proof.Machine

/-- R175, R153: a 32-bit saturating count rises by one. -/
def satSucc (n : Nat) : Nat := min (n + 1) Config.counterMax

/-- R171: one more occurrence of an event, with its detail. -/
def EventRecord.occur (e : EventRecord) (detail : Nat) : EventRecord :=
  { pending := true, detail := if e.pending then e.detail else some detail,
    count := min (e.count + 1) Config.occurrenceMax }

/-- R17: some event kind is both pending and unmasked. -/
def attentionMark (s : State) : Bool :=
  (List.finRange 21).any fun k => s.events[k].pending && s.eventMask.getLsbD k

/-- R17, R179: the stamp, lot state code in bits 0 to 2 and the attention mark in bit 7. -/
def attentionByte (s : State) : Byte :=
  byte (s.lotState.num + if attentionMark s then 128 else 0)

/-- R69: the kinds of socket fault. -/
inductive FaultKind where
  | miss
  | stuck
  | timeout
  | result
deriving DecidableEq, Repr

/-- R69: a kind added to the fault flags. -/
def FaultFlags.add (f : FaultFlags) : FaultKind → FaultFlags
  | .miss => { f with miss := true }
  | .stuck => { f with stuck := true }
  | .timeout => { f with timeout := true }
  | .result => { f with result := true }

/-- R178: the fault flags as a set, bit k for the k-th member of R54. -/
def FaultFlags.num (f : FaultFlags) : Nat :=
  f.miss.toNat + 2 * f.stuck.toNat + 4 * f.timeout.toNat + 8 * f.result.toNat

/-- R69: the fault count rises by one, stopping at 15. -/
def faultSucc (n : Nat) : Nat := min (n + 1) 15

/-- The lot is in RUN or DRAIN: gated timers count (R152), orders are granted (R119), passes take place (R98). -/
def LotState.active : LotState → Bool
  | .run => true
  | .drain => true
  | _ => false

/-- The lot is in RUN, PAUSE or DRAIN: owned frames are processed (R5) and tables are protected (R165). -/
def LotState.working : LotState → Bool
  | .run => true
  | .pause => true
  | .drain => true
  | _ => false

/-- The lot is in DRAIN or in a PAUSE entered from DRAIN (R160). -/
def draining (s : State) : Bool :=
  s.lotState == .drain || (s.lotState == .pause && s.remembered == some .drain)

/-- The lot is in RUN or in a PAUSE entered from RUN (R79). -/
def running (s : State) : Bool :=
  s.lotState == .run || (s.lotState == .pause && s.remembered == some .run)

/-- R149: a timer that counts `n` ticks from now; with `n = 0` it expires at once. -/
def Timer.count : Nat → Timer
  | 0 => .atOnce
  | n => .running n

/-- R149, R150: the owner has an expiry of the timer to take. -/
def Timer.due (t : Timer) : Bool := t == .expired || t == .atOnce

/-- R149: a timer started with `n`, RUNNING when its class counts and HELD otherwise. -/
def Timer.start (counts : Bool) (n : Nat) : Timer := if counts then .count n else .held n

/-- R150: the end of a tick reduces a RUNNING timer above 0, and one that it brings to 0 expires. -/
def Timer.tick : Timer → Timer
  | .running 1 => .expired
  | .running (n + 2) => .running (n + 1)
  | t => t

/-- R152: a RUNNING gated timer becomes HELD. -/
def Timer.hold : Timer → Timer
  | .running n => .held n
  | t => t

/-- R152, R149: a HELD gated timer becomes RUNNING, and one held with 0 expires at once. -/
def Timer.resume : Timer → Timer
  | .held n => .count n
  | t => t

end Sys2Proof.Machine
end

