-- ==== Sys2Proof/Machine/Ops.lean ====
section
/-! DEFINITION. The shared operations on the state: reading and changing one record, the timer pool, the link's queues
and arbiters, raising an event, producing an own frame, and the completion list. -/

namespace Sys2Proof.Machine

/-! ## One record of the state -/

def State.port (s : State) : Port → PortState
  | .upstream => s.upstream
  | .downstream => s.downstream

def State.setPort (s : State) (p : Port) (x : PortState) : State :=
  match p with
  | .upstream => { s with upstream := x }
  | .downstream => { s with downstream := x }

def State.head (s : State) (h : Head) : HeadRecord := s.heads.get h

def State.setHead (s : State) (h : Head) (x : HeadRecord) : State := { s with heads := s.heads.set h x }

def State.modHead (s : State) (h : Head) (f : HeadRecord → HeadRecord) : State := s.setHead h (f (s.head h))

def State.modSocket (s : State) (i : Fin 64) (f : Socket → Socket) : State :=
  { s with sockets := s.sockets.set i (f s.sockets[i]) }

def State.modInput (s : State) (i : Fin 8) (f : InputSlot → InputSlot) : State :=
  { s with inputs := s.inputs.set i (f s.inputs[i]) }

def State.modRetest (s : State) (i : Fin 8) (f : RetestSlot → RetestSlot) : State :=
  { s with retests := s.retests.set i (f s.retests[i]) }

def State.modNozzle (s : State) (h : Head) (n : Fin 4) (f : Nozzle → Nozzle) : State :=
  s.modHead h fun x => { x with nozzles := x.nozzles.set n (f x.nozzles[n]) }

def State.setPart (s : State) (i : Fin 96) (r : Option PartRecord) : State :=
  { s with parts := s.parts.set i r }

/-- A change to a part record in use; a free record is left free. -/
def State.modPart (s : State) (i : Fin 96) (f : PartRecord → PartRecord) : State :=
  s.setPart i (s.parts[i].map f)

def Bin.tray (b : Bin) : TrayId → TrayRecord
  | .a => b.trayA
  | .b => b.trayB

def Bin.setTray (b : Bin) (t : TrayId) (x : TrayRecord) : Bin :=
  match t with
  | .a => { b with trayA := x }
  | .b => { b with trayB := x }

def State.modBin (s : State) (i : Fin 16) (f : Bin → Bin) : State :=
  { s with bins := s.bins.set i (f s.bins[i]) }

def State.modTray (s : State) (i : Fin 16) (t : TrayId) (f : TrayRecord → TrayRecord) : State :=
  s.modBin i fun b => b.setTray t (f (b.tray t))

def State.modCounters (s : State) (f : Counters → Counters) : State := { s with counters := f s.counters }

/-- R167: the parameters of the lot; a lot is never in RUN without a written LOT table (R158, log 24). -/
def State.lot (s : State) : LotTable :=
  s.lotTable.getD
    { soak := 0, fillWait := 0, testLimit := 0, timeoutCode := 0, retestLimit := 0, groupAvoidance := false,
      holdBin := 0, faultThreshold := 0, faultMode := .sticky, yieldDelay := 0 }

/-- R40: the geometry of a socket whose entry is written and present. -/
def State.geometry (s : State) (i : Fin 64) : Option SiteGeometry := s.siteGeometry[i].join

/-- R4: the NODE table counts as written when all 5 of its entries are. -/
def State.nodeWritten (s : State) : Bool := s.node.toList.all Option.isSome

/-- R12: the address of a deck node, or the broadcast address while the NODE table is unwritten. -/
def State.nodeAddress (s : State) (i : Fin 5) : Byte :=
  if s.nodeWritten then s.node[i].getD broadcast else broadcast

/-! ## Grant points (R119, R143) -/

/-- R119: a grant point of a head, taken up at the end of the command (log 7). -/
def grantPoint (h : Head) (s : State) : State :=
  { s with points := { s.points with grant := s.points.grant.set h true } }

/-- R143: a check of the yield that is due for a head, taken up at the end of the command (log 7). -/
def yieldCheck (h : Head) (s : State) : State :=
  { s with points := { s.points with yieldCheck := s.points.yieldCheck.set h true } }

/-! ## Timers (R148 to R152) -/

/-- R148: the name of a timer. -/
inductive TimerId where
  | soak (s : Fin 64)
  | watchdog (s : Fin 64)
  | fill (g : Fin 16)
  | order (h : Head)
  | yield (h : Head)
  | recover (h : Head)
deriving DecidableEq, Repr

/-- R148: the gated class, held outside RUN and DRAIN. -/
def TimerId.gated : TimerId → Bool
  | .fill _ => true
  | .yield _ => true
  | _ => false

def State.timer (s : State) : TimerId → Timer
  | .soak i => s.timers.soak[i]
  | .watchdog i => s.timers.watchdog[i]
  | .fill g => s.timers.fill[g]
  | .order h => s.timers.order.get h
  | .yield h => s.timers.yield.get h
  | .recover h => s.timers.recover.get h

def State.setTimer (s : State) (id : TimerId) (t : Timer) : State :=
  match id with
  | .soak i => { s with timers := { s.timers with soak := s.timers.soak.set i t } }
  | .watchdog i => { s with timers := { s.timers with watchdog := s.timers.watchdog.set i t } }
  | .fill g => { s with timers := { s.timers with fill := s.timers.fill.set g t } }
  | .order h => { s with timers := { s.timers with order := s.timers.order.set h t } }
  | .yield h => { s with timers := { s.timers with yield := s.timers.yield.set h t } }
  | .recover h => { s with timers := { s.timers with recover := s.timers.recover.set h t } }

/-- R148: the 150 timers. -/
def allTimers : List TimerId :=
  (List.finRange 64).map .soak ++ (List.finRange 64).map .watchdog ++ (List.finRange 16).map .fill ++
    [.order .west, .order .east, .yield .west, .yield .east, .recover .west, .recover .east]

/-- R149, R150: the timers that have expired and whose owners have not taken the expiry yet. -/
def dueTimers (s : State) : List TimerId := allTimers.filter fun id => (s.timer id).due

/-- R149: an owner starts, or restarts, a timer with count `n`. -/
def startTimer (id : TimerId) (n : Nat) (s : State) : State :=
  s.setTimer id (Timer.start (!id.gated || s.lotState.active) n)

/-- R151: an owner cancels a timer. -/
def cancelTimer (id : TimerId) (s : State) : State := s.setTimer id .clear

/-- A change to every timer of the gated class. -/
def Timers.mapGated (f : Timer → Timer) (t : Timers) : Timers :=
  { t with fill := mapVec f t.fill, yield := ⟨f t.yield.west, f t.yield.east⟩ }

/-- A change to every timer. -/
def Timers.mapAll (f : Timer → Timer) (t : Timers) : Timers :=
  { soak := mapVec f t.soak, watchdog := mapVec f t.watchdog, fill := mapVec f t.fill,
    order := ⟨f t.order.west, f t.order.east⟩, yield := ⟨f t.yield.west, f t.yield.east⟩,
    recover := ⟨f t.recover.west, f t.recover.east⟩ }

/-- R152, R155: the lot state changes, and the gated timers are held or resumed with it. -/
def changeLot (new : LotState) (s : State) : State :=
  let timers :=
    if s.lotState.active && !new.active then s.timers.mapGated Timer.hold
    else if !s.lotState.active && new.active then s.timers.mapGated Timer.resume
    else s.timers
  { s with lotState := new, timers := timers }

/-! ## Ports, queues and arbiters (R10 to R14, R17) -/

/-- R17, R16: the frame as it is sent. Upstream frames are stamped outside BYPASS; in BYPASS a forwarded frame keeps
its attention field, and the manual gives no lot state code and no attention mark for an own frame (FREE VALUE, log 11),
whose bits 3 to 6 are zero as in every frame (R179). -/
def stamped (p : Port) (q : QueueKind) (f : Frame) (s : State) : Frame :=
  match p with
  | .downstream => f
  | .upstream =>
    if s.lotState = .bypass then
      match q with
      | .through => f
      | .own => { f with attention := Config.unstampedAttention s.draws &&& 0x87 }
    else { f with attention := attentionByte s }

/-- R14: the front of a queue leaves it and its transmission begins. -/
def startSending (p : Port) (q : QueueKind) (s : State) : State :=
  let x := s.port p
  let s := { s with draws := s.draws + if p = .upstream ∧ q = .own ∧ s.lotState = .bypass then 1 else 0 }
  match q with
  | .through =>
    match x.through with
    | [] => s
    | f :: rest => s.setPort p { x with through := rest, lastTaken := .through, sending := some (stamped p q f s) }
  | .own =>
    match x.own with
    | [] => s
    | f :: rest => s.setPort p { x with own := rest, lastTaken := .own, sending := some (stamped p q f s) }

/-- R14: the output arbiter of a port that is free looks at the two queue fronts. -/
def arbitrate (p : Port) (s : State) : State :=
  let x := s.port p
  if x.sending.isSome then s
  else
    match x.through, x.own with
    | [], [] => s
    | _ :: _, [] => startSending p .through s
    | [], _ :: _ => startSending p .own s
    | _ :: _, _ :: _ => startSending p (if x.lastTaken = .through then .own else .through) s

/-- R14: a frame joins the back of a queue, and an idle port takes the next frame at once. -/
def joinOwn (p : Port) (f : Frame) (s : State) : State :=
  let x := s.port p
  arbitrate p (s.setPort p { x with own := x.own ++ [f] })

def joinThrough (p : Port) (f : Frame) (s : State) : State :=
  let x := s.port p
  arbitrate p (s.setPort p { x with through := x.through ++ [f] })

/-- R12: the own queue of a port holds 32 frames. -/
def ownFull (p : Port) (s : State) : Bool := decide (Config.ownCapacity ≤ (s.port p).own.length)

/-- R11: the through queue of a port holds 8 frames. -/
def throughFull (p : Port) (s : State) : Bool := decide (Config.throughCapacity ≤ (s.port p).through.length)

/-- R12: an own frame joins its queue unless the queue is full. -/
def joinOwnOrDrop (p : Port) (f : Frame) (s : State) : State := if ownFull p s then s else joinOwn p f s

/-- R13: the sequence count of a direction advances by one, from 255 to 0. -/
def advanceSequence (p : Port) (s : State) : State :=
  s.setPort p { s.port p with sequence := (s.port p).sequence + 1 }

/-- R12: the header of an own frame that takes the sequence count as correlator. Its attention field is 0; upstream
it is stamped when it is sent (R17). -/
def ownFrame (p : Port) (destination kind : Byte) (payload : List Byte) (s : State) : Frame :=
  { destination := destination, source := s.ownAddress.getD broadcast, kind := kind, attention := 0,
    correlator := (s.port p).sequence, payload := payload }

/-! ## Events (R171 to R173) -/

/-- R171: an event kind would be announced if it were raised now. -/
def announces (k : EventKind) (s : State) : Bool := !s.events[k.num].pending && s.eventMask.getLsbD k.num

/-- R171: the record of an event kind takes one more occurrence. -/
def noteEvent (k : EventKind) (detail : Nat) (s : State) : State :=
  { s with events := s.events.set k.num (s.events[k.num].occur detail) }

/-- R173: the NOTICE of an event kind, with its first detail. -/
def noticeFrame (k : EventKind) (s : State) : Frame :=
  ownFrame .upstream (s.nodeAddress 0) kindNotice
    (byte k.num :: optBytes 4 s.events[k.num].detail) s

/-- R173, R13: a NOTICE is produced; it uses a sequence number even when a full queue discards it. -/
def produceNotice (k : EventKind) (s : State) : State :=
  joinOwnOrDrop .upstream (noticeFrame k s) (advanceSequence .upstream s)

/-- R173: LINK_CONGESTION is raised. A NOTICE of its own that a full queue discards raises it once more, which finds
the flag set and only adds to the count. -/
def raiseCongestion (detail : Nat) (s : State) : State :=
  let noted := noteEvent .linkCongestion detail s
  if announces .linkCongestion s then
    if ownFull .upstream s then noteEvent .linkCongestion 2 (produceNotice .linkCongestion noted)
    else produceNotice .linkCongestion noted
  else noted

/-- R171, R173: a block raises an event of a kind other than LINK_CONGESTION. -/
def raiseEvent (k : EventKind) (detail : Nat) (s : State) : State :=
  let noted := noteEvent k detail s
  if announces k s then
    if ownFull .upstream s then raiseCongestion 2 (produceNotice k noted) else produceNotice k noted
  else noted

/-! ## Own frames (R12) -/

/-- R12: a frame produced while its own queue holds 32 is discarded and LINK_CONGESTION is raised. -/
def queueOwn (p : Port) (f : Frame) (s : State) : State :=
  if ownFull p s then raiseCongestion (match p with | .upstream => 2 | .downstream => 3) s else joinOwn p f s

/-- R12, R13: an own frame other than a MGMT RESPONSE is produced. -/
def produce (p : Port) (destination kind : Byte) (payload : List Byte) (s : State) : State :=
  queueOwn p (ownFrame p destination kind payload s) (advanceSequence p s)

/-- R156, R182: the MGMT RESPONSE to a request. It neither uses nor advances the sequence count (R13). -/
def respondWith (r : Request) (code : ResultCode) (ticket : Nat) (fields : List Byte) (s : State) : State :=
  queueOwn .upstream
    { destination := r.source, source := s.ownAddress.getD broadcast, kind := kindMgmtResponse, attention := 0,
      correlator := r.correlator, payload := byte code.num :: byte ticket :: fields } s

def respond (r : Request) (code : ResultCode) (s : State) : State := respondWith r code 0 [] s

/-- R156: the answer OK with the request's result fields. -/
def respondOk (r : Request) (fields : List Byte) (s : State) : State := respondWith r .ok 0 fields s

/-- R156, R182: the answer RANGE with the first offending index in two bytes. -/
def respondRange (r : Request) (index : Nat) (s : State) : State := respondWith r .range 0 (leBytes 2 index) s

/-- R156: the answer IN_PROGRESS with a ticket. -/
def respondTicket (r : Request) (ticket : Nat) (s : State) : State := respondWith r .inProgress ticket [] s

/-- R156, R157: a request's payload is checked, then the lot state, before its owner carries it out. The STATE that answers
the wrong lot state has no result field, for LOT START either (DESIGN CHOICE, log 32). -/
def takeRequest (r : Request) (fits : Bool) (accepted : Bool) (act : State → State) (s : State) : State :=
  if fits then if accepted then act s else respond r .state s else respond r .unknown s

/-- R1, R2, R18: a request reaches the request unit when the part is out of reset and has an address of its own, and
its frame passes the checks of R2; a source that is 31 or the own address fails them. -/
def requestArrives (r : Request) (act : Request → State → State) (s : State) : State :=
  if s.resetLow then s
  else
    match s.ownAddress with
    | none => s
    | some own =>
      if r.source = broadcast ∨ r.source = own ∨ 240 < r.fields.length + 2 then raiseEvent .linkIntegrity 0 s
      else act r s

/-! ## Tickets (R163, R164) -/

/-- R114, R163: the next value after a counter, counting 1 to 255 and wrapping, skipping every used value. -/
def nextNumber (used : List Nat) : Nat → Nat → Nat
  | 0, c => c % 255 + 1
  | k + 1, c => if c % 255 + 1 ∈ used then nextNumber used k (c % 255 + 1) else c % 255 + 1

/-- R163: the completion list holds 4 entries. -/
def completionsFull (s : State) : Bool := decide (Config.completionCapacity ≤ s.completions.length)

/-- R163: the ticket held for a subject by a request of one code. -/
def ticketFor (code : Byte) (subject : Subject) (s : State) : Option Nat :=
  (s.completions.find? fun c => c.code == code && c.subject == subject).map Completion.ticket

/-- R163: the ticket a new entry takes. -/
def newTicket (s : State) : Nat :=
  nextNumber (s.completions.map Completion.ticket) s.completions.length s.ticketCounter

/-- R163: a new entry joins the back of the completion list. -/
def takeTicket (code : Byte) (subject : Subject) (s : State) : State :=
  { s with completions := s.completions ++ [⟨newTicket s, code, subject⟩], ticketCounter := newTicket s }

/-- R164: the answer BUSY to a long request that finds the list full. -/
def respondListFull (r : Request) (s : State) : State :=
  respond r .busy { s with slotWanted := s.slotWanted || r.notify }

/-- R163, R182: the COMPLETION frame of an entry. -/
def produceCompletion (c : Completion) (final : FinalCode) (s : State) : State :=
  produce .upstream (s.nodeAddress 0) kindCompletion
    [byte c.ticket, c.code, byte final.num, c.subject.code] s

/-- R164: an entry has left the list while the slot-wanted flag may be set. -/
def slotFreed (ticket : Nat) (s : State) : State :=
  if s.slotWanted then raiseEvent .requestSlotFree ticket { s with slotWanted := false } else s

/-- R163, R164: an owner reports the outcome of the request of one code on one subject, if the list holds it. -/
def complete (code : Byte) (subject : Subject) (final : FinalCode) (s : State) : State :=
  match s.completions.find? fun c => c.code == code && c.subject == subject with
  | none => s
  | some c =>
    slotFreed c.ticket
      (produceCompletion c final { s with completions := s.completions.filter fun d => !(d.ticket == c.ticket) })

end Sys2Proof.Machine
end

