-- ==== Sys2Proof/Machine/Resolver.lean ====
section
/-! DEFINITION. The location resolver (03): the location test, pockets, head reference positions, spans, timeouts. -/

namespace Sys2Proof.Machine

/-- R50: the zone of an X coordinate. -/
def zoneOf (x : Nat) : Nat := x / Config.zoneWidth

/-- R42: the offset of a nozzle, (0, 0) while its entry is unwritten. -/
def State.offset (s : State) (h : Head) (n : Fin 4) : Offset :=
  s.nozzleTable[nozzleNum h n].getD ⟨0, 0⟩

/-- R44: the zones a head may reach. -/
def inReach (h : Head) (zone : Nat) : Bool :=
  match h with
  | .west => decide (zone ≤ 13)
  | .east => decide (2 ≤ zone ∧ zone ≤ 15)

/-- R44: the location test with a given offset, computed with signed numbers. -/
def locationTest (h : Head) (o : Offset) (x y : Nat) : Bool :=
  let hx : Int := x - o.dx
  let hy : Int := y - o.dy
  decide (0 ≤ hx ∧ hx ≤ Config.railMaxX ∧ 0 ≤ hy ∧ hy ≤ Config.railMaxY) && inReach h (zoneOf hx.toNat)

/-- R44: a location passes for a head when it passes for all four nozzles of that head. -/
def passesHead (s : State) (h : Head) (x y : Nat) : Bool :=
  (List.finRange 4).all fun n => locationTest h (s.offset h n) x y

/-- R44, R45: a location that either head may be sent to. -/
def passesBoth (s : State) (x y : Nat) : Bool := passesHead s .west x y && passesHead s .east x y

/-- R40: a head may serve a socket of this home. -/
def Home.serves : Home → Head → Bool
  | .west, .west => true
  | .east, .east => true
  | .either, _ => true
  | _, _ => false

/-- R45: a present SITE_GEOMETRY entry is checked for every head that may serve the socket. -/
def passesHome (s : State) (g : SiteGeometry) : Bool :=
  (!g.home.serves .west || passesHead s .west g.x g.y) && (!g.home.serves .east || passesHead s .east g.x g.y)

/-- R47: a tray's capacity. -/
def TrayGeometry.capacity (g : TrayGeometry) : Nat := g.columns * g.rows

/-- R47: the column of pocket `k`. -/
def TrayGeometry.column (g : TrayGeometry) (k : Nat) : Nat :=
  if g.order = .serpentine ∧ (k / g.columns) % 2 = 1 then g.columns - 1 - k % g.columns else k % g.columns

/-- R47: the position of pocket `k`. -/
def TrayGeometry.pocket (g : TrayGeometry) (k : Nat) : Pos :=
  ⟨g.ox + g.column k * g.px, g.oy + (k / g.columns) * g.py⟩

/-- R48: the four corner pockets by grid position, in the order the manual names them. -/
def TrayGeometry.corners (g : TrayGeometry) : List Pos :=
  let x1 := g.ox + (g.columns - 1) * g.px
  let y1 := g.oy + (g.rows - 1) * g.py
  [⟨g.ox, g.oy⟩, ⟨x1, g.oy⟩, ⟨g.ox, y1⟩, ⟨x1, y1⟩]

/-- R47: every field of a tray's geometry is within its range. -/
def TrayGeometry.inRange (g : TrayGeometry) : Bool :=
  decide (g.ox ≤ Config.railMaxX ∧ g.oy ≤ Config.railMaxY ∧ 1 ≤ g.columns ∧ g.columns ≤ 32 ∧ 1 ≤ g.rows ∧
    g.rows ≤ 32 ∧ 1000 ≤ g.px ∧ g.px ≤ 60000 ∧ 1000 ≤ g.py ∧ g.py ≤ 60000)

/-- R48: the index of the first item that fails, the fields first and then the corners, or `none` when all pass. -/
def trayFailure (s : State) (g : TrayGeometry) : Option Nat :=
  if !g.inRange then some 0
  else (g.corners.findIdx? fun p => !passesBoth s p.x p.y).map (· + 1)

/-- R49: the coordinates of an order's location. -/
def State.locationPos (s : State) : Location → Pos
  | .socket i => ((s.geometry i).map fun g => Pos.mk g.x g.y).getD ⟨0, 0⟩
  | .input i => (s.deck[(⟨i, by omega⟩ : Fin 18)]).getD ⟨0, 0⟩
  | .retest r => (s.deck[(⟨8 + r, by omega⟩ : Fin 18)]).getD ⟨0, 0⟩
  | .pocket b t k => ((((s.bins[b]).tray t).geometry).map fun g => g.pocket k).getD ⟨0, 0⟩

/-- R49: the seat kind of a location. -/
def Location.seat : Location → SeatKind
  | .socket _ => .socket
  | .input _ => .shuttle
  | .retest _ => .tray
  | .pocket _ _ _ => .tray

/-- R41: the park position of a head. -/
def State.parkPos (s : State) : Head → Pos
  | .west => (s.deck[(16 : Fin 18)]).getD ⟨0, 0⟩
  | .east => (s.deck[(17 : Fin 18)]).getD ⟨0, 0⟩

/-- R49: the head reference position of an order. -/
def headReference (s : State) (h : Head) (o : Order) : Pos :=
  match o.location, o.nozzle with
  | some loc, some n =>
    let p := s.locationPos loc
    let d := s.offset h n
    ⟨((p.x : Int) - d.dx).toNat, ((p.y : Int) - d.dy).toNat⟩
  | _, _ => s.parkPos h

/-- A distance taken without sign. -/
def distance (a b : Nat) : Nat := (a - b) + (b - a)

/-- The ceiling of the quotient of `a` by `b`. -/
def ceilDiv (a b : Nat) : Nat := (a + b - 1) / b

/-- R43: the motion parameters of a head. -/
def State.motionOf (s : State) (h : Head) : Motion :=
  (match h with
    | .west => s.motion[(0 : Fin 2)]
    | .east => s.motion[(1 : Fin 2)]).getD ⟨1, 1, 0, 0, 0⟩

/-- R51: the allowance for the action. -/
def Motion.allowance (m : Motion) : Action → Nat
  | .pick => m.pick
  | .place => m.place
  | .park => 0

/-- R51: the timeout of a move, clamped to 50..10,000 ms. -/
def moveTimeout (m : Motion) (a : Action) (start target : Pos) : Nat :=
  min 10000 (max 50 (m.base + ceilDiv (distance target.x start.x) m.vx + ceilDiv (distance target.y start.y) m.vy +
    m.allowance a))

/-- R50: the span of a move. -/
def spanOf (start target : Pos) : Span :=
  ⟨min (zoneOf start.x) (zoneOf target.x), max (zoneOf start.x) (zoneOf target.x)⟩

/-- R52: what the resolver gives for an order from a starting point. -/
def resolve (s : State) (h : Head) (o : Order) (start : Pos) : Resolved :=
  let target := headReference s h o
  { target := target, seat := (o.location.map Location.seat).getD .park, span := spanOf start target,
    timeout := moveTimeout (s.motionOf h) o.action start target }

end Sys2Proof.Machine
end

