-- ==== Sys2Proof/Machine/Zones.lean ====
section
/-! DEFINITION. The zone arbiter's arithmetic (08): holdings, the clearance test, base zones and widening. -/

namespace Sys2Proof.Machine

/-- R136: the smallest run that holds two runs. -/
def Span.join (a b : Span) : Span := ⟨min a.lo b.lo, max a.hi b.hi⟩

/-- R136: the clearance test of the West head's holdings against the East head's. -/
def clearance (west east : Span) : Bool := decide (west.hi + 1 < east.lo)

/-- R140: a head's holdings, widened by a claim, still pass the test against the other head's. -/
def acceptsClaim (h : Head) (claim : Span) (s : State) : Bool :=
  let widened := (s.head h).holdings.join claim
  match h with
  | .west => clearance widened (s.head .east).holdings
  | .east => clearance (s.head .west).holdings widened

/-- R137: the spans of the OUTSTANDING orders joined to a base zone. -/
def holdingsFrom (base : Nat) (queue : List Order) : Span :=
  queue.foldl (fun acc o => if o.state = .outstanding then ((o.resolved.map fun r => acc.join r.span).getD acc) else acc)
    ⟨base, base⟩

/-- R113: a head has a WAITING_ZONE order. -/
def waits (x : HeadRecord) : Bool := x.queue.any fun o => o.state == .waitingZone

/-- R141, R143: what a change of head `h` from `old` opens for the other head. A yield due for the other head is checked
again, and a change of the holdings in RUN or DRAIN is a grant point of the other head while it waits. -/
def tellOther (h : Head) (old : Span) (s : State) : State :=
  let s := yieldCheck h.other s
  if (s.head h).holdings ≠ old ∧ s.lotState.active ∧ waits (s.head h.other) then grantPoint h.other s else s

/-- R137: the holdings of a READY head, from its base zone and its OUTSTANDING orders. A head that is not READY keeps what
its state gave it (R138). -/
def newHoldings (x : HeadRecord) : Span :=
  match x.state, x.base with
  | .ready, some b => holdingsFrom b x.queue
  | _, _ => x.holdings

/-- R137: the holdings of a head are recomputed when the order unit tells of a change of its orders. -/
def recomputeHoldings (h : Head) (s : State) : State :=
  tellOther h (s.head h).holdings (s.modHead h fun x => { x with holdings := newHoldings x })

/-- R137: an order is done, so the base zone becomes the zone of its head reference, for a READY head. -/
def setBase (h : Head) (zone : Nat) (s : State) : State :=
  s.modHead h fun x => if x.state = .ready then { x with base := some zone } else x

/-- R139: a reported zone clipped against the other head's holdings. -/
def clippedZone (h : Head) (zone : Nat) (s : State) : Nat :=
  match h with
  | .west => min zone ((s.head .east).holdings.lo - 2)
  | .east => max zone ((s.head .west).holdings.hi + 2)

/-- R138: the holdings of a head that enters RECOVERING or OFFLINE, widened to its own rail end and, as far as the
other head allows, to its default half. -/
def widened (h : Head) (s : State) : Span :=
  match h with
  | .west => ⟨0, max (s.head .west).holdings.hi (min 6 ((s.head .east).holdings.lo - 2))⟩
  | .east => ⟨min (s.head .east).holdings.lo (max 9 ((s.head .west).holdings.hi + 2)), 15⟩

/-- R138: a head leaves READY or STOPPED for RECOVERING or OFFLINE. -/
def widenHoldings (h : Head) (s : State) : State :=
  tellOther h (s.head h).holdings (s.modHead h fun x => { x with holdings := widened h s, base := none })

/-- R137, R139: a head enters READY at a reported position, or reports READY while READY. -/
def standAt (h : Head) (p : Pos) (s : State) : State :=
  let z := zoneOf p.x
  let c := clippedZone h z s
  let s := tellOther h (s.head h).holdings (s.modHead h fun x => { x with base := some c, holdings := ⟨c, c⟩ })
  if c = z then s else raiseEvent .headProtocol h.num s

end Sys2Proof.Machine
end

