-- ==== Sys2Proof/Machine/Places.lean ====
section
/-! DEFINITION. Custody places and pockets: moving and releasing part records (02), planning opportunities (R97),
and the counts of a tray (R86 to R89). -/

namespace Sys2Proof.Machine

/-! ## Planning opportunities -/

/-- R98: an order counts as pending in the states PENDING and WAITING_ZONE. -/
def Order.isPending (o : Order) : Bool := o.state == .pending || o.state == .waitingZone

/-- R98: how many of a head's orders are pending. -/
def pendingCount (x : HeadRecord) : Nat := (x.queue.filter Order.isPending).length

/-- R98: the condition under which a planning pass for a head takes place. -/
def passCondition (h : Head) (s : State) : Bool :=
  (s.head h).state == .ready && s.lotState.active && decide (pendingCount (s.head h) < 2)

/-- R97: a planning opportunity for a head. One that does not meet the condition of R98 is not remembered; one that
does awaits its PLANNING_PASS (log 4). -/
def opportunity (h : Head) (s : State) : State :=
  if passCondition h s then s.modHead h fun x => { x with passDue := true } else s

/-- R97: a planning opportunity for both heads. -/
def opportunityBoth (s : State) : State := opportunity .east (opportunity .west s)

/-- R99: a socket is served by a head. -/
def servedBy (s : State) (i : Fin 64) (h : Head) : Bool :=
  match s.geometry i with
  | some g => g.home.serves h
  | none => false

/-- R97: a planning opportunity for each head that serves a socket. -/
def opportunityServing (i : Fin 64) (s : State) : State :=
  let s := if servedBy s i .west then opportunity .west s else s
  if servedBy s i .east then opportunity .east s else s

/-! ## Records and places (R21, R30, R31) -/

/-- R21: the record a place holds. -/
def State.recordAt (s : State) : Place → Option (Fin 96)
  | .socket i => s.sockets[i].record
  | .nozzle h n => ((s.head h).nozzles[n]).record
  | .input i => s.inputs[i].record
  | .retest r => s.retests[r].record

/-- R21: a place's reference is set or cleared. -/
def State.setRecordAt (s : State) (p : Place) (r : Option (Fin 96)) : State :=
  match p with
  | .socket i => s.modSocket i fun x => { x with record := r }
  | .nozzle h n => s.modNozzle h n fun x => { x with record := r }
  | .input i => s.modInput i fun x => { x with record := r }
  | .retest i => s.modRetest i fun x => { x with record := r }

/-- R21, R30: the device at one place moves to another; the record's place and both references change together. -/
def moveRecord (source target : Place) (s : State) : State :=
  match s.recordAt source with
  | none => s
  | some i =>
    ((s.setRecordAt source none).setRecordAt target (some i)).modPart i fun r => { r with place := target }

/-- R31: the device at a place leaves custody; its record becomes free and its reservation goes with it. -/
def releaseAt (p : Place) (s : State) : State :=
  match s.recordAt p with
  | none => s
  | some i => (s.setRecordAt p none).setPart i none

/-- The tag of the device at a place, 0 when there is none. -/
def tagAt (s : State) (p : Place) : Nat :=
  ((s.recordAt p).bind fun i => s.parts[i].map PartRecord.tag).getD 0

/-- R31, R175: a device is counted as removed. -/
def countRemoved (s : State) : State := s.modCounters fun c => { c with removed := satSucc c.removed }

/-- R32, log 20: a device counted as removed has been binned after all, so it is counted as removed no longer. A saturated
counter stays (R175). -/
def uncountRemoved (s : State) : State :=
  s.modCounters fun c => { c with removed := if c.removed < Config.counterMax then c.removed - 1 else c.removed }

/-- How many part records are in use (R20). -/
def partsInUse (s : State) : Nat := (s.parts.toList.filter Option.isSome).length

/-! ## Trays (R86 to R89) -/

/-- R86: the outstanding pockets of a tray. -/
def TrayRecord.outstanding (t : TrayRecord) : Nat := t.allocated - t.placed - t.holes

/-- R86: the capacity of a tray, 0 without geometry. -/
def TrayRecord.capacity (t : TrayRecord) : Nat := (t.geometry.map TrayGeometry.capacity).getD 0

/-- R89: a CLOSING tray left with no outstanding pocket goes to FULL. -/
def fillTray (b : Fin 16) (t : TrayId) (s : State) : State :=
  let x := (s.bins[b]).tray t
  if x.state = .closing ∧ x.outstanding = 0 then
    raiseEvent .trayFull b (s.modTray b t fun x => { x with state := .full })
  else s

/-- R89: an allocated pocket will not be filled. -/
def holePocket (b : Fin 16) (t : TrayId) (s : State) : State :=
  fillTray b t (s.modTray b t fun x => { x with holes := x.holes + 1 })

/-- R89: a PLACE into a pocket is resolved as done; the counter is that of the bin whose tray holds the pocket. -/
def placePocket (b : Fin 16) (t : TrayId) (s : State) : State :=
  fillTray b t
    ((s.modTray b t fun x => { x with placed := x.placed + 1 }).modCounters fun c =>
      { c with binned := c.binned.set b (satSucc c.binned[b]) })

/-- R88: the active tray of a bin moves to its other tray when that is READY, which is a planning opportunity for
both heads; otherwise the bin has none. A bin that gains an active tray is no longer blocked (R92). -/
def moveActive (b : Fin 16) (closed : TrayId) (s : State) : State :=
  if ((s.bins[b]).tray closed.other).state = .ready then
    opportunityBoth ((s.modTray b closed.other fun x => { x with state := .active }).modBin b fun x =>
      { x with active := some closed.other, blocked := false })
  else s.modBin b fun x => { x with active := none }

/-- R87, R88: the next pocket of a bin's active tray; the tray closes when the allocation reaches its capacity. -/
def takePocket (b : Fin 16) (t : TrayId) (s : State) : State × Location :=
  let k := ((s.bins[b]).tray t).allocated
  let s := s.modTray b t fun x => { x with allocated := x.allocated + 1 }
  let x := (s.bins[b]).tray t
  (if x.capacity ≤ x.allocated then moveActive b t (s.modTray b t fun x => { x with state := .closing }) else s,
    .pocket b t k)

/-- R87: the bin and tray a stow to bin `t` is answered from. -/
def stowTray (s : State) (t : Fin 16) : Option (Fin 16 × TrayId) :=
  match s.bins[t].active with
  | some tray => some (t, tray)
  | none =>
    match s.binPolicy[t] with
    | some ⟨.divert, d⟩ => s.bins[d].active.map fun tray => (d, tray)
    | _ => none

/-- R87: a stow to bin `t` asks for a pocket. -/
def askPocket (t : Fin 16) (s : State) : State × Option Location :=
  match stowTray s t with
  | some (b, tray) =>
    let given := takePocket b tray s
    (given.1.modBin t fun x => { x with blocked := false }, some given.2)
  | none =>
    let was := s.bins[t].blocked
    let s := s.modBin t fun x => { x with blocked := true }
    (if was then s else raiseEvent .binBlocked t s, none)

end Sys2Proof.Machine
end

