-- ==== Sys2Proof/Machine/Queue.lean ====
section
/-! DEFINITION. Plans and order queues (R94 to R96, R113 to R115, R127): joining, leaving, cancelling before grant, the
end of a plan, and the conversion of a device to its final bin (R80 to R83). -/

namespace Sys2Proof.Machine

/-! ## Joining and leaving a queue -/

/-- R113: a new order. -/
def newOrder (action : Action) (nozzle : Option (Fin 4)) (location : Option Location) (part : Option (Fin 96))
    (plan : Option Nat) (origin : Origin) : Order :=
  { tag := 0, action := action, nozzle := nozzle, location := location, part := part, plan := plan, origin := origin,
    resolved := none, retry := 0, state := .pending }

/-- R114: the tag the next order of a queue takes. -/
def nextTag (x : HeadRecord) : Nat := nextNumber (x.queue.map Order.tag) x.queue.length x.tagCounter

/-- R114, R115: an order is put at the back of a head's queue. -/
def enqueue (h : Head) (o : Order) (s : State) : State :=
  s.modHead h fun x => { x with queue := x.queue ++ [{ o with tag := nextTag x }], tagCounter := nextTag x }

/-- R115, R119: an order joins a head's queue, a grant point of the head. -/
def joinQueue (h : Head) (o : Order) (s : State) : State := grantPoint h (enqueue h o s)

/-- R113: a granted order is OUTSTANDING or UNKNOWN. -/
def Order.isGranted (o : Order) : Bool := o.state == .outstanding || o.state == .unknown

/-- R143: a yield PARK stands ahead of every pending order, behind the granted ones. -/
def insertFront (o : Order) (queue : List Order) : List Order :=
  queue.filter Order.isGranted ++ o :: queue.filter fun x => !x.isGranted

/-- R143: a yield PARK is inserted at the front of a head's queue, a grant point of the head. -/
def insertPark (h : Head) (s : State) : State :=
  grantPoint h (s.modHead h fun x =>
    { x with
      queue := insertFront { newOrder .park none none none none .yield with tag := nextTag x } x.queue
      tagCounter := nextTag x })

/-- A change to the order of a queue that carries a tag. -/
def modOrder (h : Head) (tag : Nat) (f : Order → Order) (s : State) : State :=
  s.modHead h fun x => { x with queue := x.queue.map fun o => if o.tag = tag then f o else o }

/-- R113: an order leaves the queue and its record is discarded. -/
def leaveQueue (h : Head) (tag : Nat) (s : State) : State :=
  s.modHead h fun x => { x with queue := x.queue.filter fun o => !(o.tag == tag) }

/-- R119: the first order that is not granted. -/
def frontPending (x : HeadRecord) : Option Order := x.queue.find? fun o => !o.isGranted

/-- R113, R123: the oldest order in a state. -/
def oldestIn (st : OrderState) (x : HeadRecord) : Option Order := x.queue.find? fun o => o.state == st

/-- R116: the last granted target, the head reference of the youngest OUTSTANDING order or the known position. -/
def lastTarget (x : HeadRecord) : Pos :=
  match (x.queue.filter fun o => o.state == .outstanding).getLast? with
  | some o => (o.resolved.map Resolved.target).getD (x.known.getD ⟨0, 0⟩)
  | none => x.known.getD ⟨0, 0⟩

/-! ## Plans (R94 to R96) -/

/-- R96: every reservation a plan still holds is dropped and the plan ends, a planning opportunity for both heads. -/
def dropPlan (p : Nat) (s : State) : State :=
  let free (q : Option Nat) : Option Nat := if q = some p then none else q
  let dropNozzles (x : HeadRecord) : HeadRecord :=
    { x with nozzles := mapVec (fun n => { n with plan := free n.plan }) x.nozzles }
  opportunityBoth
    { s with
      sockets := mapVec (fun x => { x with plan := free x.plan }) s.sockets
      inputs := mapVec (fun x => { x with plan := free x.plan }) s.inputs
      retests := mapVec (fun x => { x with plan := free x.plan }) s.retests
      parts := mapVec (fun r => r.map fun x => { x with plan := free x.plan }) s.parts
      heads := ⟨dropNozzles s.heads.west, dropNozzles s.heads.east⟩
      plans := s.plans.filter fun x => !(x.id == p) }

/-- R94, R96: a plan ends when its last order has left the queue. -/
def endPlan (h : Head) (plan : Option Nat) (s : State) : State :=
  match plan with
  | none => s
  | some p => if (s.head h).queue.any fun o => o.plan == some p then s else dropPlan p s

/-! ## Cancelling a pending order (R127) -/

/-- R127, R89: a PLACE into a pocket that will not be carried out leaves a hole. -/
def holeOf (o : Order) (s : State) : State :=
  match o.location with
  | some (.pocket b t _) => holePocket b t s
  | _ => s

/-- R119, R127: a pending order that other orders stand behind, or that is the front pending order. -/
def opensGrant (x : HeadRecord) (o : Order) : Bool :=
  decide ((x.queue.getLast?).map Order.tag ≠ some o.tag) || decide ((frontPending x).map Order.tag = some o.tag)

/-- R119, R127: the cancelling of a pending order ahead of others is a grant point, and so is the removal of the front
pending order. -/
def cancelPoint (h : Head) (o : Order) (s : State) : State :=
  if opensGrant (s.head h) o then grantPoint h s else s

/-- R127: a pending order is cancelled: it leaves the queue, its location stays as it was but for a pocket's hole, its
plan ends with its last order, and the head has a planning opportunity and, when it was the front pending order or stood
ahead of others, a grant point. -/
def cancelPending (h : Head) (o : Order) (s : State) : State :=
  opportunity h (endPlan h o.plan (holeOf o (leaveQueue h o.tag (cancelPoint h o s))))

/-- R125, R71, R81: the pending orders of a head that satisfy a test are cancelled. Where there are several the manual gives
no order; they are cancelled in queue order (DESIGN CHOICE, log 30). -/
def cancelWhere (h : Head) (test : Order → Bool) (s : State) : State :=
  ((s.head h).queue.filter fun o => o.isPending && test o).foldl (fun s o => cancelPending h o s) s

/-- R71: every PENDING or WAITING_ZONE PLACE into a socket is cancelled. -/
def cancelPlacesInto (i : Fin 64) (s : State) : State :=
  let test (o : Order) : Bool := o.action == .place && o.location == some (.socket i)
  cancelWhere .east test (cancelWhere .west test s)

/-! ## Loadability and conversion (R33, R80 to R83) -/

/-- The group of a socket with geometry. -/
def groupOf (s : State) (i : Fin 64) : Option (Fin 16) := (s.geometry i).map SiteGeometry.group

/-- R33: a device is loadable into a socket. -/
def loadable (s : State) (r : PartRecord) (i : Fin 64) : Bool :=
  (r.disposition == .none || r.disposition == .retest) &&
  r.attempts.all (fun a => !(a.1 == i)) &&
  (!s.lot.groupAvoidance || r.attempts.all fun a => !((groupOf s i).isSome && groupOf s a.1 == groupOf s i))

/-- R79, R83: some socket is not OFF, has no pending-disable, and would take the device. -/
def someSocketTakes (s : State) (r : PartRecord) : Bool :=
  (List.finRange 64).any fun i =>
    !(s.sockets[i].state == .off) && s.sockets[i].pendingDisable.isNone && loadable s r i

/-- R81: the pending orders of the device's plan that carry it into a socket or a retest slot are cancelled. -/
def cancelCarrying (i : Fin 96) (plan : Option Nat) (s : State) : State :=
  match plan with
  | none => s
  | some p =>
    let test (o : Order) : Bool :=
      o.plan == some p && o.part == some i && o.action == .place &&
      (match o.location with
        | some (.socket _) => true
        | some (.retest _) => true
        | _ => false)
    cancelWhere .east test (cancelWhere .west test s)

/-- R97, R99, R117: a converted device that is carried on a nozzle is a planning opportunity for its head. A device with a plan
or on a BLOCKED nozzle is not carried. -/
def carriedOpportunity (i : Fin 96) (s : State) : State :=
  match s.parts[i] with
  | some ⟨_, .nozzle h n, _, _, none⟩ => if ((s.head h).nozzles[n]).blocked then s else opportunity h s
  | _ => s

/-- R80: the final disposition of a device whose last attempt is known, and the socket that UNMAPPED_RESULT names when
the bin map entry is unwritten (R78). -/
def finalDisposition (s : State) (r : PartRecord) : Disposition × Option Nat :=
  match r.attempts.getLast? with
  | none => (.hold, none)
  | some (i, code) =>
    match s.binMap[code.toFin] with
    | some e => (.bin e.finalBin, none)
    | none => (.hold, some i)

/-- R80, R81: a part record whose disposition is RETEST is converted to its final bin; any other is not. -/
def convert (i : Fin 96) (s : State) : State :=
  match s.parts[i] with
  | some r =>
    if r.disposition = .retest then
      let f := finalDisposition s r
      let s := s.modPart i fun x => { x with disposition := f.1 }
      let s := match f.2 with
        | some socket => raiseEvent .unmappedResult socket s
        | none => s
      carriedOpportunity i (cancelCarrying i r.plan s)
    else s
  | none => s

/-- R83: every RETEST device for which no socket is left is converted, in ascending index. -/
def reexamine (s : State) : State :=
  (List.finRange 96).foldl
    (fun s i =>
      match s.parts[i] with
      | some r => if r.disposition = .retest ∧ someSocketTakes s r = false then convert i s else s
      | none => s) s

/-- R82: every RETEST device is converted, in ascending index. -/
def convertAll (s : State) : State := (List.finRange 96).foldl (fun s i => convert i s) s

end Sys2Proof.Machine
end

