-- ==== Sys2Proof/Machine/Sockets.lean ====
section
/-! DEFINITION. The socket unit's shared steps (04): groups and their starts, the fill-wait timer, faults,
pending-disable, going OFF, soak, and taking a result. -/

namespace Sys2Proof.Machine

/-! ## Groups (R57 to R61) -/

/-- R57: the members of a group, in ascending socket order. -/
def members (s : State) (g : Fin 16) : List (Fin 64) :=
  (List.finRange 64).filter fun i => groupOf s i == some g

/-- R57: a group is busy when one of its members is TESTING. -/
def groupBusy (s : State) (g : Fin 16) : Bool := (members s g).any fun i => s.sockets[i].state == .testing

/-- R57: an eligible member is one that is not OFF and has no pending-disable. -/
def eligible (x : Socket) : Bool := !(x.state == .off) && x.pendingDisable.isNone

/-- The READY members of a group, in ascending socket order. -/
def readyMembers (s : State) (g : Fin 16) : List (Fin 64) :=
  (members s g).filter fun i => s.sockets[i].state == .ready

/-- R58: a start is outstanding, the group being not busy with a READY member. -/
def startOutstanding (s : State) (g : Fin 16) : Bool := !groupBusy s g && !(readyMembers s g).isEmpty

/-- R59: the start test. -/
def startTest (s : State) (g : Fin 16) : Bool :=
  s.lotState.active && startOutstanding s g &&
  ((members s g).all (fun i => !eligible s.sockets[i] || s.sockets[i].state == .ready) ||
    s.lot.fillWait == 0 || s.lotState == .drain)

/-- R61: one READY member goes to TESTING with its watchdog started, and is counted. -/
def beginTest (s : State) (i : Fin 64) : State :=
  startTimer (.watchdog i) s.lot.testLimit
    ((s.modSocket i fun x => { x with state := .testing }).modCounters fun c =>
      { c with testsStarted := satSucc c.testsStarted })

/-- R61: a group is started with its READY members. -/
def startGroup (g : Fin 16) (s : State) : State :=
  let ready := readyMembers s g
  let s := produce .downstream (s.nodeAddress 1) kindSiteStart (byte g :: ready.map fun (i : Fin 64) => byte i.val) s
  let s := ready.foldl beginTest s
  let s := cancelTimer (.fill g) s
  { s with groups := s.groups.set g ⟨some (s.lotClock, ready.length)⟩ }

/-- R58: the fill-wait timer is started when a start becomes outstanding and cancelled when it no longer is. -/
def fillUpdate (g : Fin 16) (s : State) : State :=
  if startOutstanding s g then
    if s.timer (.fill g) = .clear ∧ s.lot.fillWait ≠ 0 then startTimer (.fill g) s.lot.fillWait s else s
  else cancelTimer (.fill g) s

/-- R58, R59: a group is given its start test, and its fill-wait timer follows when no start is made. -/
def groupUpdate (g : Fin 16) (s : State) : State :=
  if startTest s g then startGroup g s else fillUpdate g s

/-- R58, R59: the update of the group a socket belongs to. -/
def updateGroupOf (i : Fin 64) (s : State) : State :=
  match groupOf s i with
  | some g => groupUpdate g s
  | none => s

/-- R59: the start test is applied to every group. -/
def updateGroups (s : State) : State := (List.finRange 16).foldl (fun s g => groupUpdate g s) s

/-! ## Going OFF and pending-disable (R71) -/

/-- R73: the ticket of a SOCKET DISABLE completes OK when its socket reaches OFF. -/
def completeDisable (i : Fin 64) (s : State) : State := complete codeSocketDisable (.socket i) .ok s

/-- R71, R83, R97, R59: what follows a socket's entry into OFF in every case. -/
def afterOff (i : Fin 64) (s : State) : State := updateGroupOf i (reexamine (opportunityServing i s))

/-- R71: a socket with pending-disable set goes on to OFF. -/
def goOff (i : Fin 64) (s : State) : State :=
  let cause := s.sockets[i].pendingDisable
  let s := s.modSocket i fun x => { x with state := .off, pendingDisable := none }
  let s := completeDisable i s
  let s := if cause = some .fault then raiseEvent .socketDisabled i s else s
  afterOff i s

/-- R97, R71: a socket enters EMPTY, and goes on to OFF when pending-disable is set. -/
def enterEmpty (i : Fin 64) (s : State) : State :=
  let s := opportunityServing i (s.modSocket i fun x => { x with state := .empty })
  if s.sockets[i].pendingDisable.isSome then goOff i s else s

/-- R97: a socket enters TESTED. -/
def enterTested (i : Fin 64) (s : State) : State :=
  opportunityServing i (s.modSocket i fun x => { x with state := .tested })

/-- R71: pending-disable is set on a socket. -/
def setPendingDisable (i : Fin 64) (cause : DisableCause) (s : State) : State :=
  let s := s.modSocket i fun x => { x with pendingDisable := some cause }
  let s := updateGroupOf i (reexamine (cancelPlacesInto i s))
  if s.sockets[i].state = .empty ∧ s.sockets[i].plan = none then goOff i s else s

/-! ## Faults (R69, R70) -/

/-- R70: the fault count is compared with the lot's fault threshold. -/
def checkThreshold (i : Fin 64) (s : State) : State :=
  let x := s.sockets[i]
  if s.lot.faultThreshold ≠ 0 ∧ s.lot.faultThreshold ≤ x.faultCount ∧ x.pendingDisable = none ∧ x.state ≠ .off then
    setPendingDisable i .fault s
  else s

/-- R69, R70: a fault of a socket is noted. -/
def noteFault (i : Fin 64) (k : FaultKind) (s : State) : State :=
  checkThreshold i
    (s.modSocket i fun x => { x with faults := x.faults.add k, faultCount := faultSucc x.faultCount })

/-! ## Soak (R55, R56) -/

/-- R56: a socket goes to READY. -/
def becomeReady (i : Fin 64) (s : State) : State :=
  updateGroupOf i (s.modSocket i fun x => { x with state := .ready })

/-- R69, R55: a PLACE into a socket is resolved as done, which in PER_PART mode clears the fault flags. -/
def clearPartFaults (i : Fin 64) (s : State) : State :=
  if s.lot.faultMode = .perPart then s.modSocket i fun x => { x with faults := .none } else s

/-- R55, R56: a PLACE into a socket is resolved as done; the record is in the socket and the soak begins. -/
def beginSoak (i : Fin 64) (s : State) : State :=
  let s := clearPartFaults i s
  if s.lot.soak = 0 then becomeReady i s
  else startTimer (.soak i) s.lot.soak (s.modSocket i fun x => { x with state := .soaking })

/-! ## Results (R63, R65, R79) -/

/-- R79: a retest is possible for a device. A device already converted to a final bin is loadable into no socket (R33),
so it is not turned back into a retest. -/
def retestPossible (s : State) (r : PartRecord) : Bool :=
  decide (r.attempts.length ≤ s.lot.retestLimit) && running s && someSocketTakes s r

/-- R79: the disposition a result code gives a device whose attempt has been appended. -/
def decideDisposition (s : State) (r : PartRecord) (code : Byte) : Disposition :=
  match s.binMap[code.toFin] with
  | none => .hold
  | some e =>
    match e.cls with
    | .bin => .bin e.bin
    | .hold => .hold
    | .retest => if retestPossible s r then .retest else .bin e.finalBin

/-- R63 step 3, R79: the disposition of the device in a socket is set; an unwritten entry raises UNMAPPED_RESULT (R78)
and a RETEST decision is counted. -/
def setDisposition (i : Fin 64) (code : Byte) (s : State) : State :=
  match s.sockets[i].record.bind fun k => (s.parts[k].map fun r => (k, r)) with
  | none => s
  | some (k, r) =>
    let d := decideDisposition s r code
    let s := s.modPart k fun x => { x with disposition := d }
    let s := if d = .retest then s.modCounters fun c => { c with retests := satSucc c.retests } else s
    if s.binMap[code.toFin] = none then raiseEvent .unmappedResult i s else s

/-- R63 step 2: the attempt is appended and the last result set. -/
def recordAttempt (i : Fin 64) (code : Byte) (time : Nat) (s : State) : State :=
  let s := s.modSocket i fun x => { x with last := some (code, time) }
  match s.sockets[i].record with
  | some k => s.modPart k fun r => { r with attempts := r.attempts ++ [(i, code)] }
  | none => s

/-- R77, R78: the fault mark of a result code; an unwritten entry has none. -/
def faultMark (s : State) (code : Byte) : Bool := (s.binMap[code.toFin].map BinEntry.faultMark).getD false

/-- R63 step 5: the socket goes to TESTED, and its group may stop being busy. -/
def finishTest (i : Fin 64) (s : State) : State := updateGroupOf i (enterTested i s)

/-- The disposition of the device a socket holds. -/
def dispositionAt (s : State) (i : Fin 64) : Disposition :=
  ((s.sockets[i].record.bind fun k => s.parts[k]).map PartRecord.disposition).getD .none

/-- R63 steps 1 to 3: the watchdog is cancelled, the attempt recorded and the disposition decided. -/
def decideResult (i : Fin 64) (code : Byte) (time : Nat) (s : State) : State :=
  setDisposition i code (recordAttempt i code time (cancelTimer (.watchdog i) s))

/-- R63: a SITE REPORT for a TESTING socket is taken as the result of its test. -/
def takeResult (i : Fin 64) (code : Byte) (time : Nat) (s : State) : State :=
  let s := decideResult i code time s
  let s := if faultMark s code then noteFault i .result s else s.modSocket i fun x => { x with faultCount := 0 }
  finishTest i s

/-- R65: a watchdog expiry is taken as a result with the lot's timeout code. -/
def takeTimeout (i : Fin 64) (s : State) : State :=
  let code := s.lot.timeoutCode
  let s := noteFault i .timeout (decideResult i code s.lot.testLimit s)
  let s := if faultMark s code then noteFault i .result s else s
  let s := raiseEvent .siteTimeout i (finishTest i s)
  s.modCounters fun c => { c with testTimeouts := satSucc c.testTimeouts }

end Sys2Proof.Machine
end

