-- ==== Sys2Proof/Machine/Grants.lean ====
section
/-! DEFINITION. Grants, waiting and yield (R119 to R122, R140 to R143), taken at the end of the command that opens the
grant points and yield checks (log 7), and the drain condition (R160). -/

namespace Sys2Proof.Machine

/-! ## The claim of the front pending order -/

/-- How many of a head's orders are OUTSTANDING. -/
def outstandingCount (x : HeadRecord) : Nat := (x.queue.filter fun o => o.state == .outstanding).length

/-- R120: the PLACE of the exchange pair a front PICK begins, while it is pending. -/
def pairPlace (x : HeadRecord) (o : Order) : Option Order :=
  if o.action = .pick ∧ o.plan.isSome then
    x.queue.find? fun q => q.plan == o.plan && q.action == .place && q.isPending
  else none

/-- R52, R120: the order, or the pair, that a grant takes, each with what the resolver gives for it. -/
def claimOf (h : Head) (o : Order) (s : State) : List (Order × Resolved) :=
  let x := s.head h
  let first := resolve s h o (lastTarget x)
  match pairPlace x o with
  | none => [(o, first)]
  | some q => [(o, first), (q, resolve s h q first.target)]

/-- R140: the claim a grant makes on the rail, both spans of a pair together. -/
def claimSpan : List (Order × Resolved) → Span
  | [] => ⟨0, 0⟩
  | (_, r) :: rest => rest.foldl (fun acc c => acc.join c.2.span) r.span

/-- R119, R120: every condition of a grant but the zone arbiter's holds for the front pending order. -/
def mayAsk (h : Head) (o : Order) (s : State) : Bool :=
  let x := s.head h
  x.state == .ready && s.lotState.active &&
  (if (pairPlace x o).isSome then outstandingCount x == 0
    else decide (outstandingCount x < 2) &&
      (o.nozzle.isNone || !(x.queue.any fun q => q.state == .outstanding && q.nozzle == o.nozzle)))

/-- R119, R140: the front pending order of a head, or its pair, can be granted now. -/
def grantable (h : Head) (s : State) : Option (List (Order × Resolved)) :=
  match frontPending (s.head h) with
  | none => none
  | some o =>
    if mayAsk h o s && acceptsClaim h (claimSpan (claimOf h o s)) s then some (claimOf h o s) else none

/-! ## Granting (R121, R122) -/

/-- R121 steps 1 and 2, R181: the order takes the resolved values and becomes OUTSTANDING, and its MOVE ORDER is
produced. -/
def issueOrder (h : Head) (c : Order × Resolved) (s : State) : State :=
  let s := modOrder h c.1.tag (fun o => { o with resolved := some c.2, state := .outstanding }) s
  produce .downstream (s.nodeAddress (match h with | .west => 2 | .east => 3)) kindMoveOrder
    ([byte c.1.tag, byte c.1.action.num, (c.1.nozzle.map fun n => byte n).getD 0xFF#8] ++
      leBytes 4 c.2.target.x ++ leBytes 4 c.2.target.y ++ [byte c.2.seat.num]) s

/-- R121 step 3, R55, R67: a granted PICK takes its socket to EMPTYING, a granted PLACE an EMPTY socket to FILLING. -/
def grantSocket (o : Order) (s : State) : State :=
  match o.location, o.action with
  | some (.socket i), .pick => s.modSocket i fun x => { x with state := .emptying }
  | some (.socket i), .place =>
    s.modSocket i fun x => { x with state := if x.state = .empty then .filling else x.state }
  | _, _ => s

/-- R121 step 4, R137: the spans of a claim are joined to the holdings. -/
def joinHoldings (h : Head) (claim : Span) (s : State) : State :=
  tellOther h (s.head h).holdings (s.modHead h fun x => { x with holdings := x.holdings.join claim })

/-- R121, R122, R137: a grant. -/
def grantClaim (h : Head) (claim : List (Order × Resolved)) (s : State) : State :=
  let alone := outstandingCount (s.head h) == 0
  let s := claim.foldl (fun s c => issueOrder h c s) s
  let s := claim.foldl (fun s c => grantSocket c.1 s) s
  let s := joinHoldings h (claimSpan claim) s
  let s :=
    match claim with
    | c :: _ => if alone then startTimer (.order h) c.2.timeout s else s
    | [] => s
  opportunity h s

/-! ## Waiting (R113, R119, R142) -/

/-- R113, R119: only the front pending order is WAITING_ZONE; any other becomes PENDING again. -/
def demote (x : HeadRecord) : HeadRecord :=
  { x with
    queue := x.queue.map fun o =>
      if o.state = .waitingZone ∧ (frontPending x).map Order.tag ≠ some o.tag then { o with state := .pending } else o }

/-- R142, R143: with no WAITING_ZONE order left, the head's yield timer is cancelled and its due yield cleared. -/
def syncYield (h : Head) (s : State) : State :=
  let s := s.modHead h demote
  if waits (s.head h) then s
  else (cancelTimer (.yield h) s).modHead h fun x => { x with yieldDue := false }

/-- R140, R142: a front pending order whose span is refused becomes WAITING_ZONE and its head's yield timer starts. -/
def markWaiting (h : Head) (s : State) : State :=
  match frontPending (s.head h) with
  | none => s
  | some o =>
    if o.state = .pending ∧ mayAsk h o s ∧ acceptsClaim h (claimSpan (claimOf h o s)) s = false then
      startTimer (.yield h) s.lot.yieldDelay (modOrder h o.tag (fun o => { o with state := .waitingZone }) s)
    else s

/-! ## A grant point (R119) -/

/-- R119, R140: the front pending order is considered; after a grant the new front pending order is considered at once,
and one that the arbiter refuses waits. -/
def considerFront (h : Head) : Nat → State → State
  | 0, s => s
  | k + 1, s =>
    match grantable h s with
    | some claim => considerFront h k (syncYield h (grantClaim h claim s))
    | none => markWaiting h s

/-- R119: a grant point of a head is taken up. At most two orders are granted there. -/
def takeGrantPoint (h : Head) (s : State) : State :=
  considerFront h 3 { s with points := { s.points with grant := s.points.grant.set h false } }

/-! ## Yield (R143) -/

/-- R143: a head stands inward of its park position. -/
def inwardOfPark (h : Head) (p park : Pos) : Bool :=
  match h with
  | .west => decide (park.x < p.x)
  | .east => decide (p.x < park.x)

/-- R143: the conditions under which a yield PARK may be made for head `o`. -/
def parkPossible (o : Head) (s : State) : Bool :=
  let x := s.head o
  s.lotState.active && x.state == .ready && outstandingCount x == 0 &&
  match x.known with
  | some p => inwardOfPark o p (s.parkPos o) && acceptsClaim o (spanOf p (s.parkPos o)) s
  | none => false

/-- R143: a yield PARK is made for the other head of `h`, and granted at the grant point its insertion is. -/
def makeYieldPark (h : Head) (s : State) : State :=
  let o := h.other
  let s := s.modHead h fun x => { x with yieldDue := false }
  takeGrantPoint o (raiseEvent .yieldPark o.num (syncYield o (insertPark o s)))

/-- R143: a check of the yield that is due for a head is taken up. -/
def takeYieldCheck (h : Head) (s : State) : State :=
  let s := { s with points := { s.points with yieldCheck := s.points.yieldCheck.set h false } }
  if (s.head h).yieldDue && parkPossible h.other s then makeYieldPark h s else s

/-! ## The grant points and yield checks of a command (R119, R141, R143) -/

/-- What the end of a command takes up. -/
inductive Move where
  | grant (h : Head)
  | yieldCheck (h : Head)
deriving DecidableEq, Repr

/-- R119, R140: a grant point of a head at which its front pending order is granted, or refused and made to wait. At any
other grant point nothing changes. -/
def grantActs (h : Head) (s : State) : Bool :=
  match frontPending (s.head h) with
  | none => false
  | some o => mayAsk h o s && (o.state == .pending || acceptsClaim h (claimSpan (claimOf h o s)) s)

/-- R143: a yield check at which a PARK is made. At any other check nothing changes. -/
def yieldActs (h : Head) (s : State) : Bool := (s.head h).yieldDue && parkPossible h.other s

/-- The grant points and yield checks that are open and change something now. One that changes nothing now is passed over:
what the rest of the command does makes no such point act but by opening it again. -/
def moves (s : State) : List Move :=
  (if s.points.grant.west && grantActs .west s then [.grant .west] else []) ++
  (if s.points.grant.east && grantActs .east s then [.grant .east] else []) ++
  (if s.points.yieldCheck.west && yieldActs .west s then [.yieldCheck .west] else []) ++
  (if s.points.yieldCheck.east && yieldActs .east s then [.yieldCheck .east] else [])

def takeMove (m : Move) (s : State) : State :=
  match m with
  | .grant h => takeGrantPoint h s
  | .yieldCheck h => takeYieldCheck h s

/-- R108, R140, R142: with one point open it is taken up; with several, which goes first is a FREE VALUE (log 8). -/
def settleLoop : Nat → State → State
  | 0, s => s
  | k + 1, s =>
    match moves s with
    | [] => s
    | [m] => settleLoop k (takeMove m s)
    | m :: rest =>
      settleLoop k
        (takeMove ((m :: rest).getD (Config.choice s.draws % (rest.length + 1)) m) { s with draws := s.draws + 1 })

/-- The grant points and yield checks of a command are taken up until none is open. A command opens at most two of each,
and each of the at most four grants that follow opens at most two more, so 16 rounds suffice. -/
def settle (s : State) : State :=
  { settleLoop 16 (syncYield .east (syncYield .west s)) with points := .none }

/-! ## The drain (R160) -/

/-- R160: the drain condition. -/
def drainCondition (s : State) : Bool :=
  (s.sockets.toList.all fun x => x.state == .empty || x.state == .off) &&
  ((s.heads.west.nozzles.toList ++ s.heads.east.nozzles.toList).all fun n => n.record.isNone || n.blocked) &&
  (s.retests.toList.all fun r => r.record.isNone) &&
  s.heads.west.queue.isEmpty && s.heads.east.queue.isEmpty

/-- R160: the drain condition is evaluated again, and the lot's ticket completes when it holds. -/
def checkDrain (s : State) : State :=
  if draining s && drainCondition s then complete codeLotDrain .lot .ok s else s

/-- The end of one event of a command that can open a grant point or empty a place (log 7). -/
def endEvent (s : State) : State := checkDrain (settle s)

/-! ## A yield delay of 0 (R149) -/

/-- R143: the owner of a head's yield timer takes its expiry: the yield is due, and its conditions are checked. -/
def yieldFalls (h : Head) (s : State) : State := yieldCheck h (s.modHead h fun x => { x with yieldDue := true })

/-- R149, R143: an expiry at a start with 0, an event of its own. -/
def yieldAtOnce (h : Head) (s : State) : State := endEvent (yieldFalls h (cancelTimer (.yield h) s))

/-- R149, R142: the heads whose yield timer was started or resumed with 0. -/
def atOnceYields (s : State) : List Head := [.west, .east].filter fun h => s.timer (.yield h) == .atOnce

/-- R149: the expiries at a start with 0 are taken; of the two heads', which goes first is a FREE VALUE (log 8). -/
def atOnceLoop : Nat → State → State
  | 0, s => s
  | k + 1, s =>
    match atOnceYields s with
    | [] => s
    | [h] => atOnceLoop k (yieldAtOnce h s)
    | h :: rest =>
      atOnceLoop k
        (yieldAtOnce ((h :: rest).getD (Config.choice s.draws % (rest.length + 1)) h) { s with draws := s.draws + 1 })

/-- R149: directly after a step, before any other event, come the expiries that its starts with 0 made; a yield delay of 0
makes the only ones. An expiry that makes no PARK starts no timer, and each head is sent one PARK at most, behind which at
most two orders come to wait, so 8 rounds suffice. -/
def takeAtOnce (s : State) : State := atOnceLoop 8 s

/-- The end of a command that can open a grant point or empty a place. -/
def finish (s : State) : State := takeAtOnce (endEvent s)

end Sys2Proof.Machine
end

