-- ==== Sys2Proof/Machine/Heads.lean ====
section
/-! DEFINITION. Resolving orders and the states of a head (R122 to R133): done, not done, retry, final miss and final
stuck, stops, late statuses, recovery and restart. -/

namespace Sys2Proof.Machine

/-- R122: the order timer follows the oldest OUTSTANDING order. -/
def retime (h : Head) (s : State) : State :=
  match oldestIn .outstanding (s.head h) with
  | some o => startTimer (.order h) ((o.resolved.map Resolved.timeout).getD 50) s
  | none => cancelTimer (.order h) s

/-- R116: a head's known position. -/
def setKnown (h : Head) (p : Pos) (s : State) : State := s.modHead h fun x => { x with known := some p }

/-- R29, R181: a SHUTTLE TAKEN frame for a slot and a tag. -/
def shuttleTaken (i : Fin 8) (tag : Nat) (s : State) : State :=
  produce .downstream (s.nodeAddress 4) kindShuttleTaken (byte i :: leBytes 4 tag) s

/-- R29, R24: an input slot becomes CLEARING, and SHUTTLE TAKEN is produced. -/
def clearSlot (i : Fin 8) (tag : Nat) (s : State) : State :=
  shuttleTaken i tag (opportunityBoth (s.modInput i fun x => { x with taken := some tag }))

/-- R67: the PLACE of the same plan into a socket is OUTSTANDING or UNKNOWN. -/
def placeFollows (h : Head) (o : Order) (s : State) : Bool :=
  o.plan.isSome && (s.head h).queue.any fun q =>
    q.plan == o.plan && q.action == .place && q.location == o.location && q.isGranted

/-- R67: a PICK from a socket is resolved as done. -/
def socketPicked (h : Head) (o : Order) (i : Fin 64) (s : State) : State :=
  if placeFollows h o s then s.modSocket i fun x => { x with state := .filling } else enterEmpty i s

/-- R124: the effect of an order resolved as done on its location. A nozzle holds no record at a done PLACE only when a
restart found it absent before the grant (R133), which counted the device as removed. The rules then leave open what becomes
of the place (DESIGN CHOICE, log 20): a socket goes to EMPTY with its fault flags cleared as at every done (R69), a slot stays
empty, and a pocket counts as placed and binned (R89), with the device counted as removed no longer (R32). -/
def doneEffect (h : Head) (o : Order) (s : State) : State :=
  match o.action, o.location, o.nozzle with
  | .pick, some (.socket i), some n => socketPicked h o i (moveRecord (.socket i) (.nozzle h n) s)
  | .pick, some (.input i), some n =>
    clearSlot i (tagAt s (.input i)) (moveRecord (.input i) (.nozzle h n) s)
  | .pick, some (.retest r), some n => opportunityBoth (moveRecord (.retest r) (.nozzle h n) s)
  | .place, some (.socket i), some n =>
    if (s.recordAt (.nozzle h n)).isSome then beginSoak i (moveRecord (.nozzle h n) (.socket i) s)
    else enterEmpty i (clearPartFaults i s)
  | .place, some (.retest r), some n => opportunityBoth (moveRecord (.nozzle h n) (.retest r) s)
  | .place, some (.pocket b t _), some n =>
    if (s.recordAt (.nozzle h n)).isSome then releaseAt (.nozzle h n) (placePocket b t s)
    else uncountRemoved (placePocket b t s)
  | _, _, _ => s

/-- R124: an order is resolved as done, a planning opportunity and a grant point. -/
def resolveDone (h : Head) (o : Order) (s : State) : State :=
  let target := (o.resolved.map Resolved.target).getD ⟨0, 0⟩
  let s := setKnown h target (leaveQueue h o.tag s)
  let s := doneEffect h o s
  let s := retime h (recomputeHoldings h (setBase h (zoneOf target.x) s))
  grantPoint h (opportunity h (endPlan h o.plan s))

/-- R127: the location of a granted order that is resolved as not done. -/
def notDoneEffect (o : Order) (s : State) : State :=
  match o.action, o.location with
  | .pick, some (.socket i) => if s.sockets[i].state = .emptying then enterTested i s else s
  | .place, some (.socket i) => if s.sockets[i].state = .filling then enterEmpty i s else s
  | _, _ => holeOf o s

/-- R127, R119: a granted order is resolved as not done and leaves the queue as CANCELLED. -/
def resolveNotDone (h : Head) (o : Order) (s : State) : State :=
  let s := notDoneEffect o (leaveQueue h o.tag s)
  grantPoint h (opportunity h (endPlan h o.plan (recomputeHoldings h s)))

/-! ## Retry (R126) -/

/-- R126, R71: the socket of a returned order goes back as its grant had moved it; a returned PLACE into a socket with
pending-disable is cancelled at once. -/
def revertSocket (o : Order) (s : State) : State :=
  match o.action, o.location with
  | .pick, some (.socket i) => if s.sockets[i].state = .emptying then enterTested i s else s
  | .place, some (.socket i) =>
    let s :=
      if s.sockets[i].state = .filling then
        opportunityServing i (s.modSocket i fun x => { x with state := .empty })
      else s
    if s.sockets[i].pendingDisable.isSome then
      let s := cancelPlacesInto i s
      if s.sockets[i].state = .empty then goOff i s else s
    else s
  | _, _ => s

/-- R126: every OUTSTANDING order goes back to the front of the queue as PENDING, and the failed one has been tried. -/
def returnForRetry (h : Head) (failed : Option Nat) (s : State) : State :=
  let returned := (s.head h).queue.filter fun o => o.state == .outstanding
  let s := s.modHead h fun x =>
    { x with
      queue := x.queue.map fun o =>
        if o.state = .outstanding then
          { o with state := .pending, retry := if some o.tag = failed then 1 else o.retry }
        else o }
  let s := returned.foldl (fun s o => revertSocket o s) s
  grantPoint h (opportunity h (recomputeHoldings h (cancelTimer (.order h) s)))

/-! ## Final failures (R128) -/

/-- R31, R67, R29, R25: the device of a final miss is lost and the place it was to be picked from is left. -/
def lostFrom (o : Order) (s : State) : State :=
  match o.location with
  | some (.socket i) =>
    let s := countRemoved (releaseAt (.socket i) s)
    let s := s.modSocket i fun x => { x with state := .off, pendingDisable := none }
    afterOff i (completeDisable i (raiseEvent .socketDisabled i (noteFault i .miss s)))
  | some (.input i) => clearSlot i (tagAt s (.input i)) (countRemoved (releaseAt (.input i) s))
  | some (.retest r) => opportunityBoth (countRemoved (releaseAt (.retest r) s))
  | _ => s

/-- The tag of the device an order's PICK was to lift. -/
def pickTag (s : State) (o : Order) : Nat :=
  match o.location with
  | some (.socket i) => tagAt s (.socket i)
  | some (.input i) => tagAt s (.input i)
  | some (.retest r) => tagAt s (.retest r)
  | _ => 0

/-- R127, R128: the granted orders of an order's plan that are still queued, the PLACE of a missed PICK's pair, are
resolved as not done. -/
def failPlanMates (h : Head) (o : Order) (s : State) : State :=
  ((s.head h).queue.filter fun q => o.plan.isSome && q.plan == o.plan && q.isGranted).foldl
    (fun s q => resolveNotDone h q s) s

/-- R128: a final miss. -/
def finalMiss (h : Head) (o : Order) (s : State) : State :=
  let tag := pickTag s o
  let s := lostFrom o (failPlanMates h o (leaveQueue h o.tag s))
  grantPoint h (opportunity h (raiseEvent .pickMiss tag (endPlan h o.plan s)))

/-- R55, R89, R25: the location of a final stuck. -/
def stuckAt (o : Order) (s : State) : State :=
  match o.location with
  | some (.socket i) =>
    let s := s.modSocket i fun x => { x with plan := none }
    noteFault i .stuck (if s.sockets[i].state = .filling then enterEmpty i s else s)
  | some (.retest r) => s.modRetest r fun x => { x with plan := none }
  | _ => holeOf o s

/-- The tag of the device on an order's nozzle, when there is one. -/
def stuckTag (h : Head) (o : Order) (s : State) : Option Nat :=
  (o.nozzle.bind fun n => s.recordAt (.nozzle h n)).bind fun k => s.parts[k].map PartRecord.tag

/-- R128, R171: PLACE_STUCK is raised with the device's tag. With no device left on the nozzle, after a restart under R133,
the manual gives no detail, and it is a FREE VALUE (DESIGN CHOICE, log 33). -/
def raiseStuck (tag : Option Nat) (s : State) : State :=
  match tag with
  | some t => raiseEvent .placeStuck t s
  | none => raiseEvent .placeStuck (Config.stuckDetail s.draws).toNat { s with draws := s.draws + 1 }

/-- R128: a final stuck, up to PLACE_STUCK; the head's stop follows for a READY head. -/
def finalStuck (h : Head) (o : Order) (s : State) : State :=
  let tag := stuckTag h o s
  grantPoint h (opportunity h (raiseStuck tag (endPlan h o.plan (stuckAt o (leaveQueue h o.tag s)))))

/-! ## Stops (R125) -/

/-- R125, R138: a head becomes STOPPED with its holdings kept, its order timer cancelled and its pending orders
cancelled. -/
def stopQueue (h : Head) (s : State) : State :=
  let s := yieldCheck h.other (s.modHead h fun x => { x with state := .stopped, base := none })
  cancelWhere h (fun _ => true) (cancelTimer (.order h) s)

/-- R125: every OUTSTANDING order becomes UNKNOWN. -/
def makeUnknown (h : Head) (s : State) : State :=
  s.modHead h fun x =>
    { x with queue := x.queue.map fun o => if o.state = .outstanding then { o with state := .unknown } else o }

/-- The granted orders of a head, oldest first, are resolved as not done. -/
def failGranted (h : Head) (s : State) : State :=
  ((s.head h).queue.filter Order.isGranted).foldl (fun s o => resolveNotDone h o s) s

/-- R125: a READY head stops at a JAM. -/
def stopJam (h : Head) (p : Pos) (s : State) : State :=
  raiseEvent .headStopped h.num (setKnown h p (makeUnknown h (stopQueue h s)))

/-- R125: a head stops at the expiry of its order timer. -/
def stopTimeout (h : Head) (s : State) : State :=
  raiseEvent .orderTimeout h.num (raiseEvent .headStopped h.num (makeUnknown h (stopQueue h s)))

/-- R125, R128: a head stops at a second STUCK; the OUTSTANDING order behind is resolved as not done. -/
def stopStuck (h : Head) (s : State) : State :=
  raiseEvent .headStopped h.num (failGranted h (stopQueue h s))

/-! ## READY (R131, R133) -/

/-- R131 step 2: the UNKNOWN orders are resolved by nozzle presence, oldest first; `failed` says that a PICK or a
PLACE has been resolved as not done. -/
def resolveByPresence (h : Head) (presence : Byte) : List Order → Bool → State → State
  | [], _, s => s
  | o :: rest, failed, s =>
    match o.action, o.nozzle with
    | .pick, some n =>
      if !failed && presentFlag presence n then resolveByPresence h presence rest false (resolveDone h o s)
      else resolveByPresence h presence rest true (resolveNotDone h o s)
    | .place, some n =>
      if !failed && !presentFlag presence n then resolveByPresence h presence rest false (resolveDone h o s)
      else resolveByPresence h presence rest true (resolveNotDone h o s)
    | _, _ => resolveByPresence h presence rest failed (resolveNotDone h o s)

/-- R31: the device recorded on a nozzle, if there is one, leaves custody and is counted as removed. -/
def removeFromNozzle (h : Head) (n : Fin 4) (s : State) : State :=
  if ((s.head h).nozzles[n]).record.isSome then countRemoved (releaseAt (.nozzle h n) s) else s

/-- R131 step 3: a nozzle reported absent loses its device, which is counted as removed (R31), and its mark. -/
def clearNozzle (h : Head) (n : Fin 4) (s : State) : State :=
  (removeFromNozzle h n s).modNozzle h n fun x => { x with blocked := false }

/-- R131 step 3: one nozzle compared with its flag. -/
def compareNozzle (h : Head) (presence : Byte) (s : State) (n : Fin 4) : State :=
  if presentFlag presence n then
    if ((s.head h).nozzles[n]).record.isNone then s.modNozzle h n fun x => { x with blocked := true } else s
  else clearNozzle h n s

/-- R131 step 3: the four nozzles compared with their flags; HEAD_PROTOCOL is raised once when any is marked. -/
def compareNozzles (h : Head) (presence : Byte) (s : State) : State :=
  let marked := (List.finRange 4).any fun n =>
    presentFlag presence n && ((s.head h).nozzles[n]).record.isNone
  let s := (List.finRange 4).foldl (compareNozzle h presence) s
  if marked then raiseEvent .headProtocol h.num s else s

/-- R131 steps 2 and 3. -/
def reconcile (h : Head) (presence : Byte) (s : State) : State :=
  let unknown := (s.head h).queue.filter fun o => o.state == .unknown
  compareNozzles h presence (resolveByPresence h presence unknown false s)

/-- R131: a READY taken for a head that is OFFLINE, STOPPED or RECOVERING. The HEAD_PROTOCOL of a clipped base zone (R139)
comes before the COMPLETION of the ticket; the manual gives no order for the two (DESIGN CHOICE, log 9). -/
def recoverReady (h : Head) (presence : Byte) (p : Pos) (s : State) : State :=
  let recovering := (s.head h).state == .recovering
  let s := reconcile h presence (cancelTimer (.recover h) s)
  let s := standAt h p ((setKnown h p s).modHead h fun x => { x with state := .ready })
  let s :=
    if recovering then complete codeHeadRecover (.head h) .ok (s.modHead h fun x => { x with ticket := none }) else s
  grantPoint h (opportunity h s)

/-- R133: a READY taken for a head that is READY. -/
def restartReady (h : Head) (presence : Byte) (p : Pos) (s : State) : State :=
  let s := makeUnknown h (cancelTimer (.order h) (raiseEvent .headProtocol h.num s))
  grantPoint h (opportunity h (standAt h p (setKnown h p (reconcile h presence s))))

/-! ## Taking a status (R123, R128, R129) -/

/-- R123: an outcome fits an action. -/
def outcomeFits : HeadOutcome → Action → Bool
  | .done, _ => true
  | .miss, .pick => true
  | .stuck, .place => true
  | _, _ => false

/-- R124, R126, R128: DONE, MISS or STUCK taken for the oldest OUTSTANDING order of a READY head. At a final miss the other
OUTSTANDING order is returned, with what that does to its socket, after PICK_MISS; the manual orders only the consequences of
the miss itself (DESIGN CHOICE, log 9). -/
def takeOutcome (h : Head) (outcome : HeadOutcome) (o : Order) (s : State) : State :=
  match outcome with
  | .done => resolveDone h o s
  | .miss => if o.retry = 0 then returnForRetry h (some o.tag) s else returnForRetry h none (finalMiss h o s)
  | .stuck => if o.retry = 0 then returnForRetry h (some o.tag) s else stopStuck h (finalStuck h o s)
  | _ => s

/-- R129: a late status for the oldest UNKNOWN order of a head that is not READY. At a MISS or STUCK the younger UNKNOWN orders
are resolved as not done, with what that does to their sockets and trays, after every consequence of the failed one, PICK_MISS
and PLACE_STUCK included; the manual gives no order of the two (DESIGN CHOICE, log 9). -/
def takeLate (h : Head) (outcome : HeadOutcome) (o : Order) (s : State) : State :=
  match outcome with
  | .done => resolveDone h o s
  | .miss => failGranted h (if o.retry = 0 then resolveNotDone h o s else finalMiss h o s)
  | .stuck => failGranted h (if o.retry = 0 then resolveNotDone h o s else finalStuck h o s)
  | _ => s

/-- R123: the order a DONE, MISS or STUCK is matched against. -/
def matchOrder (h : Head) (s : State) : Option Order :=
  oldestIn (if (s.head h).state = .ready then .outstanding else .unknown) (s.head h)

/-- R123: DONE, MISS and STUCK. -/
def orderStatus (h : Head) (outcome : HeadOutcome) (tag : Nat) (s : State) : State :=
  match matchOrder h s with
  | some o =>
    if o.tag = tag ∧ outcomeFits outcome o.action then
      if (s.head h).state = .ready then takeOutcome h outcome o s else takeLate h outcome o s
    else raiseEvent .headProtocol h.num s
  | none => raiseEvent .headProtocol h.num s

/-- R123: a HEAD STATUS handed over for head `h`. -/
def takeHeadStatus (h : Head) (payload : List Byte) (s : State) : State :=
  let f := HeadStatusFields.read payload
  if f.head = h.num then
    match f.outcome with
    | none => raiseEvent .headProtocol h.num s
    | some .ready =>
      if (s.head h).state = .ready then restartReady h f.presence f.position s
      else recoverReady h f.presence f.position s
    | some .jam => if (s.head h).state = .ready then stopJam h f.position s else setKnown h f.position s
    | some outcome => orderStatus h outcome f.tag s
  else raiseEvent .headProtocol h.num s

end Sys2Proof.Machine
end

