-- ==== Sys2Proof/Machine/Expiries.lean ====
section
/-! DEFINITION. The six expiries (R56, R60, R65, R125, R132, R143, R150), the tick (R146, R147, R153), one REFCLK cycle,
and RESET_N (R18). -/

namespace Sys2Proof.Machine

/-! ## What the owners do at an expiry -/

/-- R60: a partial start. -/
def partialStart (g : Fin 16) (s : State) : State :=
  raiseEvent .partialStart g
    ((startGroup g s).modCounters fun c => { c with partialStarts := satSucc c.partialStarts })

/-- R132, R138: a RECOVERING head becomes OFFLINE, and its ticket completes with TIMEOUT. -/
def recoverTimeout (h : Head) (s : State) : State :=
  complete codeHeadRecover (.head h) .timeout
    (widenHoldings h (s.modHead h fun x => { x with state := .offline, ticket := none }))

/-- R150: what the owner of a timer does at its expiry. -/
def ownerActs : TimerId → State → State
  | .soak i => becomeReady i
  | .watchdog i => takeTimeout i
  | .fill g => partialStart g
  | .order h => stopTimeout h
  | .yield h => yieldFalls h
  | .recover h => recoverTimeout h

/-- R150, log 3: the owner takes the expiry of an expired timer, on the timer made CLEAR. A timer that has not expired has
no expiry to take. -/
def takeExpiry (id : TimerId) (s : State) : State :=
  if !s.resetLow && (s.timer id).due then finish (ownerActs id (cancelTimer id s)) else s

/-! ## Expiries come before any other event (R149, R150) -/

/-- R149, R150: the expiries that are due are taken. Of several, which is taken first is a FREE VALUE (log 8). -/
def takeDueLoop : Nat → State → State
  | 0, s => s
  | k + 1, s =>
    match dueTimers s with
    | [] => s
    | [id] => takeDueLoop k (takeExpiry id s)
    | id :: rest =>
      takeDueLoop k
        (takeExpiry ((id :: rest).getD (Config.choice s.draws % (rest.length + 1)) id) { s with draws := s.draws + 1 })

/-- R149, R150, log 3: every command but an expiry, POWER_ON and the assertion of RESET_N finds the expiries before it
taken. A tick makes at most 150 of them, and an owner that takes one makes none that outlives its step (R149), so 256 rounds
suffice. -/
def takeDue (s : State) : State := if s.resetLow then s else takeDueLoop 256 s

/-! ## The expiry commands (R150) -/

/-- SOAK_EXPIRY (R56). -/
def execSoakExpiry (i : Fin 64) (s : State) : Host.Outcome State Fault Refusal := .next (takeExpiry (.soak i) s)

/-- WATCHDOG_EXPIRY (R65). -/
def execWatchdogExpiry (i : Fin 64) (s : State) : Host.Outcome State Fault Refusal :=
  .next (takeExpiry (.watchdog i) s)

/-- FILL_WAIT_EXPIRY (R60). -/
def execFillWaitExpiry (g : Fin 16) (s : State) : Host.Outcome State Fault Refusal := .next (takeExpiry (.fill g) s)

/-- ORDER_TIMER_EXPIRY (R125). -/
def execOrderTimerExpiry (h : Head) (s : State) : Host.Outcome State Fault Refusal := .next (takeExpiry (.order h) s)

/-- YIELD_TIMER_EXPIRY (R143). -/
def execYieldTimerExpiry (h : Head) (s : State) : Host.Outcome State Fault Refusal := .next (takeExpiry (.yield h) s)

/-- RECOVER_TIMER_EXPIRY (R132). -/
def execRecoverTimerExpiry (h : Head) (s : State) : Host.Outcome State Fault Refusal :=
  .next (takeExpiry (.recover h) s)

/-! ## The tick (R146, R147, R150, R153) -/

/-- R146, R147, R150, R153: the end of a tick. Every RUNNING timer counts, and one brought to 0 expires; the lot clock
advances, and both stages take the factors of TIMEBASE and begin again. -/
def endTick (s : State) : State :=
  { s with
    timers := s.timers.mapAll Timer.tick
    lotClock := satSucc s.lotClock
    tickFactors := s.timebase
    prescaleCount := 0
    divideCount := 0 }

/-- TICK (R146). While RESET_N is low no tick ends. -/
def execTick (s : State) : Host.Outcome State Fault Refusal :=
  .next (if s.resetLow then s else endTick (takeDue s))

/-- R146: the two counting stages at one REFCLK cycle; the last pulse of the divider ends the tick. -/
def countCycle (s : State) : State :=
  if s.prescaleCount + 1 < s.tickFactors.prescaler then { s with prescaleCount := s.prescaleCount + 1 }
  else if s.divideCount + 1 < s.tickFactors.divider then
    { s with prescaleCount := 0, divideCount := s.divideCount + 1 }
  else endTick s

/-- R146: one REFCLK cycle. -/
def refclkCycle (s : State) : State := if s.resetLow then s else countCycle (takeDue s)

/-! ## RESET_N (R18) -/

/-- R1: the address the straps give; straps reading 31 leave the part without one. -/
def strapAddress (straps : BitVec 5) : Option Byte := if straps = 31 then none else some (straps.setWidth 8)

/-- POWER_ON (R18): every block takes its power-on state with the address the straps give. The commands that wait and
the count of free values drawn are the model's own and go on. -/
def execPowerOn (straps : BitVec 5) (s : State) : Host.Outcome State Fault Refusal :=
  .next { State.reset with ownAddress := strapAddress straps, pending := s.pending, draws := s.draws }

/-- RESET_N_ASSERTION (R18, R146): both ports transmit nothing and both counting stages are held at their start. -/
def execResetNAssertion (s : State) : Host.Outcome State Fault Refusal :=
  .next
    { s with
      resetLow := true
      upstream := { s.upstream with sending := none }
      downstream := { s.downstream with sending := none }
      prescaleCount := 0
      divideCount := 0 }

end Sys2Proof.Machine
end

