-- ==== Sys2Proof/Machine/Custody.lean ====
section
/-! DEFINITION. The custody unit's own intake (R20, R22, R26 to R28): registration from the shuttle. -/

namespace Sys2Proof.Machine

/-- R20: the free record with the lowest index. -/
def freeRecord (s : State) : Option (Fin 96) := (List.finRange 96).find? fun i => s.parts[i].isNone

/-- R22: a record in use carries a tag. -/
def tagInUse (s : State) (tag : Nat) : Bool := (List.finRange 96).any fun i => s.parts[i].any fun r => r.tag == tag

/-- R27: a device is registered in an input slot, a planning opportunity for both heads. R20 shows that a free record
is always found (log 27). -/
def register (i : Fin 8) (tag : Nat) (s : State) : State :=
  match freeRecord s with
  | none => s
  | some k =>
    let s := s.setPart k (some { tag := tag, place := .input i, attempts := [], disposition := .none, plan := none })
    let s := s.modInput i fun x => { x with record := some k, taken := none }
    opportunityBoth (s.modCounters fun c => { c with registered := satSucc c.registered })

/-- R27: a tag is reported for a slot that holds no device. -/
def takeIn (i : Fin 8) (tag : Nat) (s : State) : State :=
  if tagInUse s tag then raiseEvent .dupTag tag s else register i tag s

/-- R24, R97: a CLEARING slot becomes EMPTY. -/
def emptySlot (i : Fin 8) (s : State) : State := opportunityBoth (s.modInput i fun x => { x with taken := none })

/-- R28: the slot's reserving plan has a PICK from it that is OUTSTANDING or UNKNOWN. -/
def pickUnderWay (i : Fin 8) (s : State) : Bool :=
  s.inputs[i].plan.isSome && (s.heads.west.queue ++ s.heads.east.queue).any fun o =>
    o.plan == s.inputs[i].plan && o.action == .pick && o.location == some (.input i) && o.isGranted

/-- R27, R28: a report for a HELD slot. -/
def reportHeld (i : Fin 8) (k : Fin 96) (tag : Nat) (s : State) : State :=
  if tag = 0 then if pickUnderWay i s then s else raiseEvent .shuttleMismatch i s
  else if (s.parts[k].map PartRecord.tag) = some tag then s
  else raiseEvent .shuttleMismatch i s

/-- R27: a report for a slot that holds no device, EMPTY or CLEARING. -/
def reportVacant (i : Fin 8) (tag : Nat) (s : State) : State :=
  match s.inputs[i].taken with
  | none => if tag = 0 then s else takeIn i tag s
  | some t => if tag = 0 then emptySlot i s else if tag = t then s else takeIn i tag (emptySlot i s)

/-- R27: a SHUTTLE REPORT delivered to the custody unit. -/
def takeShuttleReport (payload : List Byte) (s : State) : State :=
  let slot := fieldAt payload 0 1
  let tag := fieldAt payload 1 4
  match finOf 8 slot with
  | none => raiseEvent .shuttleMismatch slot s
  | some i =>
    match s.inputs[i].record with
    | some k => reportHeld i k tag s
    | none => reportVacant i tag s

end Sys2Proof.Machine
end

