-- ==== Sys2Proof/Machine/Planner.lean ====
section
/-! DEFINITION. The exchange planner (06): plan creation, scans, the four priorities, and PLANNING_PASS. -/

namespace Sys2Proof.Machine

/-! ## What a pass reads (R99) -/

/-- R99: a nozzle is free. -/
def Nozzle.isFree (n : Nozzle) : Bool := n.record.isNone && !n.blocked && n.plan.isNone

/-- R99: the free nozzles of a head, lowest first. -/
def freeNozzles (s : State) (h : Head) : List (Fin 4) :=
  (List.finRange 4).filter fun n => ((s.head h).nozzles[n]).isFree

/-- R99: the devices carried by a head, each with its nozzle and record, lowest nozzle first. -/
def carried (s : State) (h : Head) : List (Fin 4 × Fin 96 × PartRecord) :=
  (List.finRange 4).filterMap fun n =>
    let x := (s.head h).nozzles[n]
    if x.blocked then none
    else
      match x.record with
      | none => none
      | some k =>
        match s.parts[k] with
        | some r => if r.plan = none then some (n, k, r) else none
        | none => none

/-- R99: the carried device chosen for a socket: RETEST before NONE, then the lowest nozzle. -/
def chooseFor (s : State) (h : Head) (i : Fin 64) : Option (Fin 4 × Fin 96) :=
  let fit := (carried s h).filter fun c => loadable s c.2.2 i
  ((fit.find? fun c => c.2.2.disposition == .retest).or fit.head?).map fun c => (c.1, c.2.1)

/-- R100: the positions of the service list in scan order, from a head's pointer. -/
def scanPositions (s : State) (h : Head) : List Nat :=
  let len := s.serviceList.length
  (List.range len).map fun k => ((s.head h).pointer + k) % len

/-- R100: the first position in scan order whose socket meets a condition. -/
def scan (s : State) (h : Head) (test : Fin 64 → Bool) : Option (Nat × Fin 64) :=
  (scanPositions s h).findSome? fun p =>
    match s.serviceList[p]? with
    | some i => if test i then some (p, i) else none
    | none => none

/-! ## Creating a plan (R94, R95) -/

/-- R95: a plan reserves a socket, a nozzle, a slot, a record. -/
def reserveSocket (p : Nat) (i : Fin 64) (s : State) : State := s.modSocket i fun x => { x with plan := some p }
def reserveNozzle (p : Nat) (h : Head) (n : Fin 4) (s : State) : State :=
  s.modNozzle h n fun x => { x with plan := some p }
def reserveInput (p : Nat) (i : Fin 8) (s : State) : State := s.modInput i fun x => { x with plan := some p }
def reserveRetest (p : Nat) (r : Fin 8) (s : State) : State := s.modRetest r fun x => { x with plan := some p }
def reservePart (p : Nat) (k : Option (Fin 96)) (s : State) : State :=
  match k with
  | some k => s.modPart k fun r => { r with plan := some p }
  | none => s

/-- R94, log 21: a new plan of a kind for a head. -/
def openPlan (h : Head) (kind : PlanKind) (s : State) : State :=
  { s with plans := s.plans ++ [⟨s.planCount, h, kind⟩], planCount := s.planCount + 1 }

/-- R100: a head's service pointer moves past position `p`. -/
def movePointer (h : Head) (p : Nat) (s : State) : State :=
  s.modHead h fun x => { x with pointer := (p + 1) % s.serviceList.length }

/-- R94, R95: an order of the planner that picks the device at a socket or slot into a nozzle. -/
def orderPick (h : Head) (p : Nat) (loc : Location) (part : Option (Fin 96)) (n : Fin 4) (s : State) : State :=
  joinQueue h (newOrder .pick (some n) (some loc) part (some p) .planner)
    (reserveNozzle p h n (reservePart p part s))

/-- R94, R95: an order of the planner that places the device on a nozzle. -/
def orderPlace (h : Head) (p : Nat) (loc : Location) (part : Fin 96) (n : Fin 4) (s : State) : State :=
  joinQueue h (newOrder .place (some n) (some loc) (some part) (some p) .planner)
    (reserveNozzle p h n (reservePart p (some part) s))

/-! ## The four priorities -/

/-- R101: UNLOAD / EXCHANGE. -/
def tryUnload (h : Head) (s : State) : Option State :=
  match (freeNozzles s h).head? with
  | none => none
  | some n =>
    match scan s h fun i =>
      servedBy s i h && s.sockets[i].state == .tested && s.sockets[i].plan.isNone with
    | none => none
    | some (pos, i) =>
      let x := s.sockets[i]
      let p := s.planCount
      let device :=
        if s.lotState = .run ∧ x.pendingDisable = none then chooseFor s h i else none
      match device with
      | none =>
        some (orderPick h p (.socket i) x.record n
          (reserveSocket p i (movePointer h pos (openPlan h .unload s))))
      | some (m, d) =>
        some (orderPlace h p (.socket i) d m (orderPick h p (.socket i) x.record n
          (reserveSocket p i (movePointer h pos (openPlan h .exchange s)))))

/-- R102: every condition of LOAD on a socket but the device. -/
def loadSocket (s : State) (h : Head) (i : Fin 64) : Bool :=
  servedBy s i h && s.sockets[i].state == .empty && s.sockets[i].plan.isNone && s.sockets[i].pendingDisable.isNone

/-- R102: LOAD; in DRAIN it yields nothing. -/
def tryLoad (h : Head) (s : State) : Option State :=
  if s.lotState ≠ .run then none
  else
    match scan s h fun i => loadSocket s h i && (chooseFor s h i).isSome with
    | none => none
    | some (pos, i) =>
      match chooseFor s h i with
      | none => none
      | some (m, d) =>
        let p := s.planCount
        some (orderPlace h p (.socket i) d m (reserveSocket p i (movePointer h pos (openPlan h .load s))))

/-- R103: INPUT_STARVED is raised for the first socket a LOAD scan passed over for want of a device, when no record in
use is loadable into it. -/
def checkStarved (h : Head) (s : State) : State :=
  if s.lotState ≠ .run then s
  else
    match scan s h fun i => loadSocket s h i && (chooseFor s h i).isNone with
    | none => s
    | some (_, i) =>
      if (List.finRange 96).any fun k => s.parts[k].any fun r => loadable s r i then s
      else raiseEvent .inputStarved i s

/-- R94, R95: a STOW plan of a carried device into a pocket or a retest slot. -/
def stowPlan (h : Head) (loc : Location) (part : Fin 96) (n : Fin 4) (s : State) : State :=
  let p := s.planCount
  let s := openPlan h .stow s
  let s := match loc with
    | .retest r => reserveRetest p r s
    | _ => s
  orderPlace h p loc part n s

/-- R87, R104: the bin a device is to be stowed in; in DRAIN a NONE device goes as a HOLD device. -/
def stowBin (s : State) (r : PartRecord) : Option (Fin 16) :=
  match r.disposition with
  | .bin b => some b
  | .hold => some s.lot.holdBin
  | .none => if s.lotState = .drain then some s.lot.holdBin else none
  | .retest => none

/-- R104: pockets are asked for in turn until a device receives one. -/
def stowFirst (h : Head) : List (Fin 4 × Fin 96 × PartRecord) → State → State × Bool
  | [], s => (s, false)
  | c :: rest, s =>
    match stowBin s c.2.2 with
    | none => stowFirst h rest s
    | some b =>
      match askPocket b s with
      | (s, some loc) => (stowPlan h loc c.2.1 c.1 s, true)
      | (s, none) => stowFirst h rest s

/-- R105: no LOAD is possible for a device. -/
def noLoadFor (s : State) (h : Head) (r : PartRecord) : Bool :=
  !(s.serviceList.any fun i => loadSocket s h i && loadable s r i)

/-- R84: the retest buffer is full, so the device is converted and RETEST_OVERFLOW raised. -/
def overflow (k : Fin 96) (tag : Nat) (s : State) : State := raiseEvent .retestOverflow tag (convert k s)

/-- R105: STOW into the retest buffer, or of the device converted for want of room. -/
def stowRetest (h : Head) (s : State) : State × Bool :=
  if (freeNozzles s h).isEmpty then
    match (carried s h).find? fun c => c.2.2.disposition == .retest && noLoadFor s h c.2.2 with
    | none => (s, false)
    | some (n, k, r) =>
      match (List.finRange 8).find? fun i => s.retests[i].record.isNone && s.retests[i].plan.isNone with
      | some i => (stowPlan h (.retest i) k n s, true)
      | none =>
        let s := overflow k r.tag s
        match s.parts[k] with
        | some r => stowFirst h [(n, k, r)] s
        | none => (s, false)
  else (s, false)

/-- R104, R105: STOW. -/
def tryStow (h : Head) (s : State) : State × Bool :=
  match stowFirst h (carried s h) s with
  | (s, true) => (s, true)
  | (s, false) => stowRetest h s

/-- R106: FETCH. R25 lets a LOAD or EXCHANGE plan take a device straight from a retest slot, while R94 and R95 give those
plans no slot: a HELD retest slot is reserved by a FETCH alone (DESIGN CHOICE, log 31). -/
def tryFetch (h : Head) (s : State) : Option State :=
  match freeNozzles s h with
  | n :: _ :: _ =>
    let p := s.planCount
    match (List.finRange 8).find? fun i => s.retests[i].record.isSome && s.retests[i].plan.isNone with
    | some i =>
      some (orderPick h p (.retest i) s.retests[i].record n (reserveRetest p i (openPlan h .fetch s)))
    | none =>
      if s.lotState ≠ .run then none
      else
        match (List.finRange 8).find? fun i => s.inputs[i].record.isSome && s.inputs[i].plan.isNone with
        | some i =>
          some (orderPick h p (.input i) s.inputs[i].record n (reserveInput p i (openPlan h .fetch s)))
        | none => none
  | _ => none

/-- R98: one pass; the flag says whether it yielded a plan. -/
def onePass (h : Head) (s : State) : State × Bool :=
  match tryUnload h s with
  | some s => (s, true)
  | none =>
    match tryLoad h s with
    | some s => (s, true)
    | none =>
      match tryStow h (checkStarved h s) with
      | (s, true) => (s, true)
      | (s, false) =>
        match tryFetch h s with
        | some s => (s, true)
        | none => (s, false)

/-- R98: passes are repeated while the condition holds, until one yields no plan. Each plan adds a pending order, so
two plans at most are made. -/
def passes (h : Head) : Nat → State → State
  | 0, s => s
  | k + 1, s =>
    if passCondition h s then
      match onePass h s with
      | (s, true) => passes h k s
      | (s, false) => s
    else s

/-- R98: the passes of an opportunity, then the grants of the orders they queued (R94, R119). Without an opportunity
waiting there is no pass (log 4). -/
def planningPass (h : Head) (s : State) : State :=
  if s.resetLow || !(s.head h).passDue then s
  else finish (passes h 2 (s.modHead h fun x => { x with passDue := false }))

/-- PLANNING_PASS (R98). -/
def execPlanningPass (h : Head) (s : State) : Host.Outcome State Fault Refusal := .next (planningPass h (takeDue s))

end Sys2Proof.Machine
end

