-- ==== Sys2Proof/Machine/Tables.lean ====
section
/-! DEFINITION. The eleven tables (R4, R8, R39 to R46, R77, R85, R147, R165 to R168, R183): entry layouts, validation,
writing and reading. -/

namespace Sys2Proof.Machine

/-! ## Shapes (R165, R183) -/

/-- R165: how many entries a table has. -/
def TableId.size : TableId → Nat
  | .node => 5
  | .siteGeometry => 64
  | .deck => 18
  | .nozzle => 8
  | .motion => 2
  | .lot => 1
  | .binMap => 256
  | .binPolicy => 16
  | .serviceList => 64
  | .forwarding => 32
  | .timebase => 1

/-- R183: the bytes of an entry. -/
def TableId.entryBytes : TableId → Nat
  | .node => 1
  | .siteGeometry => 11
  | .deck => 8
  | .nozzle => 8
  | .motion => 10
  | .lot => 18
  | .binMap => 4
  | .binPolicy => 2
  | .serviceList => 1
  | .forwarding => 7
  | .timebase => 4

/-- R183: the most entries one TABLE READ answers. -/
def TableId.readMost : TableId → Nat
  | .node => 5
  | .siteGeometry => 19
  | .deck => 18
  | .nozzle => 8
  | .motion => 2
  | .lot => 1
  | .binMap => 47
  | .binPolicy => 16
  | .serviceList => 64
  | .forwarding => 29
  | .timebase => 1

/-- R165: the tables protected in RUN, PAUSE and DRAIN. -/
def TableId.isProtected : TableId → Bool
  | .node => true
  | .siteGeometry => true
  | .deck => true
  | .nozzle => true
  | .motion => true
  | .lot => true
  | .timebase => true
  | _ => false

/-! ## Entries as bytes (R183) -/

/-- R40: a SITE_GEOMETRY entry within its ranges; `some none` is an absent entry. -/
def readSite (bs : List Byte) : Option (Option SiteGeometry) :=
  if readFlag (byteAt bs 0) then
    let x := fieldAt bs 1 4
    let y := fieldAt bs 5 4
    let home := fieldAt bs 10 1
    if x ≤ Config.railMaxX ∧ y ≤ Config.railMaxY then
      match finOf 16 (fieldAt bs 9 1) with
      | some g =>
        if home = 0 then some (some ⟨x, y, g, .west⟩)
        else if home = 1 then some (some ⟨x, y, g, .east⟩)
        else if home = 2 then some (some ⟨x, y, g, .either⟩)
        else none
      | none => none
    else none
  else some none

/-- R41: a DECK entry within its ranges. -/
def readDeck (bs : List Byte) : Option Pos :=
  let p : Pos := ⟨fieldAt bs 0 4, fieldAt bs 4 4⟩
  if p.x ≤ Config.railMaxX ∧ p.y ≤ Config.railMaxY then some p else none

/-- R42: a NOZZLE entry within its ranges. -/
def readOffset (bs : List Byte) : Option Offset :=
  let o : Offset := ⟨signedAt bs 0, signedAt bs 4⟩
  if -40000 ≤ o.dx ∧ o.dx ≤ 40000 ∧ -40000 ≤ o.dy ∧ o.dy ≤ 40000 then some o else none

/-- R43: a MOTION entry within its ranges. -/
def readMotion (bs : List Byte) : Option Motion :=
  let m : Motion := ⟨fieldAt bs 0 2, fieldAt bs 2 2, fieldAt bs 4 2, fieldAt bs 6 2, fieldAt bs 8 2⟩
  if 50 ≤ m.vx ∧ m.vx ≤ 5000 ∧ 50 ≤ m.vy ∧ m.vy ≤ 5000 ∧ m.base ≤ 2000 ∧ m.pick ≤ 2000 ∧ m.place ≤ 2000 then
    some m
  else none

/-- R167: the LOT entry within its ranges. Group avoidance is set or clear, so a byte above 1 is out of range. -/
def readLot (bs : List Byte) : Option LotTable :=
  let avoid := fieldAt bs 12 1
  let mode := fieldAt bs 15 1
  match finOf 16 (fieldAt bs 13 1) with
  | none => none
  | some hold =>
    let t : LotTable :=
      { soak := fieldAt bs 0 4, fillWait := fieldAt bs 4 2, testLimit := fieldAt bs 6 4, timeoutCode := byteAt bs 10,
        retestLimit := fieldAt bs 11 1, groupAvoidance := avoid == 1, holdBin := hold,
        faultThreshold := fieldAt bs 14 1, faultMode := if mode = 0 then .sticky else .perPart,
        yieldDelay := fieldAt bs 16 2 }
    if t.soak ≤ 600000 ∧ t.fillWait ≤ 60000 ∧ 100 ≤ t.testLimit ∧ t.testLimit ≤ 600000 ∧ t.retestLimit ≤ 2 ∧
        avoid ≤ 1 ∧ t.faultThreshold ≤ 15 ∧ mode ≤ 1 ∧ t.yieldDelay ≤ 10000 then some t
    else none

/-- R77: a BIN_MAP entry within its ranges; class UNMAPPED is `some none` and its other fields are not read. -/
def readBinEntry (bs : List Byte) : Option (Option BinEntry) :=
  let cls := fieldAt bs 0 1
  if cls = 3 then some none
  else
    match finOf 16 (fieldAt bs 1 1), finOf 16 (fieldAt bs 2 1) with
    | some b, some f =>
      let mark := readFlag (byteAt bs 3)
      if cls = 0 then some (some ⟨.bin, b, f, mark⟩)
      else if cls = 1 then some (some ⟨.retest, b, f, mark⟩)
      else if cls = 2 then some (some ⟨.hold, b, f, mark⟩)
      else none
    | _, _ => none

/-- R85: the BIN_POLICY entry of bin `i` within its ranges. -/
def readPolicy (i : Nat) (bs : List Byte) : Option BinPolicy :=
  let policy := fieldAt bs 0 1
  match finOf 16 (fieldAt bs 1 1) with
  | none => none
  | some d =>
    if policy = 0 then some ⟨.swap, d⟩
    else if policy = 1 then if d.val = i then none else some ⟨.divert, d⟩
    else none

/-- R8: an address to match, with `limit` its largest value and 255 for ANY; `none` is out of range (log 16). -/
def readMatch (limit : Nat) (b : Byte) : Option (Option Byte) :=
  if b = 255 then some none else if b.toNat ≤ limit then some (some b) else none

/-- R8: a FORWARDING entry within its ranges; the fields of an entry not in use are not read. -/
def readForward (bs : List Byte) : Option (Option ForwardRule) :=
  if readFlag (byteAt bs 0) then
    let kind := if readFlag (byteAt bs 3) then none else some (byteAt bs 4)
    let dir := fieldAt bs 5 1
    let act := fieldAt bs 6 1
    match readMatch 30 (byteAt bs 1), readMatch 31 (byteAt bs 2) with
    | some src, some dst =>
      if dir ≤ 2 ∧ act ≤ 2 then
        some (some
          { source := src, destination := dst, kind := kind
            direction := if dir = 0 then .up else if dir = 1 then .down else .both
            action := if act = 0 then .pass else if act = 1 then .drop else .passInIdle })
      else none
    | _, _ => none
  else some none

/-- R147: the TIMEBASE entry within its ranges. -/
def readTimeBase (bs : List Byte) : Option TimeBase :=
  let t : TimeBase := ⟨fieldAt bs 0 2, fieldAt bs 2 2⟩
  if 1 ≤ t.prescaler ∧ 1 ≤ t.divider then some t else none

/-! ## Validation against the rest of the state (R4, R45, R46) -/

/-- R45: the test of a SITE_GEOMETRY entry. -/
def checkSite (s : State) (bs : List Byte) : Option (Option SiteGeometry) :=
  match readSite bs with
  | some (some g) => if passesHome s g then some (some g) else none
  | other => other

/-- R45: the test of DECK entry `i`. -/
def checkDeck (s : State) (i : Nat) (bs : List Byte) : Option Pos :=
  match readDeck bs with
  | none => none
  | some p =>
    if i < 16 then if passesBoth s p.x p.y then some p else none
    else if i = 16 then if zoneOf p.x ≤ 6 then some p else none
    else if 9 ≤ zoneOf p.x ∧ zoneOf p.x ≤ 15 then some p else none

/-- R46: a tray whose corners are re-checked. -/
def TrayRecord.rechecked (t : TrayRecord) : Bool :=
  t.state == .ready || t.state == .active || t.state == .closing

/-- R46: the corner pockets of every tray in the READY, ACTIVE or CLOSING state. -/
def recheckedCorners (s : State) : List Pos :=
  (s.bins.toList.flatMap fun b => [b.trayA, b.trayB]).flatMap fun t =>
    if t.rechecked then (t.geometry.map TrayGeometry.corners).getD [] else []

/-- R46: every location already accepted passes for one nozzle under a new offset. -/
def recheckNozzle (s : State) (h : Head) (o : Offset) : Bool :=
  ((List.finRange 64).all fun i =>
    match s.geometry i with
    | some g => !g.home.serves h || locationTest h o g.x g.y
    | none => true) &&
  ((s.deck.toList.take 16).all fun e =>
    match e with
    | some p => locationTest h o p.x p.y
    | none => true) &&
  (recheckedCorners s).all fun p => locationTest h o p.x p.y

/-- R45, R46: the test of NOZZLE entry `i`. -/
def checkNozzle (s : State) (i : Nat) (bs : List Byte) : Option Offset :=
  match readOffset bs with
  | none => none
  | some o => if recheckNozzle s (if i < 4 then .west else .east) o then some o else none

/-- R4: entry `i` offends in the table as it would stand after a write of entries `lo` to `hi` - 1: it equals an
earlier written entry, or the write covers it and it is the own address or no address. -/
def nodeOffends (s : State) (table : Vector (Option Byte) 5) (lo hi : Nat) (i : Fin 5) : Bool :=
  match table[i] with
  | none => false
  | some a =>
    ((List.finRange 5).any fun j => decide (j < i) && table[j] == some a) ||
    (decide (lo ≤ i ∧ i < hi) && (s.ownAddress == some a || decide (30 < a.toNat)))

/-! ## Writing (R165, R166) -/

/-- Entries put into a table from an index on. -/
def putFrom (v : Vector α n) : Nat → List α → Vector α n
  | _, [] => v
  | i, x :: xs => putFrom (v.setIfInBounds i x) (i + 1) xs

/-- R45, R77: entries are validated in index order; a failure names the lowest failing index. -/
def readEntries (f : Nat → List Byte → Option α) : Nat → List (List Byte) → Except Nat (List α)
  | _, [] => .ok []
  | i, e :: es =>
    match f i e with
    | none => .error i
    | some x =>
      match readEntries f (i + 1) es with
      | .ok xs => .ok (x :: xs)
      | .error k => .error k

/-- R40: a socket whose entry an accepted write has made absent goes OFF. -/
def dropUnfitted (s : State) (i : Fin 64) : State :=
  if s.siteGeometry[i] = some none ∧ s.sockets[i].state ≠ .off then
    afterOff i (s.modSocket i fun x => { x with state := .off })
  else s

/-- R165: the owner's validation of the entries from `start` on, and the table as written when all pass. -/
def writeTable (t : TableId) (start : Nat) (entries : List (List Byte)) (s : State) : Except Nat State :=
  match t with
  | .node =>
    let table := putFrom s.node start (entries.map fun e => some (byteAt e 0))
    match (List.finRange 5).find? fun i => nodeOffends s table start (start + entries.length) i with
    | some i => .error i
    | none => .ok { s with node := table }
  | .siteGeometry =>
    (readEntries (fun _ => checkSite s) start entries).map fun es =>
      (List.finRange 64).foldl dropUnfitted { s with siteGeometry := putFrom s.siteGeometry start (es.map some) }
  | .deck =>
    (readEntries (checkDeck s) start entries).map fun es => { s with deck := putFrom s.deck start (es.map some) }
  | .nozzle =>
    (readEntries (checkNozzle s) start entries).map fun es =>
      { s with nozzleTable := putFrom s.nozzleTable start (es.map some) }
  | .motion =>
    (readEntries (fun _ => readMotion) start entries).map fun es =>
      { s with motion := putFrom s.motion start (es.map some) }
  | .lot => (readEntries (fun _ => readLot) start entries).map fun es => { s with lotTable := es.getLast? }
  | .binMap =>
    (readEntries (fun _ => readBinEntry) start entries).map fun es => { s with binMap := putFrom s.binMap start es }
  | .binPolicy =>
    (readEntries readPolicy start entries).map fun es =>
      { s with binPolicy := putFrom s.binPolicy start (es.map some) }
  | .serviceList => .ok s
  | .forwarding =>
    (readEntries (fun _ => readForward) start entries).map fun es =>
      { s with forwarding := putFrom s.forwarding start (es.map some) }
  | .timebase =>
    (readEntries (fun _ => readTimeBase) start entries).map fun es =>
      { s with timebase := es.getLast?.getD s.timebase }

/-- R165: a table's write cursor. -/
def setCursor (t : TableId) (n : Nat) (s : State) : State := { s with cursors := s.cursors.set t.num n }

/-- R166: both service pointers become 0. -/
def zeroPointers (s : State) : State :=
  (s.modHead .west fun x => { x with pointer := 0 }).modHead .east fun x => { x with pointer := 0 }

/-- R166: the sockets a SERVICE_LIST write carries, from a position on. -/
def readSockets : Nat → List Byte → Except Nat (List (Fin 64))
  | _, [] => .ok []
  | i, b :: bs =>
    match finOf 64 b.toNat with
    | none => .error i
    | some k =>
      match readSockets (i + 1) bs with
      | .ok ks => .ok (k :: ks)
      | .error e => .error e

/-- R166: the answer to an accepted SERVICE_LIST write, whose cursor becomes the list's length. -/
def answerServiceList (r : Request) (s : State) : State :=
  let n := s.serviceList.length
  respondOk r ([byte TableId.serviceList.num] ++ leBytes 2 n ++ [byte n]) (setCursor .serviceList n s)

/-- R166, R165: a SERVICE_LIST write in REPLACE, APPEND or KEEP mode. -/
def writeServiceList (r : Request) (mode : Nat) (sockets : List Byte) (s : State) : State :=
  if mode = 2 then answerServiceList r s
  else
    let fresh := mode = 0 ∨ s.serviceList = []
    let start := if fresh then 0 else s.serviceList.length
    if 64 < start + sockets.length then respondRange r 64 s
    else
      match readSockets start sockets with
      | .error i => respondRange r i s
      | .ok ks =>
        let s :=
          if fresh then zeroPointers { s with serviceList := ks } else { s with serviceList := s.serviceList ++ ks }
        opportunityBoth (answerServiceList r s)

/-- R156, R182: the length of a TABLE WRITE payload fits its table and mode. A table id that is none of the eleven has no
entry size, and any four or more field bytes fit it (DESIGN CHOICE, log 34). -/
def tableWriteFits (fields : List Byte) : Bool :=
  decide (4 ≤ fields.length) &&
  match TableId.ofNum (fieldAt fields 0 1) with
  | none => true
  | some t =>
    (fields.length - 4) % t.entryBytes == 0 &&
      (decide (t.entryBytes ≤ fields.length - 4) || (t == .serviceList && fieldAt fields 1 1 == 2))

/-- R165: TABLE WRITE, checked in the manual's order. -/
def writeRequest (r : Request) (s : State) : State :=
  let mode := fieldAt r.fields 1 1
  match TableId.ofNum (fieldAt r.fields 0 1) with
  | none => respond r .unknown s
  | some .serviceList =>
    if 2 < mode then respondRange r 0 s else writeServiceList r mode (r.fields.drop 4) s
  | some t =>
    if 1 < mode then respondRange r 0 s
    else if s.lotState.working && t.isProtected then respond r .access (raiseEvent .accessRefused t.num s)
    else
      let start := if mode = 0 then fieldAt r.fields 2 2 else s.cursors[t.num]
      let entries := chunks t.entryBytes (r.fields.drop 4)
      if t.size < start + entries.length then respondRange r t.size s
      else
        match writeTable t start entries s with
        | .error i => respondRange r i s
        | .ok s =>
          let cursor := start + entries.length
          respondOk r (byte t.num :: leBytes 2 cursor) (setCursor t cursor s)

/-! ## Reading (R168, R178, R183) -/

def siteBytes : Option (Option SiteGeometry) → List Byte
  | none => absentBytes 11
  | some none => 0 :: absentBytes 10
  | some (some g) =>
    1 :: leBytes 4 g.x ++ leBytes 4 g.y ++
      [byte g.group, match g.home with | .west => 0 | .east => 1 | .either => 2]

def posBytes : Option Pos → List Byte
  | none => absentBytes 8
  | some p => leBytes 4 p.x ++ leBytes 4 p.y

def offsetBytes : Option Offset → List Byte
  | none => absentBytes 8
  | some o => signedBytes o.dx ++ signedBytes o.dy

def motionBytes : Option Motion → List Byte
  | none => absentBytes 10
  | some m => leBytes 2 m.vx ++ leBytes 2 m.vy ++ leBytes 2 m.base ++ leBytes 2 m.pick ++ leBytes 2 m.place

def lotBytes : Option LotTable → List Byte
  | none => absentBytes 18
  | some t =>
    leBytes 4 t.soak ++ leBytes 2 t.fillWait ++ leBytes 4 t.testLimit ++
      [t.timeoutCode, byte t.retestLimit, flagByte t.groupAvoidance, byte t.holdBin, byte t.faultThreshold,
        match t.faultMode with | .sticky => 0 | .perPart => 1] ++ leBytes 2 t.yieldDelay

def binEntryBytes : Option BinEntry → List Byte
  | none => absentBytes 4
  | some e =>
    [match e.cls with | .bin => 0 | .retest => 1 | .hold => 2, byte e.bin, byte e.finalBin, flagByte e.faultMark]

def policyBytes : Option BinPolicy → List Byte
  | none => absentBytes 2
  | some p => [match p.policy with | .swap => 0 | .divert => 1, byte p.divertBin]

def forwardBytes : Option (Option ForwardRule) → List Byte
  | none => absentBytes 7
  | some none => 0 :: absentBytes 6
  | some (some e) =>
    [1, e.source.getD 255, e.destination.getD 255, flagByte e.kind.isNone, e.kind.getD 255,
      match e.direction with | .up => 0 | .down => 1 | .both => 2,
      match e.action with | .pass => 0 | .drop => 1 | .passInIdle => 2]

def timeBaseBytes (t : TimeBase) : List Byte := leBytes 2 t.prescaler ++ leBytes 2 t.divider

/-- R168: entry `i` of a table, its written mark and its value; an unwritten entry's fields are absent (log 14). -/
def readEntry (t : TableId) (i : Nat) (s : State) : List Byte :=
  match t with
  | .node =>
    let e := s.node[i]?.join
    [flagByte e.isSome, e.getD 255]
  | .siteGeometry =>
    let e := s.siteGeometry[i]?.join
    flagByte e.isSome :: siteBytes e
  | .deck =>
    let e := s.deck[i]?.join
    flagByte e.isSome :: posBytes e
  | .nozzle =>
    let e := s.nozzleTable[i]?.join
    flagByte e.isSome :: offsetBytes e
  | .motion =>
    let e := s.motion[i]?.join
    flagByte e.isSome :: motionBytes e
  | .lot => flagByte s.lotTable.isSome :: lotBytes s.lotTable
  | .binMap =>
    let e := s.binMap[i]?.join
    flagByte e.isSome :: binEntryBytes e
  | .binPolicy =>
    let e := s.binPolicy[i]?.join
    flagByte e.isSome :: policyBytes e
  | .serviceList =>
    let e := s.serviceList[i]?
    [flagByte e.isSome, (e.map fun k => byte k).getD 255]
  | .forwarding =>
    let e := s.forwarding[i]?.join
    flagByte e.isSome :: forwardBytes e
  | .timebase => 1 :: timeBaseBytes s.timebase

/-- R168: TABLE READ. A read that passes the table's end and also asks for more entries than one response holds is answered
with the table's size: the manual gives no order of the two answers (DESIGN CHOICE, log 35). -/
def readRequest (r : Request) (s : State) : State :=
  let start := fieldAt r.fields 1 2
  let count := fieldAt r.fields 3 2
  match TableId.ofNum (fieldAt r.fields 0 1) with
  | none => respond r .unknown s
  | some t =>
    if count = 0 then respondRange r 0 s
    else if t.size < start + count then respondRange r t.size s
    else if t.readMost < count then respondRange r (start + t.readMost) s
    else
      respondOk r
        (leBytes 2 s.cursors[t.num] ++ (if t = .serviceList then [byte s.serviceList.length] else []) ++
          (List.range count).flatMap fun k => readEntry t (start + k) s) s

/-- R168: CURSOR RESET. -/
def cursorRequest (r : Request) (s : State) : State :=
  match TableId.ofNum (fieldAt r.fields 0 1) with
  | none => respond r .unknown s
  | some t => respondOk r [] (setCursor t 0 s)

end Sys2Proof.Machine
end

