-- ==== Sys2Proof/Machine/Status.lean ====
section
/-! DEFINITION. What the cell computer reads: the sections of STATUS READ (R176, R184) and the selection of a part
record for PART PURGE and LOCATE (R35, R36). -/

namespace Sys2Proof.Machine

/-! ## The sections of STATUS READ (R176, R184) -/

/-- Section 0, lot. -/
def lotSection (s : State) : List Byte :=
  [byte s.lotState.num, (s.remembered.map fun l => byte l.num).getD 255] ++ leBytes 4 s.lotClock ++
    [byte (partsInUse s), flagByte s.slotWanted]

/-- R54, R184: one socket in 11 bytes, the fault flags taking two (DEDUCED, log 12). -/
def socketItem (x : Socket) : List Byte :=
  [byte x.state.num] ++ leBytes 2 x.faults.num ++ [byte x.faultCount, byte (disableNum x.pendingDisable)] ++
    match x.last with
    | some (code, time) => [1, code] ++ leBytes 4 time
    | none => 0 :: absentBytes 5

/-- R184: one group in 9 bytes. -/
def groupItem (s : State) (g : Fin 16) : List Byte :=
  let start := s.groups[g].lastStart
  [flagByte (groupBusy s g)] ++ optBytes 4 (start.map Prod.fst) ++ optBytes 1 (start.map Prod.snd) ++
    [byte (s.timer (.fill g)).num] ++ optBytes 2 (s.timer (.fill g)).remaining

/-- R184: a plan is named by the tag of its first order still queued, or 0 for none. -/
def planTag (s : State) (plan : Option Nat) : Nat :=
  match plan with
  | none => 0
  | some p =>
    (((s.heads.west.queue ++ s.heads.east.queue).find? fun o => o.plan == some p).map Order.tag).getD 0

/-- R94: the live plan with a name. -/
def findPlan (s : State) (plan : Option Nat) : Option Plan := s.plans.find? fun p => some p.id == plan

/-- R184: a queued order in 11 bytes. -/
def orderItem (s : State) (o : Order) : List Byte :=
  [byte o.tag, byte (planTag s o.plan)] ++ optBytes 1 ((findPlan s o.plan).map fun p => p.kind.num) ++
    [byte o.action.num] ++ optBytes 1 (o.nozzle.map Fin.val) ++
    (o.location.map Location.bytes).getD (absentBytes 4) ++ [byte o.retry, byte o.state.num]

/-- R184: a nozzle entry in 3 bytes. -/
def nozzleItem (s : State) (n : Nozzle) : List Byte :=
  optBytes 1 (n.record.map Fin.val) ++ [flagByte n.blocked, byte (planTag s n.plan)]

/-- R184: one head in 29 bytes, then its order count and its queued orders. -/
def headItem (s : State) (h : Head) : List Byte :=
  let x := s.head h
  let t := s.timer (.yield h)
  [byte x.state.num] ++ optBytes 4 (x.known.map Pos.x) ++ optBytes 4 (x.known.map Pos.y) ++ optBytes 1 x.base ++
    [byte x.holdings.lo, byte x.holdings.hi, byte t.num] ++ optBytes 2 t.remaining ++
    [flagByte x.yieldDue, byte x.pointer] ++ x.nozzles.toList.flatMap (nozzleItem s) ++
    [byte x.queue.length] ++ x.queue.flatMap (orderItem s)

/-- R184: one tray of a bin. -/
def trayItem (t : TrayRecord) : List Byte :=
  [byte t.state.num] ++ leBytes 2 t.allocated ++ leBytes 2 t.placed ++ leBytes 2 t.holes ++ leBytes 2 t.outstanding

/-- R85, R176, R184: one bin in 22 bytes. No active tray is reported as 2 (DEDUCED, log 15). The manual says that an unwritten
BIN_POLICY entry acts as SWAP and not what its two bytes read: policy 0, SWAP, and divert bin 255, absent (DESIGN CHOICE,
log 37). -/
def binItem (s : State) (b : Fin 16) : List Byte :=
  let x := s.bins[b]
  (match s.binPolicy[b] with
    | some p => policyBytes (some p)
    | none => [0, 255]) ++
    [match x.active with
      | some .a => 0
      | some .b => 1
      | none => 2, flagByte x.blocked] ++ trayItem x.trayA ++ trayItem x.trayB

/-- Section 5, counters. -/
def countersSection (s : State) : List Byte :=
  let c := s.counters
  leBytes 4 c.registered ++ c.binned.toList.flatMap (leBytes 4) ++ leBytes 4 c.testsStarted ++
    leBytes 4 c.testTimeouts ++ leBytes 4 c.partialStarts ++ leBytes 4 c.retests ++ leBytes 4 c.returned ++
    leBytes 4 c.removed

/-- One event kind in 8 bytes. -/
def eventItem (s : State) (k : Fin 21) : List Byte :=
  let e := s.events[k]
  [flagByte (s.eventMask.getLsbD k), flagByte e.pending] ++ optBytes 4 e.detail ++ leBytes 2 e.count

/-- Section 7, completion list. -/
def completionSection (s : State) : List Byte :=
  [byte s.ticketCounter, byte s.completions.length] ++
    s.completions.flatMap fun c => [byte c.ticket, c.code, c.subject.code]

/-- R176: `count` entries of a table of `n` from `first` on. -/
def itemRange (n first count : Nat) : List (Fin n) := ((List.finRange n).drop first).take count

/-- R176, R182: a section's first index and count in the request's fields. -/
def sectionRange (fields : List Byte) (k : Nat) : Nat × Nat :=
  if k = 1 then (fieldAt fields 1 1, fieldAt fields 2 1)
  else if k = 2 then (fieldAt fields 3 1, fieldAt fields 4 1)
  else if k = 4 then (fieldAt fields 5 1, fieldAt fields 6 1)
  else (0, 1)

/-- How many entries the sockets, groups and trays sections have. -/
def sectionSize (k : Nat) : Nat := if k = 1 then 64 else if k = 2 then 16 else if k = 4 then 16 else 1

/-- R176: the content of a section. -/
def sectionBytes (s : State) (fields : List Byte) (k : Nat) : List Byte :=
  let r := sectionRange fields k
  if k = 0 then lotSection s
  else if k = 1 then (itemRange 64 r.1 r.2).flatMap fun i => socketItem s.sockets[i]
  else if k = 2 then (itemRange 16 r.1 r.2).flatMap (groupItem s)
  else if k = 3 then headItem s .west ++ headItem s .east
  else if k = 4 then (itemRange 16 r.1 r.2).flatMap (binItem s)
  else if k = 5 then countersSection s
  else if k = 6 then (List.finRange 21).flatMap (eventItem s)
  else completionSection s

/-- R176, R178: the sections a request names, in section order. -/
def namedSections (fields : List Byte) : List Nat := (List.range 8).filter fun k => (byteAt fields 0).getLsbD k

/-- R176, R184: the sections joined, or the first that does not fit in what room is left. -/
def joinSections (s : State) (fields : List Byte) : Nat → List Nat → Except Nat (List Byte)
  | _, [] => .ok []
  | room, k :: ks =>
    let bs := sectionBytes s fields k
    if room < bs.length then .error k
    else
      match joinSections s fields (room - bs.length) ks with
      | .ok rest => .ok (bs ++ rest)
      | .error e => .error e

/-- R176: STATUS READ. A bad index or count is answered before sections that do not fit; the manual gives no order of the two
(DESIGN CHOICE, log 35). -/
def statusRequest (r : Request) (s : State) : State :=
  let named := namedSections r.fields
  let bad (k : Nat) : Bool :=
    let x := sectionRange r.fields k
    x.2 == 0 || decide (sectionSize k < x.1 + x.2)
  if named.any bad then respondRange r 0 s
  else
    match joinSections s r.fields Config.resultMax named with
    | .ok bs => respondOk r bs s
    | .error k => respondRange r k s

/-! ## Selecting a part record (R35, R36) -/

/-- R35, R182: a selector. -/
inductive Selector where
  | index (i : Fin 96)
  | tag (t : Nat)
  | place (p : Place)
deriving DecidableEq, Repr

/-- R35, R182: the selector a request's fields give; a place occupies the low two bytes of the value. -/
def readSelector (fields : List Byte) : Option Selector :=
  let kind := fieldAt fields 0 1
  let value := fieldAt fields 1 4
  if kind = 0 then (finOf 96 value).map .index
  else if kind = 1 then if value = 0 then none else some (.tag value)
  else if kind = 2 then (Place.ofCode (fieldAt fields 1 1) (fieldAt fields 2 1)).map .place
  else none

/-- R35: the record in use that a selector names. -/
def selectRecord (s : State) : Selector → Option (Fin 96)
  | .index i => if s.parts[i].isSome then some i else none
  | .tag t => (List.finRange 96).find? fun i => s.parts[i].any fun r => r.tag == t
  | .place p => s.recordAt p

/-- R36, R24, R25: the state of a record's place: the socket's state, the nozzle's BLOCKED flag, the slot's condition
(EMPTY 0, HELD 1, CLEARING 2). -/
def placeState (s : State) : Place → Nat
  | .socket i => s.sockets[i].state.num
  | .nozzle h n => (((s.head h).nozzles[n]).blocked).toNat
  | .input i => if s.inputs[i].record.isSome then 1 else if s.inputs[i].taken.isSome then 2 else 0
  | .retest r => if s.retests[r].record.isSome then 1 else 0

/-- R36, R182: the result fields of LOCATE. -/
def locateFields (s : State) (i : Fin 96) (r : PartRecord) : List Byte :=
  let attempts := r.attempts.flatMap fun a => [byte a.1, a.2]
  [byte i] ++ leBytes 4 r.tag ++ r.place.bytes ++ [byte (placeState s r.place), byte r.attempts.length] ++
    attempts ++ absentBytes (6 - attempts.length) ++
    [r.disposition.code, ((findPlan s r.plan).map fun p => byte p.head.num).getD 255]

/-- R36: LOCATE. -/
def locateRequest (r : Request) (s : State) : State :=
  match readSelector r.fields with
  | none => respondRange r 0 s
  | some sel =>
    match selectRecord s sel with
    | none => respond r .notFound s
    | some i =>
      match s.parts[i] with
      | none => respond r .notFound s
      | some p => respondOk r (locateFields s i p) s

end Sys2Proof.Machine
end

