-- ==== Sys2Proof/Machine/LotRequests.lean ====
section
/-! DEFINITION. The requests that change the lot state (R158 to R162) and the soft reset (R169): the handler of each, and
its command. -/

namespace Sys2Proof.Machine

/-! ## LOT START (R158) -/

/-- R158, R39: a table counts as written when every one of its entries is. -/
def allWritten (v : Vector (Option α) n) : Bool := v.toList.all Option.isSome

/-- R158: the reason LOT START is refused for, the first check that fails. -/
def startObstacle (s : State) : Option Byte :=
  if !s.nodeWritten then some (byte TableId.node.num)
  else if !allWritten s.siteGeometry then some (byte TableId.siteGeometry.num)
  else if !allWritten s.deck then some (byte TableId.deck.num)
  else if !allWritten s.nozzleTable then some (byte TableId.nozzle.num)
  else if !allWritten s.motion then some (byte TableId.motion.num)
  else if s.lotTable.isNone then some (byte TableId.lot.num)
  else if s.serviceList.isEmpty then some (byte TableId.serviceList.num)
  else if s.sockets.toList.all fun x => x.state == .off then some 0x80
  else none

/-- R158: the records a lot starts afresh with. -/
def clearForLot (s : State) : State :=
  zeroPointers
    { s with
      counters := .zero
      lotClock := 0
      bins := mapVec (fun b => { b with blocked := false }) s.bins
      remembered := none }

/-- R119, R141, R143: the entry into RUN or DRAIN is a grant point of both heads and a check of a due yield. -/
def openPoints (s : State) : State := { s with points := { grant := ⟨true, true⟩, yieldCheck := ⟨true, true⟩ } }

/-- R155, R59, R97, R119: the entry into RUN or DRAIN is handed to the blocks. -/
def enterActive (new : LotState) (s : State) : State := openPoints (opportunityBoth (updateGroups (changeLot new s)))

/-- LOT START (R158). The reason byte of STATE goes with the checks of R158; STATE outside IDLE carries none (DESIGN CHOICE,
log 32). -/
def lotStartRequest (r : Request) : State → State :=
  fun s => takeRequest r r.fields.isEmpty (s.lotState == .idle)
    (fun s =>
      match startObstacle s with
      | some reason => respondWith r .state 0 [reason] s
      | none => finish (respondOk r [] (enterActive .run (clearForLot s)))) s

def execLotStart (r : Request) (s : State) : Host.Outcome State Fault Refusal :=
  .next (requestArrives r lotStartRequest (takeDue s))

/-! ## LOT PAUSE and LOT RESUME (R159) -/

/-- LOT PAUSE (R159). In PAUSE it changes nothing. -/
def lotPauseRequest (r : Request) : State → State :=
  fun s => takeRequest r r.fields.isEmpty s.lotState.working
    (fun s =>
      if s.lotState = .pause then respondOk r [] s
      else respondOk r [] (changeLot .pause { s with remembered := some s.lotState })) s

def execLotPause (r : Request) (s : State) : Host.Outcome State Fault Refusal :=
  .next (requestArrives r lotPauseRequest (takeDue s))

/-- R159: the state LOT RESUME returns to. -/
def resumeState (s : State) : LotState := s.remembered.getD .run

/-- LOT RESUME (R159). -/
def lotResumeRequest (r : Request) : State → State :=
  fun s => takeRequest r r.fields.isEmpty (s.lotState == .pause)
    (fun s => finish (respondOk r [] (enterActive (resumeState s) { s with remembered := none }))) s

def execLotResume (r : Request) (s : State) : Host.Outcome State Fault Refusal :=
  .next (requestArrives r lotResumeRequest (takeDue s))

/-! ## LOT DRAIN (R160) -/

/-- R160, R163: the answer to LOT DRAIN when a new ticket is needed. -/
def drainTicket (r : Request) (s : State) : State :=
  respondTicket r (newTicket s) (takeTicket codeLotDrain .lot s)

/-- R160: LOT DRAIN in RUN. The expiries that its grant points make at once come behind the response (R149). -/
def drainFromRun (r : Request) (s : State) : State :=
  if completionsFull s then respondListFull r s
  else
    let s := settle (enterActive .drain (convertAll s))
    if drainCondition s then respondOk r [] s else takeAtOnce (drainTicket r s)

/-- R160: LOT DRAIN in DRAIN or in a PAUSE entered from DRAIN. -/
def drainAgain (r : Request) (s : State) : State :=
  match ticketFor codeLotDrain .lot s with
  | some t => respondTicket r t s
  | none =>
    if drainCondition s then respondOk r [] s
    else if completionsFull s then respondListFull r s
    else drainTicket r s

/-- LOT DRAIN (R160). -/
def lotDrainRequest (r : Request) : State → State :=
  fun s => takeRequest r r.fields.isEmpty (s.lotState == .run || draining s)
    (fun s => if s.lotState = .run then drainFromRun r s else drainAgain r s) s

def execLotDrain (r : Request) (s : State) : Host.Outcome State Fault Refusal :=
  .next (requestArrives r lotDrainRequest (takeDue s))

/-! ## LOT END (R161) -/

/-- R38: one input slot is left empty, its device counted as returned. -/
def returnSlot (s : State) (i : Fin 8) : State :=
  let s :=
    if s.inputs[i].record.isSome then
      (releaseAt (.input i) s).modCounters fun c => { c with returned := satSucc c.returned }
    else s
  s.modInput i fun x => { x with taken := none }

/-- R38, log 36: LOT END leaves the part table empty. A complete drain can have left a device on a BLOCKED nozzle (log 28); it
leaves custody too and is counted as removed (DESIGN CHOICE), and the mark stays until a READY reports the nozzle absent
(R117). -/
def removeFromNozzles (h : Head) (s : State) : State := (List.finRange 4).foldl (fun s n => removeFromNozzle h n s) s

/-- R38: every device still in custody leaves it. -/
def emptyCustody (s : State) : State :=
  removeFromNozzles .east (removeFromNozzles .west ((List.finRange 8).foldl returnSlot s))

/-- R134: a READY head is sent to its park position, and the PARK is resolved as done as soon as its MOVE ORDER is
produced. -/
def parkHead (h : Head) (s : State) : State :=
  if (s.head h).state = .ready then
    let tag := nextTag (s.head h)
    let o := { newOrder .park none none none none .lotEnd with tag := tag }
    let c := (o, resolve s h o (lastTarget (s.head h)))
    setKnown h (s.parkPos h) (leaveQueue h tag (issueOrder h c (enqueue h o s)))
  else s

/-- R144: the base zone a parked head takes. -/
def parkZone (h : Head) (s : State) : Nat :=
  let z := zoneOf (s.parkPos h).x
  if (s.head h.other).state = .ready then z else clippedZone h z s

/-- R144: a parked head holds its base zone alone. -/
def holdPark (h : Head) (zone : Nat) (s : State) : State :=
  if (s.head h).state = .ready then
    s.modHead h fun x => { x with base := some zone, holdings := ⟨zone, zone⟩ }
  else s

/-- R134, R144: both heads are parked at the end of the lot. -/
def parkHeads (s : State) : State :=
  let s := parkHead .east (parkHead .west s)
  holdPark .east (parkZone .east s) (holdPark .west (parkZone .west s) s)

/-- LOT END (R161). -/
def lotEndRequest (r : Request) : State → State :=
  fun s => takeRequest r r.fields.isEmpty (s.lotState == .drain && drainCondition s)
    (fun s => respondOk r [] (changeLot .idle (parkHeads (emptyCustody s)))) s

def execLotEnd (r : Request) (s : State) : Host.Outcome State Fault Refusal :=
  .next (requestArrives r lotEndRequest (takeDue s))

/-! ## Bypass (R162) -/

/-- BYPASS ENTER (R162). -/
def bypassEnterRequest (r : Request) : State → State :=
  fun s => takeRequest r r.fields.isEmpty (s.lotState == .idle)
    (fun s => respondOk r [] (changeLot .bypass s)) s

def execBypassEnter (r : Request) (s : State) : Host.Outcome State Fault Refusal :=
  .next (requestArrives r bypassEnterRequest (takeDue s))

/-- BYPASS EXIT (R162). -/
def bypassExitRequest (r : Request) : State → State :=
  fun s => takeRequest r r.fields.isEmpty (s.lotState == .bypass)
    (fun s => respondOk r [] (changeLot .idle s)) s

def execBypassExit (r : Request) (s : State) : Host.Outcome State Fault Refusal :=
  .next (requestArrives r bypassExitRequest (takeDue s))

/-! ## RESET (R169) -/

/-- R19: a port after the soft reset; the frame in transmission goes on. -/
def PortState.cleared (x : PortState) : PortState := { PortState.initial with sending := x.sending }

/-- R75: a socket after the soft reset. -/
def resetSocket (g : Option (Option SiteGeometry)) : Socket :=
  if g.join.isSome then { Socket.initial with state := .empty } else .initial

/-- R169: every block's state after the soft reset. The tables, the mask, the own address, the tick in progress (R154)
and the waiting commands are kept. -/
def softReset (s : State) : State :=
  { s with
    upstream := s.upstream.cleared
    downstream := s.downstream.cleared
    parts := Vector.replicate 96 none
    inputs := Vector.replicate 8 .initial
    retests := Vector.replicate 8 .initial
    sockets := mapVec resetSocket s.siteGeometry
    groups := Vector.replicate 16 .initial
    bins := Vector.replicate 16 .initial
    heads := ⟨.initial .west, .initial .east⟩
    plans := []
    points := .none
    timers := .initial
    lotClock := 0
    lotState := .idle
    remembered := none
    completions := []
    ticketCounter := 0
    slotWanted := false
    cursors := Vector.replicate 11 0
    events := Vector.replicate 21 .initial
    counters := .zero }

/-- RESET (R169): the response, then one COMPLETION for each cancelled ticket, oldest first. -/
def resetRequest (r : Request) : State → State :=
  fun s => takeRequest r r.fields.isEmpty true
    (fun s =>
      s.completions.foldl (fun s' c => produceCompletion c .cancelled s')
        (respondOk r [byte s.completions.length] (softReset s))) s

def execReset (r : Request) (s : State) : Host.Outcome State Fault Refusal :=
  .next (requestArrives r resetRequest (takeDue s))

end Sys2Proof.Machine
end

