-- ==== Sys2Proof/Machine/RecordRequests.lean ====
section
/-! DEFINITION. The requests on tables, status and events: TABLE WRITE, TABLE READ, CURSOR RESET (R165 to R168), STATUS
READ (R176), EVENT ACK and EVENT MASK (R172, R174). -/

namespace Sys2Proof.Machine

/-- R157: the requests taken in every lot state but BYPASS. -/
def LotState.open (l : LotState) : Bool := !(l == .bypass)

/-! ## Tables -/

def tableWriteRequest (r : Request) : State → State :=
  fun s => takeRequest r (tableWriteFits r.fields) s.lotState.open (writeRequest r) s

/-- TABLE WRITE (R165, R166). -/
def execTableWrite (r : Request) (s : State) : Host.Outcome State Fault Refusal :=
  .next (requestArrives r tableWriteRequest (takeDue s))

def tableReadRequest (r : Request) : State → State :=
  fun s => takeRequest r (r.fields.length == 5) s.lotState.open (readRequest r) s

/-- TABLE READ (R168). -/
def execTableRead (r : Request) (s : State) : Host.Outcome State Fault Refusal :=
  .next (requestArrives r tableReadRequest (takeDue s))

def cursorResetRequest (r : Request) : State → State :=
  fun s => takeRequest r (r.fields.length == 1) s.lotState.open (cursorRequest r) s

/-- CURSOR RESET (R168). -/
def execCursorReset (r : Request) (s : State) : Host.Outcome State Fault Refusal :=
  .next (requestArrives r cursorResetRequest (takeDue s))

/-! ## Status -/

def statusReadRequest (r : Request) : State → State :=
  fun s => takeRequest r (r.fields.length == 7) true (statusRequest r) s

/-- STATUS READ (R176), taken in every lot state. -/
def execStatusRead (r : Request) (s : State) : Host.Outcome State Fault Refusal :=
  .next (requestArrives r statusReadRequest (takeDue s))

/-! ## Events -/

/-- R172, R174: a set of event kinds, or `none` when it names a kind above 20. -/
def readKinds (fields : List Byte) : Option (BitVec 21) :=
  let v := fieldAt fields 0 4
  if v < 2 ^ 21 then some (BitVec.ofNat 21 v) else none

/-- The kinds a set names, in ascending order. -/
def kindsOf (set : BitVec 21) : List (Fin 21) := (List.finRange 21).filter fun k => set.getLsbD k

/-- R174, R182: what the answer to EVENT ACK carries for one kind. -/
def ackItem (e : EventRecord) : List Byte := [flagByte e.pending] ++ optBytes 4 e.detail ++ leBytes 2 e.count

/-- R174: the named records are cleared. -/
def clearEvents (set : BitVec 21) (s : State) : State :=
  { s with events := (kindsOf set).foldl (fun v (k : Fin 21) => v.set k .initial) s.events }

/-- R174: EVENT ACK, carried out. -/
def ackEvents (r : Request) (s : State) : State :=
  match readKinds r.fields with
  | none => respondRange r 0 s
  | some set => respondOk r ((kindsOf set).flatMap fun k => ackItem s.events[k]) (clearEvents set s)

def eventAckRequest (r : Request) : State → State :=
  fun s => takeRequest r (r.fields.length == 4) s.lotState.open (ackEvents r) s

/-- EVENT ACK (R174). -/
def execEventAck (r : Request) (s : State) : Host.Outcome State Fault Refusal :=
  .next (requestArrives r eventAckRequest (takeDue s))

/-- The event kinds in their numbering (R171). -/
def EventKind.all : List EventKind :=
  [.linkIntegrity, .linkCongestion, .headProtocol, .pickMiss, .placeStuck, .headStopped, .orderTimeout, .siteTimeout,
    .lateReport, .unmappedResult, .socketDisabled, .retestOverflow, .trayFull, .binBlocked, .dupTag, .shuttleMismatch,
    .yieldPark, .partialStart, .inputStarved, .requestSlotFree, .accessRefused]

/-- R172, R173: the NOTICE of one kind that a new mask announces; one that a full queue discards raises
LINK_CONGESTION. -/
def announce (s : State) (k : EventKind) : State :=
  let lost := ownFull .upstream s
  let s := produceNotice k s
  if lost then raiseCongestion 2 s else s

/-- R172: the kinds whose bit goes from clear to set while their pending flag is set. -/
def newlyUnmasked (old new : BitVec 21) (s : State) : List EventKind :=
  EventKind.all.filter fun k => !old.getLsbD k.num && new.getLsbD k.num && s.events[k.num].pending

/-- R172: EVENT MASK, carried out. The kinds to announce are those pending when the mask is replaced. -/
def maskEvents (r : Request) (s : State) : State :=
  match readKinds r.fields with
  | none => respondRange r 0 s
  | some mask =>
    (newlyUnmasked s.eventMask mask s).foldl announce (respondOk r [] { s with eventMask := mask })

def eventMaskRequest (r : Request) : State → State :=
  fun s => takeRequest r (r.fields.length == 4) s.lotState.open (maskEvents r) s

/-- EVENT MASK (R172). -/
def execEventMask (r : Request) (s : State) : Host.Outcome State Fault Refusal :=
  .next (requestArrives r eventMaskRequest (takeDue s))

end Sys2Proof.Machine
end

