-- ==== Sys2Proof/Machine/DeckRequests.lean ====
section
/-! DEFINITION. The requests on the deck: sockets (R72 to R74), trays (R90, R91), head recovery (R130), PART PURGE and
LOCATE (R35, R36). -/

namespace Sys2Proof.Machine

/-! ## Sockets (R72 to R74) -/

/-- The socket requests' check of their one field: a socket above 63 is answered RANGE with index 0. -/
def withSocket (r : Request) (act : Fin 64 → State → State) (s : State) : State :=
  match finOf 64 (fieldAt r.fields 0 1) with
  | none => respondRange r 0 s
  | some i => act i s

/-- R72: SOCKET ENABLE, carried out. -/
def enableSocket (r : Request) (i : Fin 64) (s : State) : State :=
  if s.sockets[i].state = .off then
    if (s.geometry i).isSome then respondOk r [] (enterEmpty i s) else respond r .state s
  else if s.sockets[i].pendingDisable.isSome then respond r .busy s
  else respondOk r [] s

def socketEnableRequest (r : Request) : State → State :=
  fun s => takeRequest r (r.fields.length == 1) s.lotState.open (withSocket r (enableSocket r)) s

/-- SOCKET ENABLE (R72). -/
def execSocketEnable (r : Request) (s : State) : Host.Outcome State Fault Refusal :=
  .next (requestArrives r socketEnableRequest (takeDue s))

/-- R73: the socket is reserved by a plan whose PLACE into it is PENDING or WAITING_ZONE. -/
def placePending (s : State) (i : Fin 64) : Bool :=
  s.sockets[i].plan.isSome && (s.heads.west.queue ++ s.heads.east.queue).any fun o =>
    o.plan == s.sockets[i].plan && o.action == .place && o.location == some (.socket i) && o.isPending

/-- R73: the conditions under which a disable ends at once. -/
def disableAtOnce (s : State) (i : Fin 64) : Bool :=
  s.sockets[i].state == .empty && (s.sockets[i].plan.isNone || placePending s i)

/-- R73, R71: pending-disable is set by the request unless it is set already. -/
def requestDisable (i : Fin 64) (s : State) : State :=
  if s.sockets[i].pendingDisable.isSome then s else setPendingDisable i .request s

/-- R73: SOCKET DISABLE, carried out. -/
def disableSocket (r : Request) (i : Fin 64) (s : State) : State :=
  if s.sockets[i].state = .off then respondOk r [] s
  else if disableAtOnce s i then finish (respondOk r [] (setPendingDisable i .request s))
  else
    match ticketFor codeSocketDisable (.socket i) s with
    | some t => respondTicket r t s
    | none =>
      if completionsFull s then respondListFull r s
      else finish (respondTicket r (newTicket s) (requestDisable i (takeTicket codeSocketDisable (.socket i) s)))

def socketDisableRequest (r : Request) : State → State :=
  fun s => takeRequest r (r.fields.length == 1) s.lotState.open (withSocket r (disableSocket r)) s

/-- SOCKET DISABLE (R73). -/
def execSocketDisable (r : Request) (s : State) : Host.Outcome State Fault Refusal :=
  .next (requestArrives r socketDisableRequest (takeDue s))

/-- R74: SOCKET CLEAR, carried out. -/
def clearSocket (r : Request) (i : Fin 64) (s : State) : State :=
  respondOk r [] (s.modSocket i fun x => { x with faults := .none, faultCount := 0 })

def socketClearRequest (r : Request) : State → State :=
  fun s => takeRequest r (r.fields.length == 1) s.lotState.open (withSocket r (clearSocket r)) s

/-- SOCKET CLEAR (R74). -/
def execSocketClear (r : Request) (s : State) : Host.Outcome State Fault Refusal :=
  .next (requestArrives r socketClearRequest (takeDue s))

/-! ## Trays (R90, R91) -/

/-- The tray requests' check of their first two fields. -/
def withTray (r : Request) (act : Fin 16 → TrayId → State → State) (s : State) : State :=
  match finOf 16 (fieldAt r.fields 0 1), TrayId.ofNum (fieldAt r.fields 1 1) with
  | some b, some t => act b t s
  | _, _ => respondRange r 0 s

/-- R182, R47: the geometry of a TRAY READY; `none` when its order is not one of the two. -/
def readTray (fields : List Byte) : Option TrayGeometry :=
  let geometry (order : FillOrder) : TrayGeometry :=
    { ox := fieldAt fields 2 4, oy := fieldAt fields 6 4, columns := fieldAt fields 10 1, rows := fieldAt fields 11 1,
      px := fieldAt fields 12 2, py := fieldAt fields 14 2, order := order }
  if fieldAt fields 16 1 = 0 then some (geometry .row)
  else if fieldAt fields 16 1 = 1 then some (geometry .serpentine)
  else none

/-- R90: a tray that has just become READY becomes the active tray of a bin that has none. -/
def activateTray (b : Fin 16) (t : TrayId) (s : State) : State :=
  if s.bins[b].active = none then
    opportunityBoth ((s.modTray b t fun x => { x with state := .active }).modBin b fun x =>
      { x with active := some t, blocked := false })
  else s

/-- R90: TRAY READY, carried out in the manual's order of checks. -/
def declareTray (r : Request) (b : Fin 16) (t : TrayId) (s : State) : State :=
  let x := (s.bins[b]).tray t
  if x.state = .absent ∨ x.state = .full then
    match readTray r.fields with
    | none => respondRange r 0 s
    | some g =>
      match trayFailure s g with
      | some i => respondRange r i s
      | none =>
        respondOk r []
          (activateTray b t (s.modTray b t fun _ =>
            { state := .ready, geometry := some g, allocated := 0, placed := 0, holes := 0 }))
  else respond r .state s

def trayReadyRequest (r : Request) : State → State :=
  fun s => takeRequest r (r.fields.length == 17) s.lotState.open (withTray r (declareTray r)) s

/-- TRAY READY (R90). -/
def execTrayReady (r : Request) (s : State) : Host.Outcome State Fault Refusal :=
  .next (requestArrives r trayReadyRequest (takeDue s))

/-- R91: a tray becomes ABSENT and loses its geometry and counts. -/
def removeTray (b : Fin 16) (t : TrayId) (s : State) : State := s.modTray b t fun _ => .initial

/-- R91: TRAY WITHDRAW, carried out. -/
def withdrawTray (r : Request) (b : Fin 16) (t : TrayId) (s : State) : State :=
  let x := (s.bins[b]).tray t
  match x.state with
  | .absent => respond r .state s
  | .ready => respondOk r [] (removeTray b t s)
  | .full => respondOk r [] (removeTray b t s)
  | .active =>
    if x.outstanding = 0 then respondOk r [] (moveActive b t (removeTray b t s)) else respond r .busy s
  | .closing => respond r .busy s

def trayWithdrawRequest (r : Request) : State → State :=
  fun s => takeRequest r (r.fields.length == 2) s.lotState.open (withTray r (withdrawTray r)) s

/-- TRAY WITHDRAW (R91). -/
def execTrayWithdraw (r : Request) (s : State) : Host.Outcome State Fault Refusal :=
  .next (requestArrives r trayWithdrawRequest (takeDue s))

/-! ## HEAD RECOVER (R130) -/

/-- R4, R12: the NODE entry of a head's controller. -/
def controllerNode : Head → Fin 5
  | .west => 2
  | .east => 3

/-- R130, R138: an OFFLINE or STOPPED head enters RECOVERING, its ticket taken. -/
def beginRecovery (h : Head) (mode : Nat) (s : State) : State :=
  let s := produce .downstream (s.nodeAddress (controllerNode h)) kindHeadControl [byte mode] s
  let t := newTicket s
  let s := widenHoldings h (s.modHead h fun x => { x with state := .recovering, ticket := some t })
  takeTicket codeHeadRecover (.head h) (startTimer (.recover h) Config.recoverTicks s)

/-- R130: HEAD RECOVER for a head, by the head's state. -/
def recoverHead (r : Request) (h : Head) (mode : Nat) (s : State) : State :=
  match (s.head h).state with
  | .ready => respond r .state s
  | .recovering => respondTicket r ((s.head h).ticket.getD 0) s
  | _ =>
    if completionsFull s then respondListFull r s
    else finish (respondTicket r (newTicket s) (beginRecovery h mode s))

/-- R130: the two range checks of HEAD RECOVER. -/
def recoverChecked (r : Request) (s : State) : State :=
  match Head.ofNum (fieldAt r.fields 0 1) with
  | none => respondRange r 0 s
  | some h => if 1 < fieldAt r.fields 1 1 then respondRange r 1 s else recoverHead r h (fieldAt r.fields 1 1) s

def headRecoverRequest (r : Request) : State → State :=
  fun s => takeRequest r (r.fields.length == 2) s.lotState.working (recoverChecked r) s

/-- HEAD RECOVER (R130). -/
def execHeadRecover (r : Request) (s : State) : Host.Outcome State Fault Refusal :=
  .next (requestArrives r headRecoverRequest (takeDue s))

/-! ## PART PURGE and LOCATE (R35, R36) -/

/-- R35, R68: a device in this place may not be purged. -/
def purgeBarred (s : State) : Place → Bool
  | .socket i => s.sockets[i].state == .testing || s.sockets[i].state == .emptying
  | _ => false

/-- R68: a socket whose device has been purged. -/
def purgedSocket (i : Fin 64) (s : State) : State :=
  let was := s.sockets[i].state
  let s := if was = .soaking then cancelTimer (.soak i) s else s
  let s := enterEmpty i s
  if was = .ready then
    match groupOf s i with
    | some g => fillUpdate g s
    | none => s
  else s

/-- R35: the emptied place goes on. -/
def purgedPlace (p : Place) (s : State) : State :=
  match p with
  | .socket i => purgedSocket i s
  | .nozzle _ _ => s
  | .input _ => opportunityBoth s
  | .retest _ => opportunityBoth s

/-- R35: PART PURGE of a record in use. -/
def purgeRecord (r : Request) (i : Fin 96) (x : PartRecord) (s : State) : State :=
  if purgeBarred s x.place then respond r .state s
  else if x.plan.isSome then respond r .busy s
  else finish (respondOk r (byte i :: leBytes 4 x.tag) (purgedPlace x.place (countRemoved (releaseAt x.place s))))

/-- R35: PART PURGE, carried out in the manual's order of checks. -/
def purgeSelected (r : Request) (s : State) : State :=
  match readSelector r.fields with
  | none => respondRange r 0 s
  | some sel =>
    match selectRecord s sel with
    | none => respond r .notFound s
    | some i =>
      match s.parts[i] with
      | none => respond r .notFound s
      | some x => purgeRecord r i x s

def partPurgeRequest (r : Request) : State → State :=
  fun s => takeRequest r (r.fields.length == 5) s.lotState.open (purgeSelected r) s

/-- PART PURGE (R35). -/
def execPartPurge (r : Request) (s : State) : Host.Outcome State Fault Refusal :=
  .next (requestArrives r partPurgeRequest (takeDue s))

def locateHandler (r : Request) : State → State :=
  fun s => takeRequest r (r.fields.length == 5) s.lotState.open (locateRequest r) s

/-- LOCATE (R36). -/
def execLocate (r : Request) (s : State) : Host.Outcome State Fault Refusal :=
  .next (requestArrives r locateHandler (takeDue s))

end Sys2Proof.Machine
end

