-- ==== Sys2Proof/Machine/Arrivals.lean ====
section
/-! DEFINITION. The link unit's handling of an arriving frame (R1 to R9, R15, R16), the four arrival commands, and the
end of a transmission (R14). -/

namespace Sys2Proof.Machine

/-! ## Requests that arrive as frames (R7, R156) -/

/-- R182: the request unit's choice by request code; a code it does not know is answered UNKNOWN. -/
def requestByCode (code : Byte) (r : Request) (s : State) : State :=
  if code = codeLotStart then lotStartRequest r s
  else if code = codeLotPause then lotPauseRequest r s
  else if code = codeLotResume then lotResumeRequest r s
  else if code = codeLotDrain then lotDrainRequest r s
  else if code = codeLotEnd then lotEndRequest r s
  else if code = codeBypassEnter then bypassEnterRequest r s
  else if code = codeBypassExit then bypassExitRequest r s
  else if code = codeReset then resetRequest r s
  else if code = codeTableWrite then tableWriteRequest r s
  else if code = codeTableRead then tableReadRequest r s
  else if code = codeCursorReset then cursorResetRequest r s
  else if code = codeStatusRead then statusReadRequest r s
  else if code = codeEventAck then eventAckRequest r s
  else if code = codeEventMask then eventMaskRequest r s
  else if code = codeSocketEnable then socketEnableRequest r s
  else if code = codeSocketDisable then socketDisableRequest r s
  else if code = codeSocketClear then socketClearRequest r s
  else if code = codeTrayReady then trayReadyRequest r s
  else if code = codeTrayWithdraw then trayWithdrawRequest r s
  else if code = codeHeadRecover then headRecoverRequest r s
  else if code = codePartPurge then partPurgeRequest r s
  else if code = codeLocate then locateHandler r s
  else respond r .unknown s

/-- R182: the request that a MGMT REQUEST frame carries. -/
def Frame.request (f : Frame) : Request :=
  { source := f.source, correlator := f.correlator, flags := byteAt f.payload 1, fields := f.payload.drop 2 }

/-! ## Owned frames (R5, R6) -/

/-- The owner an owned frame goes to. -/
inductive Owner where
  | site
  | head (h : Head)
  | shuttle
deriving DecidableEq, Repr

/-- R5, R7: the lot state, the port, the kind and the source make a frame an owned one; its destination does not. -/
def ownerOf (p : Port) (f : Frame) (s : State) : Option Owner :=
  if s.lotState.working && p == .downstream && s.nodeWritten then
    if f.kind = kindSiteReport ∧ s.node[(1 : Fin 5)] = some f.source then some .site
    else if f.kind = kindHeadStatus ∧ s.node[(2 : Fin 5)] = some f.source then some (.head .west)
    else if f.kind = kindHeadStatus ∧ s.node[(3 : Fin 5)] = some f.source then some (.head .east)
    else if f.kind = kindShuttleReport ∧ s.node[(4 : Fin 5)] = some f.source then some .shuttle
    else none
  else none

/-- R63, R64, R15: a SITE REPORT is taken or ignored, and the frame as it goes on. The frame carries the disposition as R63
step 3 decided it: a conversion in step 4 (R71, R83) is carried by no frame (R80). -/
def siteDelivery (f : Frame) (s : State) : State × Frame :=
  match finOf 64 (fieldAt f.payload 0 1) with
  | none => (raiseEvent .lateReport (fieldAt f.payload 0 1) s, f)
  | some i =>
    if s.sockets[i].state = .testing then
      let code := byteAt f.payload 1
      let time := fieldAt f.payload 2 4
      (takeResult i code time s, { f with payload := annotate f.payload (dispositionAt (decideResult i code time s) i) })
    else (raiseEvent .lateReport i s, f)

/-- R6: an owned frame is handed to its owner; the frame as it goes on. -/
def deliver (o : Owner) (f : Frame) (s : State) : State × Frame :=
  match o with
  | .site => siteDelivery f s
  | .head h => (takeHeadStatus h f.payload s, f)
  | .shuttle => (takeShuttleReport f.payload s, f)

/-- R2, R3: a frame that fails its checks is discarded. -/
def failFrame (p : Port) (s : State) : State := raiseEvent .linkIntegrity p.num s

/-! ## Forwarding (R8, R9, R11) -/

/-- R8: a match field, `none` being ANY. -/
def matchField (rule : Option Byte) (b : Byte) : Bool := rule.isNone || rule == some b

/-- R8: a direction matches an arrival port. -/
def Direction.covers : Direction → Port → Bool
  | .up, .downstream => true
  | .down, .upstream => true
  | .both, _ => true
  | _, _ => false

/-- R8: an entry in use matches a frame. -/
def ForwardRule.covers (e : ForwardRule) (p : Port) (f : Frame) : Bool :=
  matchField e.source f.source && matchField e.destination f.destination && matchField e.kind f.kind &&
    e.direction.covers p

/-- R9: the action of the first matching entry. -/
def forwardAction (p : Port) (f : Frame) (s : State) : Option ForwardAction :=
  s.forwarding.toList.findSome? fun e =>
    match e.join with
    | some rule => if rule.covers p f then some rule.action else none
    | none => none

/-- R9: a frame offered for forwarding is forwarded. -/
def passes? (p : Port) (f : Frame) (s : State) : Bool :=
  match forwardAction p f s with
  | none => true
  | some .pass => true
  | some .drop => false
  | some .passInIdle => s.lotState == .idle

/-- R11: a forwarded frame joins the through queue of the opposite port, or is lost to a full queue. -/
def forward (p : Port) (f : Frame) (s : State) : State :=
  if throughFull p.other s then raiseCongestion p.other.num s else joinThrough p.other f s

/-- R9: a frame is offered for forwarding. -/
def offer (p : Port) (f : Frame) (s : State) : State := if passes? p f s then forward p f s else s

/-! ## Classification (R5, R7) -/

/-- R7: a frame addressed to the part. -/
def consume (p : Port) (f : Frame) (s : State) : State :=
  if f.kind = kindMgmtRequest then
    match p with
    | .downstream => s
    | .upstream =>
      if lengthFits f.kind f.payload.length then requestByCode (byteAt f.payload 0) f.request s else failFrame p s
  else
    match ownerOf p f s with
    | none => s
    | some o => if lengthFits f.kind f.payload.length then finish (deliver o f s).1 else failFrame p s

/-- R5 lines 3 and 4: a frame that is neither consumed nor carried through in BYPASS. -/
def carry (p : Port) (f : Frame) (s : State) : State :=
  match ownerOf p f s with
  | none => offer p f s
  | some o =>
    if lengthFits f.kind f.payload.length then
      let d := deliver o f s
      offer p d.2 (finish d.1)
    else failFrame p s

/-- R5: a frame that has passed R2 is classified and handled. -/
def classify (p : Port) (f : Frame) (s : State) : State :=
  if s.ownAddress = some f.destination then consume p f s
  else if s.lotState = .bypass then forward p f s
  else carry p f s

/-- R2: the check on the source field. -/
def sourceFits (f : Frame) (s : State) : Bool := !(f.source == broadcast) && !(s.ownAddress == some f.source)

/-- R1, R2, R18: the arrival of a run of bytes on a port. While RESET_N is low what a port receives is lost. -/
def arrive (p : Port) (bytes : List Byte) (s : State) : State :=
  if s.resetLow then s
  else
    match Frame.parse bytes with
    | none => failFrame p s
    | some f => if sourceFits f s then classify p f s else failFrame p s

/-! ## The commands -/

/-- FRAME_ARRIVAL (R1). -/
def execFrameArrival (p : Port) (bytes : List Byte) (s : State) : Host.Outcome State Fault Refusal :=
  .next (arrive p bytes (takeDue s))

/-- SITE_REPORT (R63): the arrival of a frame of kind SITE REPORT (log 23). -/
def execSiteReport (p : Port) (bytes : List Byte) (s : State) : Host.Outcome State Fault Refusal :=
  .next (arrive p bytes (takeDue s))

/-- HEAD_STATUS (R123): the arrival of a frame of kind HEAD STATUS (log 23). -/
def execHeadStatus (p : Port) (bytes : List Byte) (s : State) : Host.Outcome State Fault Refusal :=
  .next (arrive p bytes (takeDue s))

/-- SHUTTLE_REPORT (R27): the arrival of a frame of kind SHUTTLE REPORT (log 23). -/
def execShuttleReport (p : Port) (bytes : List Byte) (s : State) : Host.Outcome State Fault Refusal :=
  .next (arrive p bytes (takeDue s))

/-- R14: the frame on the wire has been sent, and the arbiter takes the next. -/
def endTransmission (p : Port) (s : State) : State :=
  if s.resetLow || (s.port p).sending.isNone then s
  else arbitrate p (s.setPort p { s.port p with sending := none })

/-- TRANSMISSION_END (R14). On a port that sends nothing it has no effect (log 5). -/
def execTransmissionEnd (p : Port) (s : State) : Host.Outcome State Fault Refusal :=
  .next (endTransmission p (takeDue s))

end Sys2Proof.Machine
end

