-- ==== Sys2Proof/Machine/Dispatch.lean ====
section
/-! DEFINITION. The dispatch of a command to its meaning: one arm per constructor of Instr. -/

namespace Sys2Proof.Machine

def exec (i : Instr) (s : State) : Host.Outcome State Fault Refusal :=
  match i with
  | .powerOn straps => Sys2Proof.Machine.execPowerOn straps s
  | .frameArrival p bytes => Sys2Proof.Machine.execFrameArrival p bytes s
  | .siteReport p bytes => Sys2Proof.Machine.execSiteReport p bytes s
  | .headStatus p bytes => Sys2Proof.Machine.execHeadStatus p bytes s
  | .shuttleReport p bytes => Sys2Proof.Machine.execShuttleReport p bytes s
  | .transmissionEnd p => Sys2Proof.Machine.execTransmissionEnd p s
  | .tick => Sys2Proof.Machine.execTick s
  | .soakExpiry k => Sys2Proof.Machine.execSoakExpiry k s
  | .watchdogExpiry k => Sys2Proof.Machine.execWatchdogExpiry k s
  | .fillWaitExpiry g => Sys2Proof.Machine.execFillWaitExpiry g s
  | .orderTimerExpiry h => Sys2Proof.Machine.execOrderTimerExpiry h s
  | .yieldTimerExpiry h => Sys2Proof.Machine.execYieldTimerExpiry h s
  | .recoverTimerExpiry h => Sys2Proof.Machine.execRecoverTimerExpiry h s
  | .planningPass h => Sys2Proof.Machine.execPlanningPass h s
  | .lotStart r => Sys2Proof.Machine.execLotStart r s
  | .lotPause r => Sys2Proof.Machine.execLotPause r s
  | .lotResume r => Sys2Proof.Machine.execLotResume r s
  | .lotDrain r => Sys2Proof.Machine.execLotDrain r s
  | .lotEnd r => Sys2Proof.Machine.execLotEnd r s
  | .bypassEnter r => Sys2Proof.Machine.execBypassEnter r s
  | .bypassExit r => Sys2Proof.Machine.execBypassExit r s
  | .reset r => Sys2Proof.Machine.execReset r s
  | .tableWrite r => Sys2Proof.Machine.execTableWrite r s
  | .tableRead r => Sys2Proof.Machine.execTableRead r s
  | .cursorReset r => Sys2Proof.Machine.execCursorReset r s
  | .statusRead r => Sys2Proof.Machine.execStatusRead r s
  | .eventAck r => Sys2Proof.Machine.execEventAck r s
  | .eventMask r => Sys2Proof.Machine.execEventMask r s
  | .socketEnable r => Sys2Proof.Machine.execSocketEnable r s
  | .socketDisable r => Sys2Proof.Machine.execSocketDisable r s
  | .socketClear r => Sys2Proof.Machine.execSocketClear r s
  | .trayReady r => Sys2Proof.Machine.execTrayReady r s
  | .trayWithdraw r => Sys2Proof.Machine.execTrayWithdraw r s
  | .headRecover r => Sys2Proof.Machine.execHeadRecover r s
  | .partPurge r => Sys2Proof.Machine.execPartPurge r s
  | .locate r => Sys2Proof.Machine.execLocate r s
  | .resetNAssertion => Sys2Proof.Machine.execResetNAssertion s

end Sys2Proof.Machine
end

