-- ==== Sys2Proof/Machine/Step.lean ====
section
/-! DEFINITION. One step of the block: the command at the front of the queue, or one REFCLK cycle when none waits. -/

namespace Sys2Proof.Machine

/-- The command at the front of the queue is taken on the rest of it; with an empty queue one REFCLK cycle passes
(R146; DESIGN CHOICE, log 1), which does nothing while RESET_N is low. -/
def step (s : State) : Host.Outcome State Fault Refusal :=
  match s.pending with
  | [] => .next (refclkCycle s)
  | c :: rest => exec c { s with pending := rest }

/-- The command a word spells is put at the front of the queue; a word that spells none leaves the state as it is
(log 1). -/
def State.withFetchWord (s : State) (nbits w : Nat) : State :=
  match decodeTableWord nbits w with
  | some c => { s with pending := c :: s.pending }
  | none => s

end Sys2Proof.Machine
end

