-- ==== Sys2Proof/WellFormed.lean ====
section
/-! DEFINITION. Which commands the manual's rows describe: a row of one frame kind carries a frame of that kind, and a
request comes from an address the cell link has and fits a frame. `exec` gives a meaning to every command, well formed
or not: a run of bytes of another kind is handled as what it is (R2, R5). -/

namespace Sys2Proof

/-- R179: byte 2 of a frame is its kind; a row of one kind carries it. -/
def carriesKind (kind : Byte) (bytes : List Byte) : Bool := bytes[2]? == some kind

/-- R179, R182: the request's source is a link address 0..30 and its fields fit a payload of 240 bytes. -/
def Request.wellFormed (r : Request) : Bool := decide (r.source.toNat ≤ 30 ∧ r.fields.length + 2 ≤ 240)

/-- The commands as the opcode table describes them. -/
def Instr.wellFormed : Instr → Bool
  | .powerOn _ => true
  | .frameArrival _ _ => true
  | .siteReport _ bytes => carriesKind 0x22 bytes
  | .headStatus _ bytes => carriesKind 0x32 bytes
  | .shuttleReport _ bytes => carriesKind 0x41 bytes
  | .transmissionEnd _ => true
  | .tick => true
  | .soakExpiry _ => true
  | .watchdogExpiry _ => true
  | .fillWaitExpiry _ => true
  | .orderTimerExpiry _ => true
  | .yieldTimerExpiry _ => true
  | .recoverTimerExpiry _ => true
  | .planningPass _ => true
  | .lotStart r => r.wellFormed
  | .lotPause r => r.wellFormed
  | .lotResume r => r.wellFormed
  | .lotDrain r => r.wellFormed
  | .lotEnd r => r.wellFormed
  | .bypassEnter r => r.wellFormed
  | .bypassExit r => r.wellFormed
  | .reset r => r.wellFormed
  | .tableWrite r => r.wellFormed
  | .tableRead r => r.wellFormed
  | .cursorReset r => r.wellFormed
  | .statusRead r => r.wellFormed
  | .eventAck r => r.wellFormed
  | .eventMask r => r.wellFormed
  | .socketEnable r => r.wellFormed
  | .socketDisable r => r.wellFormed
  | .socketClear r => r.wellFormed
  | .trayReady r => r.wellFormed
  | .trayWithdraw r => r.wellFormed
  | .headRecover r => r.wellFormed
  | .partPurge r => r.wellFormed
  | .locate r => r.wellFormed
  | .resetNAssertion => true

end Sys2Proof
end

