-- ==== Sys2Proof/Safety.lean ====
section
/-! DEFINITION. The terms claims use: when a request is heard, what a part of the state leaves aside, and the laws a
state of the device keeps (R10 to R12, R136, R148, R152, R163, R171). -/

namespace Sys2Proof.Machine

/-! ## When a request is heard -/

/-- R1, R2, R7, R18: a request reaches the request unit, and no expiry is due before it (R150). -/
def State.hears (s : State) (r : Request) : Bool :=
  !s.resetLow && (dueTimers s).isEmpty && s.ownAddress.isSome && !(r.source == broadcast) && !(s.ownAddress == some r.source) &&
    decide (r.fields.length + 2 ≤ 240)

/-- The four arrival commands, which carry the same bytes to the same handling (log 23). -/
def arrivals (p : Port) (bytes : List Byte) : List Instr :=
  [.frameArrival p bytes, .siteReport p bytes, .headStatus p bytes, .shuttleReport p bytes]

/-- R150: the expiry command of a timer. -/
def TimerId.expiryCommand : TimerId → Instr
  | .soak i => .soakExpiry i
  | .watchdog i => .watchdogExpiry i
  | .fill g => .fillWaitExpiry g
  | .order h => .orderTimerExpiry h
  | .yield h => .yieldTimerExpiry h
  | .recover h => .recoverTimerExpiry h

/-- R149, R150, log 3: the commands that find the expiries before them taken, every one but the expiries themselves,
POWER_ON and the assertion of RESET_N. -/
def afterExpiries (c : Instr) : Prop :=
  (∀ id : TimerId, c ≠ id.expiryCommand) ∧ (∀ a, c ≠ .powerOn a) ∧ c ≠ .resetNAssertion

/-- R182: the 22 request commands, each with its request code. -/
def requestCommands (r : Request) : List (Byte × Instr) :=
  [(codeLotStart, .lotStart r), (codeLotPause, .lotPause r), (codeLotResume, .lotResume r), (codeLotDrain, .lotDrain r),
    (codeLotEnd, .lotEnd r), (codeBypassEnter, .bypassEnter r), (codeBypassExit, .bypassExit r), (codeReset, .reset r),
    (codeTableWrite, .tableWrite r), (codeTableRead, .tableRead r), (codeCursorReset, .cursorReset r),
    (codeStatusRead, .statusRead r), (codeEventAck, .eventAck r), (codeEventMask, .eventMask r),
    (codeSocketEnable, .socketEnable r), (codeSocketDisable, .socketDisable r), (codeSocketClear, .socketClear r),
    (codeTrayReady, .trayReady r), (codeTrayWithdraw, .trayWithdraw r), (codeHeadRecover, .headRecover r),
    (codePartPurge, .partPurge r), (codeLocate, .locate r)]

/-- R2: a run of bytes that arrives on a port as frame `f` and passes the checks; no expiry is due before it (R150). -/
def State.takes (s : State) (bytes : List Byte) (f : Frame) : Prop :=
  s.resetLow = false ∧ dueTimers s = [] ∧ Frame.parse bytes = some f ∧ f.source ≠ broadcast ∧ s.ownAddress ≠ some f.source

/-- R5 line 3: the lot state, the port and the node table let a frame of an owned kind be owned; `node` is the NODE
entry that must name its source. -/
def State.owned (s : State) (p : Port) (f : Frame) (kind : Byte) (node : Fin 5) : Prop :=
  s.lotState.working = true ∧ p = .downstream ∧ s.nodeWritten = true ∧ f.kind = kind ∧ s.node[node] = some f.source

/-- R5 line 3: a frame is an owned frame. -/
def State.ownsFrame (s : State) (p : Port) (f : Frame) : Prop :=
  s.owned p f kindSiteReport 1 ∨ s.owned p f kindHeadStatus 2 ∨ s.owned p f kindHeadStatus 3 ∨
    s.owned p f kindShuttleReport 4

/-- R30: the custody place a location is; a pocket is none. -/
def Location.custody : Location → Option Place
  | .socket i => some (.socket i)
  | .input i => some (.input i)
  | .retest r => some (.retest r)
  | .pocket _ _ _ => none

/-! ## What a frame leaves aside -/

/-- The state without what producing a frame or raising an event may change: the two ports, the event records, and the
model's count of free values drawn. -/
def State.offLink (s : State) : State :=
  { s with
    upstream := .initial
    downstream := .initial
    events := Vector.replicate 21 .initial
    draws := 0 }

/-- The state without what granting orders at the end of a command and re-evaluating the drain may change as well:
heads, sockets, timers, the completion list and the model's marks of what is open (log 7). -/
def State.offGrant (s : State) : State :=
  { s.offLink with
    heads := ⟨.initial .west, .initial .east⟩
    sockets := Vector.replicate 64 .initial
    points := .none
    timers := .initial
    completions := []
    slotWanted := false }

/-! ## What the planner chooses (R99 to R102) -/

/-- R99: a nozzle holds no record, is not BLOCKED and has no reserving plan. -/
def State.nozzleFree (s : State) (h : Head) (n : Fin 4) : Prop :=
  (s.head h).nozzles[n].record = none ∧ (s.head h).nozzles[n].blocked = false ∧ (s.head h).nozzles[n].plan = none

/-- R99: the free nozzle of a head with the lowest number. -/
def State.lowestFree (s : State) (h : Head) (n : Fin 4) : Prop := s.nozzleFree h n ∧ ∀ m, m < n → ¬s.nozzleFree h m

/-- R99: a device is held by nozzle `n` of a head, which is not BLOCKED, and its record has no plan. -/
def State.carries (s : State) (h : Head) (n : Fin 4) (k : Fin 96) (r : PartRecord) : Prop :=
  (s.head h).nozzles[n].record = some k ∧ (s.head h).nozzles[n].blocked = false ∧ s.parts[k] = some r ∧ r.plan = none

/-- R99: the carried device taken for a socket. It is loadable there; RETEST goes before NONE, and among equals the
lowest-numbered nozzle. -/
def State.takenFor (s : State) (h : Head) (i : Fin 64) (n : Fin 4) (k : Fin 96) (r : PartRecord) : Prop :=
  s.carries h n k r ∧ loadable s r i = true ∧
  ∀ n' k' r', s.carries h n' k' r' → loadable s r' i = true → n' ≠ n →
    (r.disposition = .retest ∧ r'.disposition ≠ .retest) ∨
    ((r.disposition = .retest ↔ r'.disposition = .retest) ∧ n < n')

/-- R99: some device that the head carries is loadable into a socket. -/
def State.hasFor (s : State) (h : Head) (i : Fin 64) : Prop := ∃ n k r, s.carries h n k r ∧ loadable s r i = true

/-- R100: `pos` is the first position in scan order, from the head's service pointer round, whose socket meets a
condition; `i` is that socket. -/
def State.found (s : State) (h : Head) (test : Fin 64 → Prop) (pos : Nat) (i : Fin 64) : Prop :=
  ∃ k, k < s.serviceList.length ∧ pos = ((s.head h).pointer + k) % s.serviceList.length ∧
    s.serviceList[pos]? = some i ∧ test i ∧
    ∀ j, j < k → ∀ x, s.serviceList[((s.head h).pointer + j) % s.serviceList.length]? = some x → ¬test x

/-- R101: the condition of UNLOAD / EXCHANGE on a socket. -/
def State.canUnload (s : State) (h : Head) (i : Fin 64) : Prop :=
  servedBy s i h = true ∧ s.sockets[i].state = .tested ∧ s.sockets[i].plan = none

/-- R102: the condition of LOAD on a socket, but for the device. -/
def State.canLoad (s : State) (h : Head) (i : Fin 64) : Prop :=
  servedBy s i h = true ∧ s.sockets[i].state = .empty ∧ s.sockets[i].plan = none ∧ s.sockets[i].pendingDisable = none

/-- R106: a retest slot, or an input slot, offers a device to FETCH. -/
def State.retestOffers (s : State) (r : Fin 8) : Prop := s.retests[r].record ≠ none ∧ s.retests[r].plan = none
def State.inputOffers (s : State) (i : Fin 8) : Prop := s.inputs[i].record ≠ none ∧ s.inputs[i].plan = none

/-- R95: between two states the part records of the given devices take the reservation of a plan, and no other record
changes. -/
def State.reservesParts (s t : State) (p : Nat) (ks : List (Fin 96)) : Prop :=
  ∀ k : Fin 96, t.parts[k] = if k ∈ ks then s.parts[k].map (fun r => { r with plan := some p }) else s.parts[k]

/-! ## Table entries -/

/-- The state without the eleven tables and their cursors. -/
def State.offTables (s : State) : State :=
  { s with
    node := Vector.replicate 5 none
    siteGeometry := Vector.replicate 64 none
    deck := Vector.replicate 18 none
    nozzleTable := Vector.replicate 8 none
    motion := Vector.replicate 2 none
    lotTable := none
    binMap := Vector.replicate 256 none
    binPolicy := Vector.replicate 16 none
    serviceList := []
    forwarding := Vector.replicate 32 none
    timebase := .initial
    cursors := Vector.replicate 11 0 }

/-- R165: an entry of a table passes its owner's test by itself; NODE and SERVICE_LIST have tests of the whole write. -/
def entryPasses (t : TableId) (s : State) (i : Nat) (e : List Byte) : Bool :=
  match t with
  | .siteGeometry => (checkSite s e).isSome
  | .deck => (checkDeck s i e).isSome
  | .nozzle => (checkNozzle s i e).isSome
  | .motion => (readMotion e).isSome
  | .lot => (readLot e).isSome
  | .binMap => (readBinEntry e).isSome
  | .binPolicy => (readPolicy i e).isSome
  | .forwarding => (readForward e).isSome
  | .timebase => (readTimeBase e).isSome
  | .node => true
  | .serviceList => true

/-- R165, R183: entry `i` of a table holds what the bytes `e` say, and is written. -/
def State.holdsEntry (s : State) (t : TableId) (i : Nat) (e : List Byte) : Prop :=
  match t with
  | .node => s.node[i]? = some (some (byteAt e 0))
  | .siteGeometry => s.siteGeometry[i]? = some (readSite e)
  | .deck => s.deck[i]? = some (readDeck e)
  | .nozzle => s.nozzleTable[i]? = some (readOffset e)
  | .motion => s.motion[i]? = some (readMotion e)
  | .lot => s.lotTable = readLot e
  | .binMap => s.binMap[i]? = readBinEntry e
  | .binPolicy => s.binPolicy[i]? = some (readPolicy i e)
  | .forwarding => s.forwarding[i]? = some (readForward e)
  | .timebase => some s.timebase = readTimeBase e
  | .serviceList => True

/-! ## The laws of the link (R10 to R12) -/

def PortState.bounded (x : PortState) : Prop :=
  x.through.length ≤ Config.throughCapacity ∧ x.own.length ≤ Config.ownCapacity

/-- R11, R12: no queue of the link holds more than its capacity. -/
def State.linkBounded (s : State) : Prop := s.upstream.bounded ∧ s.downstream.bounded

/-! ## The law of the completion list (R163) -/

/-- R163: at most 4 entries, with pairwise different tickets in 1..255, and a ticket counter in 0..255. -/
def State.ticketsLawful (s : State) : Prop :=
  s.completions.length ≤ Config.completionCapacity ∧ (s.completions.map Completion.ticket).Nodup ∧
    (∀ c ∈ s.completions, 1 ≤ c.ticket ∧ c.ticket ≤ 255) ∧ s.ticketCounter ≤ 255

/-! ## The law of the timers (R148, R152) -/

/-- R148, R152: a free-running timer is never HELD, and a gated timer is RUNNING only in RUN and DRAIN and HELD only
outside them. -/
def State.timersLawful (s : State) : Prop :=
  ∀ id n,
    (id.gated = false → s.timer id ≠ .held n) ∧
    (id.gated = true → s.lotState.active = true → s.timer id ≠ .held n) ∧
    (id.gated = true → s.lotState.active = false → s.timer id ≠ .running n)

/-! ## The law of the event records (R171) -/

/-- R171: the first detail is absent and the count 0 while the pending flag is clear; a pending kind has a first detail
and a count of 1..65,535. -/
def EventRecord.lawful (e : EventRecord) : Prop :=
  (e.pending = false → e.detail = none ∧ e.count = 0) ∧
  (e.pending = true → e.detail.isSome = true ∧ 1 ≤ e.count ∧ e.count ≤ Config.occurrenceMax)

def State.eventsLawful (s : State) : Prop := ∀ k : Fin 21, s.events[k].lawful

/-! ## The laws of custody and of the tests (R21, R22, R57) -/

/-- R21, R22: a record that a place holds is in use and names that place, so no two places hold one record; and the tags of
the records in use are pairwise different. -/
def State.custodyLawful (s : State) : Prop :=
  (∀ p k, s.recordAt p = some k → ∃ r, s.parts[k] = some r ∧ r.place = p) ∧
  ∀ (j k : Fin 96) (q r : PartRecord), s.parts[j] = some q → s.parts[k] = some r → q.tag = r.tag → j = k

/-- R57, R54: a TESTING socket has its watchdog started and a SOAKING one its soak timer. -/
def State.testsTimed (s : State) : Prop :=
  ∀ i : Fin 64, (s.sockets[i].state = .testing → s.timer (.watchdog i) ≠ .clear) ∧
    (s.sockets[i].state = .soaking → s.timer (.soak i) ≠ .clear)

/-! ## The law of the order queues (R113 to R115) -/

/-- R114, R115: a queue holds at most 8 orders, at most 5 of them from plans and at most 2 granted, with pairwise different
tags in 1..255; a PARK is granted and stands first; and a READY head has no UNKNOWN order. -/
def HeadRecord.queueLawful (x : HeadRecord) : Prop :=
  x.queue.length ≤ 8 ∧ (x.queue.filter Order.isGranted).length ≤ 2 ∧
  (x.queue.filter fun o => !(o.action == .park)).length ≤ 5 ∧
  (x.queue.map Order.tag).Nodup ∧ (∀ o ∈ x.queue, 1 ≤ o.tag ∧ o.tag ≤ 255) ∧ x.tagCounter ≤ 255 ∧
  (∀ i o, x.queue[i]? = some o → o.action = .park → i = 0 ∧ o.isGranted = true) ∧
  (x.state = .ready → ∀ o ∈ x.queue, o.state ≠ .unknown)

def State.queuesLawful (s : State) : Prop := ∀ h, (s.head h).queueLawful

/-! ## The law of the trays (R86) -/

/-- How many queued orders of a head hold a pocket of a tray. -/
def pocketsHeld (b : Fin 16) (y : TrayId) (x : HeadRecord) : Nat :=
  (x.queue.filter fun o => match o.location with
    | some (.pocket c z _) => decide (c = b ∧ z = y)
    | _ => false).length

/-- R86: placed and holes, with the pockets of queued orders, are at most the allocated count, and that at most the
capacity, which is at most 1,024; the counts and the geometry agree with the tray's state, and the bin's active tray is the
one that is ACTIVE. -/
def State.trayLawful (s : State) (b : Fin 16) (y : TrayId) : Prop :=
  let x := (s.bins[b]).tray y
  x.placed + x.holes + pocketsHeld b y s.heads.west + pocketsHeld b y s.heads.east ≤ x.allocated ∧
  x.allocated ≤ x.capacity ∧ (∀ g, x.geometry = some g → g.inRange = true) ∧
  (x.state = .absent → x.geometry = none ∧ x.allocated = 0) ∧
  (x.state ≠ .absent → ∃ g, x.geometry = some g) ∧
  (x.state = .ready → x.allocated = 0) ∧ (x.state = .active → x.allocated < x.capacity) ∧
  (x.state = .full → x.allocated = x.placed + x.holes) ∧ (x.state = .active ↔ s.bins[b].active = some y)

def State.traysLawful (s : State) : Prop := ∀ b y, s.trayLawful b y

/-! ## The clearance law of the rail (R136) -/

/-- R136: the West head's highest zone plus one is less than the East head's lowest zone. -/
def State.railClear (s : State) : Prop := clearance s.heads.west.holdings s.heads.east.holdings = true

/-- R122, R137, R138: what the holdings of a head stand for. A READY head's base zone and the spans of its OUTSTANDING
orders lie within them, with each order's target in its span, and it has no UNKNOWN order; a head that is not READY has no
base zone, no OUTSTANDING order and no order timer; and only a RECOVERING head has a recover timer. -/
def State.headHolds (s : State) (h : Head) : Prop :=
  let x := s.head h
  (x.state = .ready →
    (∃ b, x.base = some b ∧ x.holdings.lo ≤ b ∧ b ≤ x.holdings.hi) ∧ (∀ o ∈ x.queue, o.state ≠ .unknown) ∧
    ∀ o ∈ x.queue, o.state = .outstanding →
      ∃ r, o.resolved = some r ∧ x.holdings.lo ≤ r.span.lo ∧ r.span.lo ≤ zoneOf r.target.x ∧
        zoneOf r.target.x ≤ r.span.hi ∧ r.span.hi ≤ x.holdings.hi) ∧
  (x.state ≠ .ready → x.base = none ∧ (∀ o ∈ x.queue, o.state ≠ .outstanding) ∧ s.timer (.order h) = .clear) ∧
  (x.state ≠ .recovering → s.timer (.recover h) = .clear)

/-- R41: the park positions that are written lie in the zones of their heads' default halves, and both are written while a
lot is working (R158). -/
def State.parksLawful (s : State) : Prop :=
  (∀ p, s.deck[(16 : Fin 18)] = some p → zoneOf p.x ≤ 6) ∧
  (∀ p, s.deck[(17 : Fin 18)] = some p → 9 ≤ zoneOf p.x ∧ zoneOf p.x ≤ 15) ∧
  (s.lotState.working = true → s.deck[(16 : Fin 18)].isSome = true ∧ s.deck[(17 : Fin 18)].isSome = true)

/-- R136, R137, R138: the clearance law, with what keeps it. -/
def State.railLawful (s : State) : Prop := s.railClear ∧ (∀ h, s.headHolds h) ∧ s.parksLawful

end Sys2Proof.Machine
end

