-- ==== Sys2Proof/Certificates/Slice0/Obligations.lean ====
section
/-! DEFINITION. The statements for the provers: what the numbered rules of the manual say of the commands, of the blocks
behind them and of the laws every step keeps. -/

open Sys2Proof Sys2Proof.Machine

/-! ## Frames and table entries as bytes -/

/-- R2, R179, R180. Reading received bytes as a frame and sending a frame agree: the bytes that pass the checks of length
and trailer are exactly the wire images of the frames whose payload has at most 240 bytes. -/
def Obligations.FrameRoundTrip : Prop :=
  ∀ (bytes : List Byte) (f : Frame), Frame.parse bytes = some f ↔ bytes = f.wire ∧ f.payload.length ≤ 240

/-- R4, R166, R183 with the ranges of R8, R40 to R43, R77, R85, R147 and R167. What TABLE READ answers for an entry of each
of the eleven tables: its written flag, then its fields in the bytes R183 lays out; and an entry that lies in its ranges is
read back from those bytes. An entry of NODE and of SERVICE_LIST is one byte behind its written flag. TIMEBASE is always
written, and an absent SITE_GEOMETRY entry and a FORWARDING entry not in use are written. That an unwritten entry, the fields
of an absent or unused one and a position beyond the service list read as all-ones bytes is the model's choice (DEDUCED, log
14). -/
def Obligations.TableEntriesRoundTrip : Prop :=
  (∀ g : SiteGeometry, g.x ≤ 1599999 → g.y ≤ 599999 → readSite (siteBytes (some (some g))) = some (some g)) ∧
  readSite (siteBytes (some none)) = some none ∧
  (∀ p : Pos, p.x ≤ 1599999 → p.y ≤ 599999 → readDeck (posBytes (some p)) = some p) ∧
  (∀ o : Offset, -40000 ≤ o.dx → o.dx ≤ 40000 → -40000 ≤ o.dy → o.dy ≤ 40000 →
    readOffset (offsetBytes (some o)) = some o) ∧
  (∀ m : Motion, 50 ≤ m.vx → m.vx ≤ 5000 → 50 ≤ m.vy → m.vy ≤ 5000 → m.base ≤ 2000 → m.pick ≤ 2000 →
    m.place ≤ 2000 → readMotion (motionBytes (some m)) = some m) ∧
  (∀ t : LotTable, t.soak ≤ 600000 → t.fillWait ≤ 60000 → 100 ≤ t.testLimit → t.testLimit ≤ 600000 →
    t.retestLimit ≤ 2 → t.faultThreshold ≤ 15 → t.yieldDelay ≤ 10000 → readLot (lotBytes (some t)) = some t) ∧
  (∀ e : BinEntry, readBinEntry (binEntryBytes (some e)) = some (some e)) ∧
  (∀ (i : Nat) (p : BinPolicy), (p.policy = .divert → p.divertBin.val ≠ i) →
    readPolicy i (policyBytes (some p)) = some p) ∧
  (∀ e : ForwardRule, (∀ a, e.source = some a → a.toNat ≤ 30) → (∀ a, e.destination = some a → a.toNat ≤ 31) →
    readForward (forwardBytes (some (some e))) = some (some e)) ∧
  readForward (forwardBytes (some none)) = some none ∧
  (∀ t : TimeBase, 1 ≤ t.prescaler → t.prescaler ≤ 65535 → 1 ≤ t.divider → t.divider ≤ 65535 →
    readTimeBase (timeBaseBytes t) = some t) ∧
  (∀ g : SiteGeometry, siteBytes (some (some g)) =
    [1] ++ leBytes 4 g.x ++ leBytes 4 g.y ++ [byte g.group.val, byte ([Home.west, .east, .either].idxOf g.home)]) ∧
  siteBytes (some none) = 0 :: List.replicate 10 255 ∧
  (∀ p : Pos, posBytes (some p) = leBytes 4 p.x ++ leBytes 4 p.y) ∧
  (∀ o : Offset, offsetBytes (some o) =
    leBytes 4 (BitVec.ofInt 32 o.dx).toNat ++ leBytes 4 (BitVec.ofInt 32 o.dy).toNat) ∧
  (∀ m : Motion, motionBytes (some m) =
    leBytes 2 m.vx ++ leBytes 2 m.vy ++ leBytes 2 m.base ++ leBytes 2 m.pick ++ leBytes 2 m.place) ∧
  (∀ t : LotTable, lotBytes (some t) =
    leBytes 4 t.soak ++ leBytes 2 t.fillWait ++ leBytes 4 t.testLimit ++
      [t.timeoutCode, byte t.retestLimit, if t.groupAvoidance then 1 else 0, byte t.holdBin.val, byte t.faultThreshold,
        byte ([FaultMode.sticky, .perPart].idxOf t.faultMode)] ++ leBytes 2 t.yieldDelay) ∧
  (∀ e : BinEntry, binEntryBytes (some e) =
    [byte ([BinClass.bin, .retest, .hold].idxOf e.cls), byte e.bin.val, byte e.finalBin.val,
      if e.faultMark then 1 else 0]) ∧
  (∀ p : BinPolicy, policyBytes (some p) = [byte ([Policy.swap, .divert].idxOf p.policy), byte p.divertBin.val]) ∧
  (∀ e : ForwardRule, forwardBytes (some (some e)) =
    [1, e.source.getD 255, e.destination.getD 255, if e.kind = none then 1 else 0, e.kind.getD 255,
      byte ([Direction.up, .down, .both].idxOf e.direction),
      byte ([ForwardAction.pass, .drop, .passInIdle].idxOf e.action)]) ∧
  forwardBytes (some none) = 0 :: List.replicate 6 255 ∧
  (∀ t : TimeBase, timeBaseBytes t = leBytes 2 t.prescaler ++ leBytes 2 t.divider) ∧
  (∀ s : State,
    let shown (n : Nat) (value : Option (List Byte)) : List Byte :=
      match value with
      | some bytes => 1 :: bytes
      | none => 0 :: List.replicate n 255
    (∀ i : Fin 64, readEntry .siteGeometry i s = shown 11 (s.siteGeometry[i].map fun e => siteBytes (some e))) ∧
    (∀ i : Fin 18, readEntry .deck i s = shown 8 (s.deck[i].map fun e => posBytes (some e))) ∧
    (∀ i : Fin 8, readEntry .nozzle i s = shown 8 (s.nozzleTable[i].map fun e => offsetBytes (some e))) ∧
    (∀ i : Fin 2, readEntry .motion i s = shown 10 (s.motion[i].map fun e => motionBytes (some e))) ∧
    readEntry .lot 0 s = shown 18 (s.lotTable.map fun e => lotBytes (some e)) ∧
    (∀ i : Fin 256, readEntry .binMap i s = shown 4 (s.binMap[i].map fun e => binEntryBytes (some e))) ∧
    (∀ i : Fin 16, readEntry .binPolicy i s = shown 2 (s.binPolicy[i].map fun e => policyBytes (some e))) ∧
    (∀ i : Fin 32, readEntry .forwarding i s = shown 7 (s.forwarding[i].map fun e => forwardBytes (some e))) ∧
    readEntry .timebase 0 s = 1 :: timeBaseBytes s.timebase) ∧
  (∀ (s : State) (i : Fin 5) (a : Byte), s.node[i] = some a → readEntry .node i s = [1, a]) ∧
  (∀ (s : State) (i : Fin 5), s.node[i] = none → readEntry .node i s = [0, 255]) ∧
  (∀ (s : State) (k : Nat) (i : Fin 64), s.serviceList[k]? = some i → readEntry .serviceList k s = [1, byte i.val]) ∧
  (∀ (s : State) (k : Nat), s.serviceList.length ≤ k → readEntry .serviceList k s = [0, 255])

/-- R7, R156, R182. A MGMT REQUEST that arrives as a frame on the upstream port, addressed to the part, does what the
command of its request code does, for each of the 22 codes, and one with any other code is answered UNKNOWN. -/
def Obligations.RequestFramesReachTheirCommand : Prop :=
  ∀ (s : State) (r : Request) (own : Byte), s.hears r = true → s.ownAddress = some own →
    (∀ x ∈ requestCommands r, exec (.frameArrival .upstream (r.frame own x.1).wire) s = exec x.2 s) ∧
    ∀ code : Byte, (∀ x ∈ requestCommands r, x.1 ≠ code) →
      exec (.frameArrival .upstream (r.frame own code).wire) s = .next (respond r .unknown s)

/-! ## Checks, classification and forwarding -/

/-- R2, R3. Bytes that are no frame, or a frame whose source is 31 or the own address, and a frame for the request unit
or an owner whose payload length does not fit its kind, change nothing but the event record: LINK_INTEGRITY is raised
with the arrival port. -/
def Obligations.BadFramesDiscarded : Prop :=
  (∀ (s : State) (p : Port) (bytes : List Byte), s.resetLow = false → dueTimers s = [] →
    (∀ f, Frame.parse bytes = some f → f.source = broadcast ∨ s.ownAddress = some f.source) →
    ∀ c ∈ arrivals p bytes, exec c s = .next (raiseEvent .linkIntegrity p.num s)) ∧
  (∀ (s : State) (p : Port) (bytes : List Byte) (f : Frame), s.takes bytes f →
    lengthFits f.kind f.payload.length = false →
    (s.ownAddress = some f.destination ∧ f.kind = kindMgmtRequest ∧ p = .upstream ∨ s.ownsFrame p f) →
    ∀ c ∈ arrivals p bytes, exec c s = .next (raiseEvent .linkIntegrity p.num s))

/-- R5, R7, R16. The handling of a frame that passes the checks and is neither an upstream MGMT REQUEST to the part nor
an owned frame: addressed to the part it is ignored; in BYPASS any other frame is forwarded without the table; and
outside BYPASS it is offered for forwarding. -/
def Obligations.FramesClassified : Prop :=
  ∀ (s : State) (p : Port) (bytes : List Byte) (f : Frame), s.takes bytes f → ∀ c ∈ arrivals p bytes,
    (s.ownAddress = some f.destination → (f.kind = kindMgmtRequest → p = .downstream) → ¬ s.ownsFrame p f →
      exec c s = .next s) ∧
    (s.ownAddress ≠ some f.destination → s.lotState = .bypass → exec c s = .next (forward p f s)) ∧
    (s.ownAddress ≠ some f.destination → s.lotState ≠ .bypass → ¬ s.ownsFrame p f →
      exec c s = .next (offer p f s))

/-- R8, R9. The first entry of the forwarding table that is in use and matches decides: PASS forwards, DROP removes the
frame, PASS_IN_IDLE forwards it in IDLE alone; and a frame that no entry matches is forwarded. An entry matches a frame when
each of its source, destination and kind is ANY or that of the frame, and its direction is BOTH, UP for a frame from the
downstream port or DOWN for one from the upstream port. -/
def Obligations.FirstForwardingEntryDecides : Prop :=
  (∀ (s : State) (p : Port) (f : Frame) (i : Fin 32) (e : ForwardRule), s.forwarding[i] = some (some e) →
    e.covers p f = true → (∀ j : Fin 32, j < i → ∀ d, s.forwarding[j] = some (some d) → d.covers p f = false) →
    (e.action = .pass → offer p f s = forward p f s) ∧
    (e.action = .drop → offer p f s = s) ∧
    (e.action = .passInIdle → offer p f s = if s.lotState = .idle then forward p f s else s)) ∧
  (∀ (s : State) (p : Port) (f : Frame),
    (∀ (j : Fin 32) (d : ForwardRule), s.forwarding[j] = some (some d) → d.covers p f = false) →
    offer p f s = forward p f s) ∧
  ∀ (e : ForwardRule) (p : Port) (f : Frame), e.covers p f = true ↔
    (∀ a, e.source = some a → f.source = a) ∧ (∀ a, e.destination = some a → f.destination = a) ∧
    (∀ a, e.kind = some a → f.kind = a) ∧
    (e.direction = .both ∨ e.direction = .up ∧ p = .downstream ∨ e.direction = .down ∧ p = .upstream)

/-- R11. A forwarded frame joins the back of the through queue of the opposite port when that holds fewer than 8 frames;
an idle port with empty queues sends it at once; and with 8 frames waiting it is discarded and LINK_CONGESTION is raised
with that port's number as detail, which leaves the through queue of the sending port as it was. Nothing but the ports
and the event records changes, and the arrival port and the records only by that event. -/
def Obligations.ThroughQueueJoin : Prop :=
  ∀ (s : State) (p : Port) (f : Frame),
    let x := s.port p.other
    (x.through.length < 8 → x.sending.isSome = true →
      forward p f s = s.setPort p.other { x with through := x.through ++ [f] }) ∧
    (x.through = [] → x.own = [] → x.sending = none →
      forward p f s = s.setPort p.other { x with lastTaken := .through, sending := some (stamped p.other .through f s) }) ∧
    (x.through.length < 8 → (forward p f s).port p = s.port p ∧ (forward p f s).events = s.events) ∧
    (8 ≤ x.through.length → forward p f s = raiseCongestion p.other.num s) ∧
    (8 ≤ x.through.length → x.sending.isSome = true → ((forward p f s).port p.other).through = x.through) ∧
    (forward p f s).offLink = s.offLink

/-! ## Own frames, arbiters and the stamp -/

/-- R12, R13. An own frame other than a MGMT RESPONSE takes the sequence count of its direction as correlator, the own
address as source and attention 0, and the count advances by one; the frame joins the back of a busy port's own queue
that holds fewer than 32 frames, or is sent at once by a port with nothing waiting; with 32 frames waiting it is
discarded and LINK_CONGESTION raised with detail 2 upstream and 3 downstream, and the own queue of the sending port is as
it was. -/
def Obligations.OwnFrameProduced : Prop :=
  ∀ (s : State) (p : Port) (destination kind : Byte) (payload : List Byte),
    let x := s.port p
    let f : Frame :=
      ⟨destination, s.ownAddress.getD broadcast, kind, 0, x.sequence, payload⟩
    let t := produce p destination kind payload s
    (x.own.length < 32 → x.sending.isSome = true →
      t = s.setPort p { x with own := x.own ++ [f], sequence := x.sequence + 1 }) ∧
    (x.own = [] → x.through = [] → x.sending = none →
      (¬ (p = .upstream ∧ s.lotState = .bypass) → (t.port p).sending = some (stamped p .own f s)) ∧
        (∃ a : Byte, (a &&& 0x78) = 0 ∧ (t.port p).sending = some { f with attention := a }) ∧
        (t.port p).own = [] ∧ (t.port p).through = [] ∧ (t.port p).sequence = x.sequence + 1 ∧ (t.port p).lastTaken = .own) ∧
    (32 ≤ x.own.length →
      t = raiseCongestion (match p with | .upstream => 2 | .downstream => 3) (advanceSequence p s) ∧
        (x.sending.isSome = true → (t.port p).own = x.own)) ∧
    t.offLink = s.offLink

/-- R14. TRANSMISSION_END on a port that sends: with both queues empty the port becomes idle; with one queue occupied its
front is sent; with both, the front of the queue not taken from last; and the arbiter records the queue it took from. The
frame leaves its queue, and it is sent as R17 stamps it; of the attention field of an own upstream frame in BYPASS only bits 3
to 6 are known, which are 0 (R179, log 11). (No expiry is due before it, R150.) -/
def Obligations.TransmissionEndArbitrates : Prop :=
  ∀ (s : State) (p : Port), s.resetLow = false → dueTimers s = [] → (s.port p).sending.isSome = true →
    ∃ t, exec (.transmissionEnd p) s = .next t ∧ t.offLink = s.offLink ∧ t.port p.other = s.port p.other ∧
      t.events = s.events ∧
      (let x := s.port p
       let sendThrough (f : Frame) (rest : List Frame) : Prop :=
         t.port p = { x with through := rest, lastTaken := .through, sending := some (stamped p .through f s) }
       let sendOwn (f : Frame) (rest : List Frame) : Prop :=
         t.port p = { x with own := rest, lastTaken := .own, sending := (t.port p).sending } ∧
           (¬ (p = .upstream ∧ s.lotState = .bypass) → (t.port p).sending = some (stamped p .own f s)) ∧
           (p = .upstream → s.lotState = .bypass →
             ∃ a : Byte, (a &&& 0x78) = 0 ∧ (t.port p).sending = some { f with attention := a })
       match x.through, x.own with
       | [], [] => t.port p = { x with sending := none }
       | f :: rest, [] => sendThrough f rest
       | [], f :: rest => sendOwn f rest
       | f :: rest, g :: rest' => if x.lastTaken = .through then sendOwn g rest' else sendThrough f rest)

/-- R17, R179. Outside BYPASS the attention field of a frame sent upstream holds the lot state code in bits 0 to 2, the
attention mark, some event kind being pending and unmasked, in bit 7, and 0 in bits 3 to 6; its other fields are kept. A
frame sent downstream is not stamped, nor is a forwarded frame sent upstream in BYPASS (R16); of an own frame sent upstream in
BYPASS only bits 3 to 6 are known (log 11). -/
def Obligations.UpstreamStamp : Prop :=
  ∀ (s : State) (q : QueueKind) (f : Frame),
    stamped .downstream q f s = f ∧
    (s.lotState = .bypass → stamped .upstream .through f s = f ∧
      ∃ a : Byte, stamped .upstream .own f s = { f with attention := a } ∧ (a &&& 0x78) = 0) ∧
    (s.lotState ≠ .bypass → ∃ a : Byte,
      stamped .upstream q f s = { f with attention := a } ∧
      (a &&& 7).toNat = s.lotState.num ∧ (a &&& 0x78) = 0 ∧
      (a.getLsbD 7 = true ↔ ∃ k : Fin 21, s.events[k].pending = true ∧ s.eventMask.getLsbD k = true))

/-! ## Events -/

/-- R171. Raising an event of a kind other than LINK_CONGESTION: its count rises by one and stays at 65,535, its pending
flag is set, the first detail is taken when the flag was clear and kept otherwise; the records of all other kinds but
LINK_CONGESTION, and everything but the ports and the records, are as they were. -/
def Obligations.EventRecorded : Prop :=
  ∀ (s : State) (k : EventKind) (detail : Nat), k ≠ .linkCongestion →
    let t := raiseEvent k detail s
    t.events[k.num] =
      { pending := true
        detail := if s.events[k.num].pending then s.events[k.num].detail else some detail
        count := min (s.events[k.num].count + 1) 65535 } ∧
    (∀ j : Fin 21, j ≠ k.num → j ≠ EventKind.linkCongestion.num → t.events[j] = s.events[j]) ∧
    t.offLink = s.offLink

/-- R171, R173. A kind that is masked or already pending is recorded and announced by no frame. An unmasked kind whose flag
goes from clear to set is announced by one NOTICE with its number and the detail; when the upstream own queue holds 32 frames
that NOTICE is lost and LINK_CONGESTION is raised with detail 2. LINK_CONGESTION itself is recorded like any other kind:
masked or pending already, it produces no frame; unmasked and clear, it is announced by its own NOTICE, number 1 with the
detail, while the queue has room, and a full queue loses that NOTICE, which uses its sequence number and adds one occurrence
more. -/
def Obligations.NoticeProduced : Prop :=
  (∀ (s : State) (detail : Nat),
    let e := s.events[(1 : Fin 21)]
    let t := raiseCongestion detail s
    let once := min (e.count + 1) 65535
    t.events[(1 : Fin 21)] =
      { pending := true
        detail := if e.pending then e.detail else some detail
        count :=
          if e.pending = false ∧ s.eventMask.getLsbD 1 = true ∧ 32 ≤ s.upstream.own.length then min (once + 1) 65535
          else once } ∧
    (∀ j : Fin 21, j ≠ 1 → t.events[j] = s.events[j]) ∧ t.offLink = s.offLink ∧
    (e.pending = true ∨ s.eventMask.getLsbD 1 = false → t = noteEvent .linkCongestion detail s) ∧
    (e.pending = false → s.eventMask.getLsbD 1 = true →
      (s.upstream.own.length < 32 →
        t = produce .upstream (s.nodeAddress 0) 0x54 (1 :: leBytes 4 detail) (noteEvent .linkCongestion detail s)) ∧
      (32 ≤ s.upstream.own.length →
        t = noteEvent .linkCongestion 2 (advanceSequence .upstream (noteEvent .linkCongestion detail s))))) ∧
  ∀ (s : State) (k : EventKind) (detail : Nat), k ≠ .linkCongestion →
    ((s.events[k.num].pending = true ∨ s.eventMask.getLsbD k.num = false) →
      raiseEvent k detail s = noteEvent k detail s) ∧
    (s.events[k.num].pending = false → s.eventMask.getLsbD k.num = true →
      (s.upstream.own.length < 32 →
        raiseEvent k detail s =
          produce .upstream (s.nodeAddress 0) kindNotice (byte k.num :: leBytes 4 detail) (noteEvent k detail s)) ∧
      (32 ≤ s.upstream.own.length →
        raiseEvent k detail s = raiseCongestion 2 (advanceSequence .upstream (noteEvent k detail s))))

/-! ## Steps, ticks and RESET_N -/

/-- A step takes the command at the front of the queue and is its `exec` on the state with the rest of the queue. -/
def Obligations.StepRunsFrontCommand : Prop :=
  ∀ (s : State) (c : Instr) (rest : List Instr), s.pending = c :: rest → step s = exec c { s with pending := rest }

/-- R146, with the model's choice of log 1 that a step on an empty queue is one REFCLK cycle: from the start of a tick
with factors P and D, the first P × D - 1 steps change the two counting stages alone, and the last ends the tick. -/
def Obligations.IdleStepsMakeTicks : Prop :=
  ∀ s : State, s.pending = [] → s.resetLow = false → dueTimers s = [] → s.prescaleCount = 0 → s.divideCount = 0 →
    1 ≤ s.tickFactors.prescaler → 1 ≤ s.tickFactors.divider →
    (∀ k, k < s.tickFactors.prescaler * s.tickFactors.divider →
      ∃ p d, Host.Core.run core k s = .next { s with prescaleCount := p, divideCount := d }) ∧
    Host.Core.run core (s.tickFactors.prescaler * s.tickFactors.divider) s = exec .tick s

/-- R18 with R1, R37, R39, R75, R93, R112, R117, R135, R145, R154, R170 and R177. POWER_ON leaves every block at its
power-on value, and the own address is what the straps read unless they read 31. -/
def Obligations.PowerOnState : Prop :=
  ∀ (straps : BitVec 5) (s : State), ∃ t, exec (.powerOn straps) s = .next t ∧
    t.resetLow = false ∧ t.pending = s.pending ∧
    (straps = 31 → t.ownAddress = none) ∧ (straps ≠ 31 → t.ownAddress = some (byte straps.toNat)) ∧
    (∀ p, t.port p = { through := [], own := [], sequence := 0, lastTaken := .through, sending := none }) ∧
    (∀ i : Fin 5, t.node[i] = none) ∧ (∀ i : Fin 32, t.forwarding[i] = none) ∧
    (∀ i : Fin 96, t.parts[i] = none) ∧
    (∀ i : Fin 8, t.inputs[i] = ⟨none, none, none⟩ ∧ t.retests[i] = ⟨none, none⟩) ∧
    (∀ i : Fin 64, t.siteGeometry[i] = none) ∧ (∀ i : Fin 18, t.deck[i] = none) ∧
    (∀ i : Fin 8, t.nozzleTable[i] = none) ∧ (∀ i : Fin 2, t.motion[i] = none) ∧
    (∀ i : Fin 64, t.sockets[i] = ⟨.off, none, none, .none, 0, none, none⟩) ∧
    (∀ g : Fin 16, t.groups[g] = ⟨none⟩) ∧
    (∀ c : Fin 256, t.binMap[c] = none) ∧ (∀ b : Fin 16, t.binPolicy[b] = none) ∧
    (∀ b : Fin 16, t.bins[b].active = none ∧ t.bins[b].blocked = false ∧
      ∀ y, (t.bins[b].tray y) = ⟨.absent, none, 0, 0, 0⟩) ∧
    (∀ h, (t.head h).state = .offline ∧ (t.head h).known = none ∧ (t.head h).ticket = none ∧
      (t.head h).tagCounter = 0 ∧ (t.head h).queue = [] ∧ (t.head h).base = none ∧ (t.head h).yieldDue = false ∧
      (t.head h).pointer = 0 ∧ ∀ n : Fin 4, (t.head h).nozzles[n] = ⟨none, false, none⟩) ∧
    (t.head .west).holdings = ⟨0, 6⟩ ∧ (t.head .east).holdings = ⟨9, 15⟩ ∧
    t.plans = [] ∧ (∀ id, t.timer id = .clear) ∧ t.lotClock = 0 ∧ t.timebase = ⟨250, 100⟩ ∧
    t.tickFactors = ⟨250, 100⟩ ∧ t.prescaleCount = 0 ∧ t.divideCount = 0 ∧
    t.lotState = .idle ∧ t.remembered = none ∧ t.completions = [] ∧ t.ticketCounter = 0 ∧ t.slotWanted = false ∧
    (∀ i : Fin 11, t.cursors[i] = 0) ∧ t.lotTable = none ∧ t.serviceList = [] ∧
    (∀ k : Fin 21, t.events[k] = ⟨false, none, 0⟩) ∧ t.eventMask = 0 ∧ t.counters = .zero

/-- R18. RESET_N_ASSERTION stops both ports and holds both counting stages; and while RESET_N is low (log 6) every other
command but POWER_ON changes nothing. -/
def Obligations.DeafWhileResetLow : Prop :=
  (∀ s : State, ∃ t, exec .resetNAssertion s = .next t ∧ t.resetLow = true ∧
    t.upstream = { s.upstream with sending := none } ∧ t.downstream = { s.downstream with sending := none } ∧
    t.prescaleCount = 0 ∧ t.divideCount = 0 ∧ t.events = s.events ∧
    { t with resetLow := s.resetLow, prescaleCount := s.prescaleCount, divideCount := s.divideCount }.offLink
      = s.offLink) ∧
  (∀ (s : State) (c : Instr), s.resetLow = true → (∀ a, c ≠ .powerOn a) → c ≠ .resetNAssertion →
    exec c s = .next s)

/-- R150, R153, R147. TICK with no expiry due before it: every RUNNING timer above 0 counts down by one, one that it brings to
0 expires (the expiry is its owner's next event, log 3), and no other timer changes; the lot clock advances and saturates;
both stages begin again with the factors of TIMEBASE; nothing else changes. -/
def Obligations.TickCounts : Prop :=
  ∀ s : State, s.resetLow = false → dueTimers s = [] → ∃ t, exec .tick s = .next t ∧
    (∀ id n, s.timer id = .running (n + 2) → t.timer id = .running (n + 1)) ∧
    (∀ id, s.timer id = .running 1 → t.timer id = .expired) ∧
    (∀ id, (∀ n, s.timer id ≠ .running (n + 1)) → t.timer id = s.timer id) ∧
    t.lotClock = min (s.lotClock + 1) 4294967295 ∧ t.tickFactors = s.timebase ∧
    t = { s with timers := t.timers, lotClock := t.lotClock, tickFactors := t.tickFactors, prescaleCount := 0,
                 divideCount := 0 }

/-- R149, R151, R152. A start gives a timer its count, RUNNING when it is free-running or the lot is in RUN or DRAIN and HELD
otherwise, and with a count of 0 one that would be RUNNING expires at once (`atOnce`); a cancel makes it CLEAR; neither
touches another timer. A change of lot state out of RUN and DRAIN holds every RUNNING gated timer with its count, one into
RUN or DRAIN resumes every HELD gated timer with its count, one held with 0 expiring at once, and no change touches a
free-running timer. -/
def Obligations.LotStateGatesTimers : Prop :=
  (∀ (s : State) (id : TimerId) (n : Nat),
    (id.gated = false ∨ s.lotState.active = true →
      (startTimer id n s).timer id = if n = 0 then .atOnce else .running n) ∧
    (id.gated = true → s.lotState.active = false → (startTimer id n s).timer id = .held n) ∧
    (cancelTimer id s).timer id = .clear ∧
    ∀ other, other ≠ id →
      (startTimer id n s).timer other = s.timer other ∧ (cancelTimer id s).timer other = s.timer other) ∧
  (∀ (s : State) (l : LotState) (id : TimerId),
    (changeLot l s).lotState = l ∧
    (id.gated = false → (changeLot l s).timer id = s.timer id) ∧
    (s.lotState.active = l.active → (changeLot l s).timer id = s.timer id) ∧
    (id.gated = true → s.lotState.active = true → l.active = false →
      (∀ n, s.timer id = .running n → (changeLot l s).timer id = .held n) ∧
      ((∀ n, s.timer id ≠ .running n) → (changeLot l s).timer id = s.timer id)) ∧
    (id.gated = true → s.lotState.active = false → l.active = true →
      (∀ n, s.timer id = .held n → (changeLot l s).timer id = if n = 0 then .atOnce else .running n) ∧
      ((∀ n, s.timer id ≠ .held n) → (changeLot l s).timer id = s.timer id)))

/-! ## Expiries -/

/-- R149, R150, R151 with the model's choice of log 3. An expiry command whose timer has not expired (it is CLEAR, HELD, or
still counts) has no effect. Every other command but POWER_ON and RESET_N_ASSERTION acts on the state in which the due
expiries have been taken: with none due that is the state itself; with one due, and none after it, the state its expiry
command answers; and with several, one of them, which one being free (log 8), is taken before the others. An expiry that a
yield delay of 0 makes at once is taken directly after the step that started the timer, on the state that step left and as an
event of its own: a step that leaves none ends there, and behind a step that leaves one the yield falls due and is checked;
of two, one is taken first. -/
def Obligations.UntimelyExpiriesIgnored : Prop :=
  (∀ (s : State) (id : TimerId), s.timer id ≠ .expired → s.timer id ≠ .atOnce → exec id.expiryCommand s = .next s) ∧
  (∀ (s : State) (id : TimerId), id ∈ dueTimers s ↔ s.timer id = .expired ∨ s.timer id = .atOnce) ∧
  (∀ (s : State) (c : Instr), afterExpiries c → dueTimers (takeDue s) = [] → exec c s = exec c (takeDue s)) ∧
  (∀ s : State, dueTimers s = [] → takeDue s = s) ∧
  (∀ (s t : State) (id : TimerId), s.resetLow = false → dueTimers s = [id] → exec id.expiryCommand s = .next t →
    dueTimers t = [] → takeDue s = t) ∧
  (∀ s : State, s.resetLow = false → 2 ≤ (dueTimers s).length →
    ∃ id ∈ dueTimers s, ∃ t, exec id.expiryCommand { s with draws := s.draws + 1 } = .next t ∧
      (dueTimers t = [] → takeDue s = t) ∧
      (∀ next u, dueTimers t = [next] → exec next.expiryCommand t = .next u → dueTimers u = [] → takeDue s = u)) ∧
  ∀ s : State,
    let stepEnd (v : State) : State := checkDrain (settle v)
    let fallen (h : Head) (v : State) : State :=
      stepEnd (yieldCheck h ((cancelTimer (.yield h) v).modHead h fun x => { x with yieldDue := true }))
    let v := stepEnd s
    ((∀ h, v.timer (.yield h) ≠ .atOnce) → finish s = v) ∧
    (∀ h, v.timer (.yield h) = .atOnce → v.timer (.yield h.other) ≠ .atOnce →
      (∀ x, (fallen h v).timer (.yield x) ≠ .atOnce) → finish s = fallen h v) ∧
    ((∀ h, v.timer (.yield h) = .atOnce) → ∃ h,
      let w := fallen h { v with draws := v.draws + 1 }
      (w.timer (.yield h) ≠ .atOnce → w.timer (.yield h.other) = .atOnce →
        (∀ x, (fallen h.other w).timer (.yield x) ≠ .atOnce) → finish s = fallen h.other w) ∧
      ((∀ x, w.timer (.yield x) ≠ .atOnce) → finish s = w))

/-- R56, R58, R59, R60. SOAK_EXPIRY: the timer becomes CLEAR and the socket READY, with every other socket and timer as it
was; then the socket's group is given its start test, and the command ends with its grant points (log 7). FILL_WAIT_EXPIRY
makes a partial start: the group is started with its READY members, the counter of partial starts rises by one, and
PARTIAL_START is raised with the group. The start test makes a start in RUN or DRAIN for a group with a READY and no TESTING
member whose eligible members are all READY, or with a fill wait of 0, or in DRAIN. Without a start the fill-wait timer is
started when such a start is outstanding and the timer CLEAR, left as it is when it runs or the fill wait is 0, and cancelled
when no start is outstanding. -/
def Obligations.SoakAndFillWaitExpiries : Prop :=
  (∀ (s : State) (i : Fin 64), s.resetLow = false → s.timer (.soak i) = .expired →
    ∃ u : State, u.sockets[i] = { s.sockets[i] with state := .ready } ∧
      (∀ j : Fin 64, j ≠ i → u.sockets[j] = s.sockets[j]) ∧
      u.timer (.soak i) = .clear ∧ (∀ id, id ≠ .soak i → u.timer id = s.timer id) ∧
      u = { s with sockets := u.sockets, timers := u.timers } ∧
      exec (.soakExpiry i) s = .next (finish (
        match groupOf s i with
        | some g => if startTest u g then startGroup g u else fillUpdate g u
        | none => u))) ∧
  (∀ (s : State) (g : Fin 16), s.resetLow = false → s.timer (.fill g) = .expired →
    let v := startGroup g (cancelTimer (.fill g) s)
    exec (.fillWaitExpiry g) s = .next (finish (raiseEvent .partialStart g
      { v with counters := { v.counters with partialStarts := min (v.counters.partialStarts + 1) 4294967295 } }))) ∧
  ∀ (s : State) (g : Fin 16),
    let outstanding := (∀ i : Fin 64, groupOf s i = some g → s.sockets[i].state ≠ .testing) ∧
      ∃ i : Fin 64, groupOf s i = some g ∧ s.sockets[i].state = .ready
    (startTest s g = true ↔ (s.lotState = .run ∨ s.lotState = .drain) ∧ outstanding ∧
      ((∀ i : Fin 64, groupOf s i = some g → s.sockets[i].state ≠ .off → s.sockets[i].pendingDisable = none →
          s.sockets[i].state = .ready) ∨
        s.lot.fillWait = 0 ∨ s.lotState = .drain)) ∧
    (outstanding → s.timer (.fill g) = .clear → s.lot.fillWait ≠ 0 →
      fillUpdate g s = startTimer (.fill g) s.lot.fillWait s) ∧
    (outstanding → s.timer (.fill g) ≠ .clear ∨ s.lot.fillWait = 0 → fillUpdate g s = s) ∧
    (¬ outstanding → fillUpdate g s = cancelTimer (.fill g) s)

/-- R57, R61. A group start takes each READY member to TESTING with its watchdog RUNNING at the test limit (1 or more,
R148), leaves every other socket and watchdog as it was, clears the fill-wait timer, counts one test started for each
socket, records the time and the number of sockets, and produces one SITE START with the group and the sockets in ascending
order. -/
def Obligations.GroupStartTests : Prop :=
  ∀ (s : State) (g : Fin 16),
    let ready := readyMembers s g
    let t := startGroup g s
    let sent := produce .downstream (s.nodeAddress 1) kindSiteStart (byte g :: ready.map fun i => byte i.val) s
    (∀ i : Fin 64, i ∈ ready ↔ groupOf s i = some g ∧ s.sockets[i].state = .ready) ∧ ready.Pairwise (· < ·) ∧
    (∀ i : Fin 64, i ∈ ready →
      t.sockets[i] = { s.sockets[i] with state := .testing } ∧
      (1 ≤ s.lot.testLimit → t.timer (.watchdog i) = .running s.lot.testLimit)) ∧
    (∀ i : Fin 64, i ∉ ready → t.sockets[i] = s.sockets[i] ∧ t.timer (.watchdog i) = s.timer (.watchdog i)) ∧
    t.timer (.fill g) = .clear ∧
    (s.counters.testsStarted ≤ 4294967295 →
      t.counters = { s.counters with testsStarted := min (s.counters.testsStarted + ready.length) 4294967295 }) ∧
    t.groups[g] = ⟨some (s.lotClock, ready.length)⟩ ∧ (∀ k : Fin 16, k ≠ g → t.groups[k] = s.groups[k]) ∧
    t.upstream = sent.upstream ∧ t.downstream = sent.downstream ∧ t.events = sent.events ∧ t.parts = s.parts

/-- R65, R69, R70, R71, R79. WATCHDOG_EXPIRY of a TESTING socket: the lot's timeout code is the attempt appended and, with
the test limit, the last result; the disposition is decided from it, a decision for RETEST being counted; TIMEOUT is noted,
and RESULT as well when the code carries the fault mark, and the fault count rises once or twice and stops at 15; the socket
is TESTED and its watchdog CLEAR; SITE_TIMEOUT is pending, and the counter of test timeouts has risen. A count that reaches a
threshold of 1..15 with pending-disable clear sets it with cause FAULT, no PLACE into the socket being pending any longer;
otherwise no other device and no socket that is not READY changes. The last line of the step is its grant points (log 7). -/
def Obligations.WatchdogExpiryTakesResult : Prop :=
  ∀ (s : State) (i : Fin 64) (k : Fin 96) (r : PartRecord),
    s.resetLow = false → s.timer (.watchdog i) = .expired → s.sockets[i].state = .testing →
    s.sockets[i].record = some k → s.parts[k] = some r →
    let x := s.sockets[i]
    let code := s.lot.timeoutCode
    let tested := { r with attempts := r.attempts ++ [(i, code)] }
    let d := decideDisposition s tested code
    let faults := if faultMark s code then (x.faults.add .timeout).add .result else x.faults.add .timeout
    let count := if faultMark s code then min (x.faultCount + 2) 15 else min (x.faultCount + 1) 15
    let reached := x.pendingDisable = none ∧ s.lot.faultThreshold ≠ 0 ∧ s.lot.faultThreshold ≤ count
    ∃ u, exec (.watchdogExpiry i) s = .next (finish u) ∧ u.timer (.watchdog i) = .clear ∧
      u.counters.testTimeouts = min (s.counters.testTimeouts + 1) 4294967295 ∧
      u.counters.retests = (if d = .retest then min (s.counters.retests + 1) 4294967295 else s.counters.retests) ∧
      u.events[EventKind.siteTimeout.num].pending = true ∧
      (¬ reached →
        u.sockets[i] =
          { x with state := .tested, last := some (code, s.lot.testLimit), faults := faults, faultCount := count } ∧
        u.parts[k] = some { tested with disposition := d } ∧ (∀ j : Fin 96, j ≠ k → u.parts[j] = s.parts[j]) ∧
        ∀ j : Fin 64, j ≠ i → s.sockets[j].state ≠ .ready → u.sockets[j] = s.sockets[j]) ∧
      (reached →
        u.sockets[i] =
          { x with
            state := .tested, last := some (code, s.lot.testLimit), faults := faults, faultCount := count
            plan := u.sockets[i].plan, pendingDisable := some .fault } ∧
        (∀ h, ∀ o ∈ (u.head h).queue, o.isPending = true → ¬ (o.action = .place ∧ o.location = some (.socket i))) ∧
        ∃ y, u.parts[k] = some y ∧ y.tag = r.tag ∧ y.place = r.place ∧ y.attempts = tested.attempts ∧
          (y.disposition = d ∨ d = .retest ∧ y.disposition = (finalDisposition s tested).1))

/-- R125, R127. ORDER_TIMER_EXPIRY stops the head: it is STOPPED, its timer CLEAR, its base zone absent, its holdings and its
known position kept; the pending orders of its queue are cancelled, and each of its OUTSTANDING and UNKNOWN orders stays in
its place as UNKNOWN; and HEAD_STOPPED and ORDER_TIMEOUT are pending. That the grant points of the step come at its end is
the model's choice (DESIGN CHOICE, log 7). (The tags of the queue are different, as R114 says.) -/
def Obligations.OrderTimeoutStopsHead : Prop :=
  ∀ (s : State) (h : Head), s.resetLow = false → s.timer (.order h) = .expired →
    ∃ u, exec (.orderTimerExpiry h) s = .next (finish u) ∧
      (u.head h).state = .stopped ∧ (u.head h).base = none ∧ (u.head h).holdings = (s.head h).holdings ∧
      (u.head h).known = (s.head h).known ∧ (∀ o ∈ (u.head h).queue, o.state = .unknown) ∧
      (((s.head h).queue.map Order.tag).Nodup →
        (u.head h).queue =
          ((s.head h).queue.filter fun o => o.state == .outstanding || o.state == .unknown).map fun o =>
            { o with state := .unknown }) ∧
      u.timer (.order h) = .clear ∧
      u.events[EventKind.headStopped.num].pending = true ∧ u.events[EventKind.orderTimeout.num].pending = true ∧
      (∀ p, u.recordAt p = s.recordAt p) ∧ u.lotState = s.lotState

/-- R143, R115, R120. YIELD_TIMER_EXPIRY makes the timer CLEAR and a yield due for the head, and the conditions are checked
at once: the lot in RUN or DRAIN, the other head READY with no OUTSTANDING order, standing inward of its park position, and
the span to its park position clear with its holdings. When one fails, the yield stays due and no order is made or granted.
When all hold, the due yield is cleared, YIELD_PARK is pending, and a PARK of origin YIELD stands granted in the other head's
queue, resolved to its park position from its known position; it is inserted ahead of the pending orders, behind the granted
ones. A later check does the same. (The head's order waits at the front, as R143 says of an expiry; no other grant point is
open in the step, log 7; no expiry at a start with 0 follows, as R149 has it of a yield delay of 0; and a queue is within the
bound of R115.) -/
def Obligations.YieldExpiryMarksDue : Prop :=
  let parked (o : Head) (s t : State) : Prop :=
    ∃ p q, (s.head o).known = some p ∧ q ∈ (t.head o).queue ∧ q.action = .park ∧ q.origin = .yield ∧
      q.state = .outstanding ∧ q.plan = none ∧ q.nozzle = none ∧ q.location = none ∧ q.part = none ∧
      q.resolved = some ⟨s.parkPos o, .park, spanOf p (s.parkPos o), moveTimeout (s.motionOf o) .park p (s.parkPos o)⟩
  let waiting (h : Head) (s : State) : Prop :=
    ∃ o, ((s.head h).queue.find? fun q => q.state == .pending || q.state == .waitingZone) = some o ∧
      o.state = .waitingZone
  (∀ (s : State) (h : Head), s.resetLow = false → s.timer (.yield h) = .expired →
    exec (.yieldTimerExpiry h) s =
      .next (finish (yieldCheck h ((cancelTimer (.yield h) s).modHead h fun x => { x with yieldDue := true })))) ∧
  (∀ (s : State) (h : Head), s.resetLow = false → s.timer (.yield h) = .expired → s.points = .none → waiting h s →
    s.timer (.yield h.other) ≠ .atOnce →
    (parkPossible h.other s = false → ∃ t, exec (.yieldTimerExpiry h) s = .next t ∧
      (t.head h).yieldDue = true ∧ t.timer (.yield h) = .clear ∧
      ∀ x, (t.head x).queue.length = (s.head x).queue.length ∧ (t.head x).holdings = (s.head x).holdings ∧
        ((t.head x).queue.filter fun o => o.state == .outstanding) =
          (s.head x).queue.filter fun o => o.state == .outstanding) ∧
    (parkPossible h.other s = true → (s.head h.other).queue.length ≤ 8 → s.lot.yieldDelay ≠ 0 →
      ∃ t, exec (.yieldTimerExpiry h) s = .next t ∧ (t.head h).yieldDue = false ∧
        t.events[EventKind.yieldPark.num].pending = true ∧ parked h.other s t)) ∧
  (∀ (o : Head) (s : State), parkPossible o s = true ↔
    (s.lotState = .run ∨ s.lotState = .drain) ∧ (s.head o).state = .ready ∧
    (∀ q ∈ (s.head o).queue, q.state ≠ .outstanding) ∧
    ∃ p, (s.head o).known = some p ∧
      match o with
      | .west => (s.parkPos .west).x < p.x ∧
        max (s.head .west).holdings.hi (p.x / 100000) + 1 < (s.head .east).holdings.lo
      | .east => p.x < (s.parkPos .east).x ∧
        (s.head .west).holdings.hi + 1 < min (s.head .east).holdings.lo (p.x / 100000)) ∧
  (∀ (s : State) (h : Head),
    let v := { s with points := { s.points with yieldCheck := s.points.yieldCheck.set h false } }
    ((s.head h).yieldDue = false ∨ parkPossible h.other s = false → takeYieldCheck h s = v) ∧
    ((s.head h).yieldDue = true → parkPossible h.other s = true → takeYieldCheck h s = makeYieldPark h v)) ∧
  (∀ (s : State) (h : Head), parkPossible h.other s = true → (s.head h.other).queue.length ≤ 8 →
    let t := makeYieldPark h s
    (t.head h).yieldDue = false ∧ t.events[EventKind.yieldPark.num].pending = true ∧ parked h.other s t) ∧
  (∀ (s : State) (h : Head),
    let x := s.head h
    let t := insertPark h s
    ∃ o : Order, o.action = .park ∧ o.origin = .yield ∧ o.state = .pending ∧ o.plan = none ∧ o.nozzle = none ∧
      o.location = none ∧ o.part = none ∧ o.tag = nextTag x ∧
      (t.head h).queue = x.queue.filter Order.isGranted ++ o :: x.queue.filter fun q => !q.isGranted)

/-- R132, R138, R163, R164. RECOVER_TIMER_EXPIRY takes the head OFFLINE with no ticket and no base zone, its holdings widened
outward to its rail end and inward to its default half as far as the other head allows, its orders kept, and completes its
ticket with TIMEOUT. A completion of a request whose ticket is held takes the entry out of the list and produces COMPLETION
with the ticket, the request code, the outcome and the subject; and when a slot was wanted REQUEST_SLOT_FREE is raised with
the ticket and the flag cleared. Without a ticket nothing is completed. That the grant points of the step come at its end,
behind the COMPLETION, is the model's choice (DESIGN CHOICE, logs 7 and 9). -/
def Obligations.RecoverExpiryGoesOffline : Prop :=
  (∀ (s : State) (h : Head), s.resetLow = false → s.timer (.recover h) = .expired →
    ∃ u, exec (.recoverTimerExpiry h) s = .next (finish (complete codeHeadRecover (.head h) .timeout u)) ∧
      u = { s with heads := u.heads, timers := u.timers, points := u.points } ∧
      u.head h = { s.head h with
        state := .offline, ticket := none, base := none
        holdings := match h with
          | .west => ⟨0, max (s.head .west).holdings.hi (min 6 ((s.head .east).holdings.lo - 2))⟩
          | .east => ⟨min (s.head .east).holdings.lo (max 9 ((s.head .west).holdings.hi + 2)), 15⟩ } ∧
      u.head h.other = s.head h.other ∧
      u.timer (.recover h) = .clear ∧ ∀ id, id ≠ .recover h → u.timer id = s.timer id) ∧
  ∀ (s : State) (code : Byte) (subject : Subject) (final : FinalCode),
    let held := s.completions.find? fun c => c.code == code && c.subject == subject
    (held = none → complete code subject final s = s) ∧
    ∀ c, held = some c →
      let sent := produce .upstream (s.nodeAddress 0) 0x53
        [byte c.ticket, c.code, match final with | .ok => 0 | .timeout => 1 | .cancelled => 2, c.subject.code]
        { s with completions := s.completions.filter fun d => d.ticket ≠ c.ticket }
      (s.slotWanted = false → complete code subject final s = sent) ∧
      (s.slotWanted = true →
        complete code subject final s = raiseEvent .requestSlotFree c.ticket { sent with slotWanted := false })

/-! ## Site reports -/

/-- R15, R33, R63, R69, R70, R71, R77, R78, R79. A SITE REPORT for a TESTING socket is taken as its result: the attempt is
appended, the last result set, the disposition decided, counted when it is RETEST, and written into the frame that is then
offered for forwarding (a report addressed to the part is not forwarded); without a fault mark the fault count is 0, with one
RESULT is noted; the socket is TESTED and its watchdog CLEAR; UNMAPPED_RESULT is pending when the code's entry is unwritten.
A count that reaches a threshold of 1..15 with pending-disable clear sets it with cause FAULT; otherwise no other device and
no socket that is not READY changes. The decision: HOLD and no fault mark for an unwritten entry, and by the class of a
written one BIN with its bin, HOLD, or RETEST within the retest limit, in RUN or a PAUSE from RUN, with a socket in service
that takes the device, and else BIN with its final bin. A socket takes a device of disposition NONE or RETEST that has not
been in it and, with group avoidance, in none of its group. FRAME_ARRIVAL, SITE_REPORT, HEAD_STATUS and SHUTTLE_REPORT with
these bytes all do so (log 23). The end of the step, which is its grant points, the drain check and the expiries at once,
comes before the frame is offered: that order is the model's choice (DESIGN CHOICE, logs 3, 7 and 9). -/
def Obligations.SiteReportTaken : Prop :=
  (∀ (s : State) (bytes : List Byte) (f : Frame) (i : Fin 64) (k : Fin 96) (r : PartRecord),
    s.takes bytes f → s.owned .downstream f kindSiteReport 1 → f.payload.length = 7 →
    fieldAt f.payload 0 1 = i.val → s.sockets[i].state = .testing → s.sockets[i].record = some k →
    s.parts[k] = some r →
    let x := s.sockets[i]
    let code := byteAt f.payload 1
    let tested := { r with attempts := r.attempts ++ [(i, code)] }
    let d := decideDisposition s tested code
    let faults := if faultMark s code then x.faults.add .result else x.faults
    let count := if faultMark s code then min (x.faultCount + 1) 15 else 0
    let reached := faultMark s code = true ∧ x.pendingDisable = none ∧ s.lot.faultThreshold ≠ 0 ∧
      s.lot.faultThreshold ≤ count
    ∃ u,
      (∀ c ∈ arrivals .downstream bytes, exec c s = .next (
        if s.ownAddress = some f.destination then finish u
        else offer .downstream { f with payload := f.payload.set 6 d.code } (finish u))) ∧
      u.timer (.watchdog i) = .clear ∧
      u.counters.retests = (if d = .retest then min (s.counters.retests + 1) 4294967295 else s.counters.retests) ∧
      (s.binMap[code.toFin] = none → u.events[EventKind.unmappedResult.num].pending = true) ∧
      (¬ reached →
        u.sockets[i] =
          { x with state := .tested, last := some (code, fieldAt f.payload 2 4), faults := faults, faultCount := count } ∧
        u.parts[k] = some { tested with disposition := d } ∧ (∀ j : Fin 96, j ≠ k → u.parts[j] = s.parts[j]) ∧
        ∀ j : Fin 64, j ≠ i → s.sockets[j].state ≠ .ready → u.sockets[j] = s.sockets[j]) ∧
      (reached →
        u.sockets[i] =
          { x with
            state := .tested, last := some (code, fieldAt f.payload 2 4), faults := faults, faultCount := count
            plan := u.sockets[i].plan, pendingDisable := some .fault } ∧
        (∀ h, ∀ o ∈ (u.head h).queue, o.isPending = true → ¬ (o.action = .place ∧ o.location = some (.socket i))) ∧
        ∃ y, u.parts[k] = some y ∧ y.tag = r.tag ∧ y.place = r.place ∧ y.attempts = tested.attempts ∧
          (y.disposition = d ∨ d = .retest ∧ y.disposition = (finalDisposition s tested).1))) ∧
  (∀ (s : State) (r : PartRecord) (code : Byte),
    let d := decideDisposition s r code
    let possible := r.attempts.length ≤ s.lot.retestLimit ∧
      (s.lotState = .run ∨ s.lotState = .pause ∧ s.remembered = some .run) ∧
      ∃ i : Fin 64, s.sockets[i].state ≠ .off ∧ s.sockets[i].pendingDisable = none ∧ loadable s r i = true
    (s.binMap[code.toFin] = none → d = .hold ∧ faultMark s code = false) ∧
    ∀ e, s.binMap[code.toFin] = some e →
      faultMark s code = e.faultMark ∧ (e.cls = .bin → d = .bin e.bin) ∧ (e.cls = .hold → d = .hold) ∧
      (e.cls = .retest → possible → d = .retest) ∧ (e.cls = .retest → ¬ possible → d = .bin e.finalBin)) ∧
  ∀ (s : State) (r : PartRecord) (i : Fin 64), loadable s r i = true ↔
    (r.disposition = .none ∨ r.disposition = .retest) ∧ (∀ a ∈ r.attempts, a.1 ≠ i) ∧
    (s.lot.groupAvoidance = true → ∀ g, groupOf s i = some g → ∀ a ∈ r.attempts, groupOf s a.1 ≠ some g)

/-- R64. A SITE REPORT for a socket above 63, or for one that is not TESTING, raises LATE_REPORT with the socket as sent and,
but for the end of the step (grant points, drain check and expiries at once), changes nothing else; the frame goes on as the
site interface node sent it. That it is offered after the end of the step is the model's choice (DESIGN CHOICE, logs 3, 7 and
9). FRAME_ARRIVAL, SITE_REPORT, HEAD_STATUS and SHUTTLE_REPORT with these bytes all do so (log 23). -/
def Obligations.SiteReportLate : Prop :=
  ∀ (s : State) (bytes : List Byte) (f : Frame),
    s.takes bytes f → s.owned .downstream f kindSiteReport 1 → f.payload.length = 7 →
    (∀ i : Fin 64, fieldAt f.payload 0 1 = i.val → s.sockets[i].state ≠ .testing) →
    let u := raiseEvent .lateReport (fieldAt f.payload 0 1) s
    ∀ c ∈ arrivals .downstream bytes, exec c s = .next (
      if s.ownAddress = some f.destination then finish u else offer .downstream f (finish u))

/-- R69, R70, R71. Noting a fault of a socket adds its kind to the flags and raises the count by one, up to 15. That is all
while the count is below the threshold, the threshold is 0, pending-disable is set or the socket is OFF. A count of 1..15 that
reaches the threshold sets pending-disable with cause FAULT: no PENDING or WAITING_ZONE order of either head places a device
into the socket any longer; a socket that is not EMPTY keeps its state with the flag set; and an EMPTY socket goes on to OFF
with the flag clear and SOCKET_DISABLED pending, unless a plan still reserves it. -/
def Obligations.FaultThresholdDisables : Prop :=
  ∀ (s : State) (i : Fin 64) (kind : FaultKind),
    let x := s.sockets[i]
    let count := min (x.faultCount + 1) 15
    let reached := s.lot.faultThreshold ≠ 0 ∧ s.lot.faultThreshold ≤ count ∧ x.pendingDisable = none ∧ x.state ≠ .off
    let t := noteFault i kind s
    (¬ reached → t = s.modSocket i fun y => { y with faults := y.faults.add kind, faultCount := count }) ∧
    (reached →
      t.sockets[i].faults = x.faults.add kind ∧ t.sockets[i].faultCount = count ∧ t.sockets[i].record = x.record ∧
      (∀ h, ∀ o ∈ (t.head h).queue, o.isPending = true → ¬ (o.action = .place ∧ o.location = some (.socket i))) ∧
      (x.state ≠ .empty → x.state ≠ .ready → t.sockets[i].state = x.state) ∧
      (x.state = .ready → t.sockets[i].state = .ready ∨ t.sockets[i].state = .testing) ∧
      (x.state ≠ .empty → t.sockets[i].pendingDisable = some .fault) ∧
      (x.state = .empty →
        t.sockets[i].state = .off ∧ t.sockets[i].pendingDisable = none ∧
          t.events[EventKind.socketDisabled.num].pending = true ∨
        x.plan ≠ none ∧ t.sockets[i].plan = x.plan ∧ t.sockets[i].state = .empty ∧
          t.sockets[i].pendingDisable = some .fault))

/-- R80, R82, R83. A conversion gives a device of disposition RETEST the final bin of the entry of its last result code, as
the entry stands, or HOLD with UNMAPPED_RESULT raised when the entry is unwritten; it changes no place, tag or attempt, and a
device of any other disposition is not converted. The conversion of a device without a plan on a nozzle is a planning
opportunity for its head (R97, waiting as log 4 says), unless the nozzle is BLOCKED, when it carries nothing for the planner
(R99, R117). After the conversions of a lot that enters DRAIN no record has disposition RETEST; after a re-examination every
record that keeps RETEST has a socket in service that would take it. -/
def Obligations.ConversionsLeaveNoStrandedRetest : Prop :=
  (∀ (s : State) (r : PartRecord) (i : Fin 64) (code : Byte), r.attempts.getLast? = some (i, code) →
    (∀ e, s.binMap[code.toFin] = some e → finalDisposition s r = (.bin e.finalBin, none)) ∧
    (s.binMap[code.toFin] = none → finalDisposition s r = (.hold, some i.val))) ∧
  (∀ (s : State) (k : Fin 96) (r : PartRecord), s.parts[k] = some r →
    (r.disposition ≠ .retest → convert k s = s) ∧
    (r.disposition = .retest →
      ((finalDisposition s r).2.isSome = true →
        (convert k s).events[EventKind.unmappedResult.num].pending = true) ∧
      (∃ y, (convert k s).parts[k] = some y ∧ y.disposition = (finalDisposition s r).1 ∧ y.place = r.place ∧
        y.tag = r.tag ∧ y.attempts = r.attempts) ∧
      (∀ p, (convert k s).recordAt p = s.recordAt p) ∧ (convert k s).counters = s.counters ∧
      ∀ (h : Head) (n : Fin 4), r.place = .nozzle h n → r.plan = none →
        ((s.head h).nozzles[n].blocked = true → (convert k s).heads = s.heads) ∧
        ((s.head h).nozzles[n].blocked = false → passCondition h s = true →
          ((convert k s).head h).passDue = true))) ∧
  (∀ (s : State) (k : Fin 96) (r : PartRecord), (convertAll s).parts[k] = some r → r.disposition ≠ .retest) ∧
  (∀ (s : State) (k : Fin 96) (r : PartRecord), (reexamine s).parts[k] = some r → r.disposition = .retest →
    someSocketTakes (reexamine s) r = true)

/-! ## Head statuses -/

/-- R6, R123, R127, R129. A HEAD STATUS from a head controller is handed to the order unit with its head, and the frame is
then offered for forwarding. A head field that differs, an outcome that is none of the five, and a DONE, MISS or STUCK that
the oldest OUTSTANDING order (the oldest UNKNOWN one of a head that is not READY) does not match, raise HEAD_PROTOCOL with
the head and change nothing else. FRAME_ARRIVAL, SITE_REPORT, HEAD_STATUS and SHUTTLE_REPORT all take the bytes so (log 23),
and that the grant points come when the status has been taken, before the offer, is the model's choice (logs 7 and 9). A late
MISS or STUCK, of a head that is not READY, leaves no granted order: with retry count 0 no device is lost, and with 1 the
missed device leaves custody and is counted, or PLACE_STUCK is raised; the head keeps its state, position and holdings. An
order resolved as not done leaves the queue: a socket in EMPTYING that it was to pick from is TESTED, one in FILLING without
pending-disable that it was to place into is EMPTY, a pocket is a hole, no device moves, and the holdings of a READY head
narrow to its base zone and the spans still OUTSTANDING (the tags of the queue being different, as R114 says). -/
def Obligations.HeadStatusHandedOver : Prop :=
  (∀ (s : State) (bytes : List Byte) (f : Frame) (h : Head),
    s.takes bytes f → s.owned .downstream f kindHeadStatus (controllerNode h) →
    (h = .east → s.node[(2 : Fin 5)] ≠ some f.source) → f.payload.length = 12 →
    ∀ c ∈ arrivals .downstream bytes, exec c s = .next (
      if s.ownAddress = some f.destination then finish (takeHeadStatus h f.payload s)
      else offer .downstream f (finish (takeHeadStatus h f.payload s)))) ∧
  (∀ (s : State) (h : Head) (payload : List Byte),
    let x := HeadStatusFields.read payload
    let order := (s.head h).queue.find? fun o => o.state == if (s.head h).state = .ready then .outstanding else .unknown
    (x.head ≠ h.num ∨ x.outcome = none ∨
      (∃ outcome, x.outcome = some outcome ∧ outcome ≠ .ready ∧ outcome ≠ .jam ∧
        ∀ o, order = some o →
          o.tag ≠ x.tag ∨ (outcome = .miss ∧ o.action ≠ .pick) ∨ (outcome = .stuck ∧ o.action ≠ .place))) →
    takeHeadStatus h payload s = raiseEvent .headProtocol h.num s) ∧
  (∀ (s : State) (h : Head) (payload : List Byte) (o : Order),
    let x := HeadStatusFields.read payload
    let t := takeHeadStatus h payload s
    x.head = h.num → (x.outcome = some .miss ∧ o.action = .pick ∨ x.outcome = some .stuck ∧ o.action = .place) →
    (s.head h).state ≠ .ready → ((s.head h).queue.find? fun q => q.state == .unknown) = some o → o.tag = x.tag →
    (∀ q ∈ (t.head h).queue, q.state = .pending ∨ q.state = .waitingZone) ∧
    (t.head h).state = (s.head h).state ∧ (t.head h).known = (s.head h).known ∧
    (t.head h).holdings = (s.head h).holdings ∧ (t.head h).base = (s.head h).base ∧
    (o.retry = 0 → (∀ p, t.recordAt p = s.recordAt p) ∧ t.counters.removed = s.counters.removed) ∧
    (o.retry ≠ 0 → o.action = .pick → t.events[EventKind.pickMiss.num].pending = true ∧
      ∀ (loc : Location) (p : Place) (k : Fin 96), o.location = some loc → loc.custody = some p →
        s.recordAt p = some k → t.recordAt p = none ∧ t.parts[k] = none ∧
          t.counters.removed = min (s.counters.removed + 1) 4294967295) ∧
    (o.retry ≠ 0 → o.action = .place →
      t.events[EventKind.placeStuck.num].pending = true ∧ ∀ p, t.recordAt p = s.recordAt p)) ∧
  ∀ (s : State) (h : Head) (o : Order),
    let t := resolveNotDone h o s
    (∀ q ∈ (t.head h).queue, q.tag ≠ o.tag) ∧ (t.head h).state = (s.head h).state ∧
    (∀ p, t.recordAt p = s.recordAt p) ∧
    (∀ i : Fin 64, o.action = .pick → o.location = some (.socket i) →
      t.sockets[i].state = if s.sockets[i].state = .emptying then .tested else s.sockets[i].state) ∧
    (∀ i : Fin 64, o.action = .place → o.location = some (.socket i) → s.sockets[i].pendingDisable = none →
      t.sockets[i].state = if s.sockets[i].state = .filling then .empty else s.sockets[i].state) ∧
    (∀ (b : Fin 16) (y : TrayId) (j : Nat), o.location = some (.pocket b y j) →
      let tray := s.bins[b].tray y
      t.bins[b].tray y = { tray with
        holes := tray.holes + 1
        state := if tray.state = .closing ∧ tray.allocated - tray.placed - (tray.holes + 1) = 0 then .full
          else tray.state }) ∧
    (∀ b, (s.head h).state = .ready → (s.head h).base = some b → ((s.head h).queue.map Order.tag).Nodup →
      (t.head h).holdings = holdingsFrom b ((s.head h).queue.filter fun q => q.tag ≠ o.tag)) ∧
    ((s.head h).state ≠ .ready → (t.head h).holdings = (s.head h).holdings)

/-- R125, R127, R129. A JAM stops a READY head: STOPPED at the reported position, its holdings kept, its base zone absent, its
timer CLEAR, its pending orders cancelled and each of its OUTSTANDING and UNKNOWN orders in its place as UNKNOWN, HEAD_STOPPED
pending. For a head that is not READY it sets the known position and changes nothing else. (The tags of the queue are
different, as R114 says.) -/
def Obligations.JamStopsHead : Prop :=
  ∀ (s : State) (h : Head) (payload : List Byte),
    let x := HeadStatusFields.read payload
    let t := takeHeadStatus h payload s
    x.head = h.num → x.outcome = some .jam →
    ((s.head h).state = .ready →
      (t.head h).state = .stopped ∧ (t.head h).known = some x.position ∧ (t.head h).base = none ∧
      (t.head h).holdings = (s.head h).holdings ∧ (∀ o ∈ (t.head h).queue, o.state = .unknown) ∧
      (((s.head h).queue.map Order.tag).Nodup →
        (t.head h).queue =
          ((s.head h).queue.filter fun o => o.state == .outstanding || o.state == .unknown).map fun o =>
            { o with state := .unknown }) ∧
      t.timer (.order h) = .clear ∧ t.events[EventKind.headStopped.num].pending = true ∧
      ∀ p, t.recordAt p = s.recordAt p) ∧
    ((s.head h).state ≠ .ready → t = s.modHead h fun y => { y with known := some x.position })

/-- R71, R126, R128. A first MISS or STUCK of a READY head returns every OUTSTANDING order as PENDING in its place, the
failed one with retry count 1; the head stays READY with its known position, its timer CLEAR, and holds its base zone alone;
a socket in EMPTYING goes back to TESTED and one in FILLING to EMPTY. (No socket has pending-disable set in that clause.) A
returned PLACE into a socket with pending-disable is cancelled at once, with every other pending PLACE into it: from FILLING
the socket is OFF with its pending-disable clear, and from EMPTYING it is TESTED with pending-disable kept. A MISS with retry
count 1 is final: the order has left, no order is OUTSTANDING, the head stays READY, PICK_MISS is pending with the device's
tag, the device has left custody and is counted as removed, and the place it was to be picked from is left: a socket OFF with
the MISS flag, its pending-disable clear and SOCKET_DISABLED pending, an input slot CLEARING with the tag. A STUCK with retry
count 1 is final: PLACE_STUCK is pending with the device's tag (log 33 says what it carries without a device), no device has
moved, the head is STOPPED with an empty queue, its timer CLEAR and HEAD_STOPPED pending; a socket in FILLING is EMPTY with
the STUCK flag unless it goes out of service, and a pocket is a hole. -/
def Obligations.FirstFailureReturnsOrders : Prop :=
  (∀ (s : State) (h : Head) (payload : List Byte) (o : Order) (b : Nat),
    let x := HeadStatusFields.read payload
    let t := takeHeadStatus h payload s
    x.head = h.num → (x.outcome = some .miss ∧ o.action = .pick ∨ x.outcome = some .stuck ∧ o.action = .place) →
    (s.head h).state = .ready → (s.head h).base = some b →
    ((s.head h).queue.find? fun q => q.state == .outstanding) = some o → o.tag = x.tag → o.retry = 0 →
    (∀ i : Fin 64, s.sockets[i].pendingDisable = none) →
    (t.head h).queue = ((s.head h).queue.map fun q =>
      if q.state = .outstanding then { q with state := .pending, retry := if q.tag = o.tag then 1 else q.retry } else q) ∧
    (t.head h).state = .ready ∧ (t.head h).known = (s.head h).known ∧ (t.head h).holdings = ⟨b, b⟩ ∧
    t.timer (.order h) = .clear ∧ (∀ p, t.recordAt p = s.recordAt p) ∧
    ∀ i : Fin 64,
      (s.sockets[i].state = .emptying →
        (∃ q ∈ (s.head h).queue, q.state = .outstanding ∧ q.action = .pick ∧ q.location = some (.socket i)) →
        t.sockets[i] = { s.sockets[i] with state := .tested }) ∧
      (s.sockets[i].state = .filling →
        (∃ q ∈ (s.head h).queue, q.state = .outstanding ∧ q.action = .place ∧ q.location = some (.socket i)) →
        t.sockets[i] = { s.sockets[i] with state := .empty }) ∧
      (s.sockets[i].state ≠ .emptying → s.sockets[i].state ≠ .filling → t.sockets[i] = s.sockets[i])) ∧
  (∀ (s : State) (h : Head) (payload : List Byte) (o q : Order) (b : Nat) (i : Fin 64) (cause : DisableCause),
    let x := HeadStatusFields.read payload
    let t := takeHeadStatus h payload s
    x.head = h.num → (x.outcome = some .miss ∧ o.action = .pick ∨ x.outcome = some .stuck ∧ o.action = .place) →
    (s.head h).state = .ready → (s.head h).base = some b →
    ((s.head h).queue.find? fun q => q.state == .outstanding) = some o → o.tag = x.tag → o.retry = 0 →
    q ∈ (s.head h).queue → q.state = .outstanding → q.action = .place → q.location = some (.socket i) →
    s.sockets[i].pendingDisable = some cause →
    (∀ y, ∀ w ∈ (t.head y).queue, w.isPending = true → ¬ (w.action = .place ∧ w.location = some (.socket i))) ∧
    (s.sockets[i].state = .filling → t.sockets[i].state = .off ∧ t.sockets[i].pendingDisable = none) ∧
    (s.sockets[i].state = .emptying →
      (∃ w ∈ (s.head h).queue, w.state = .outstanding ∧ w.action = .pick ∧ w.location = some (.socket i)) →
      t.sockets[i].state = .tested ∧ t.sockets[i].pendingDisable = some cause) ∧
    (∀ w ∈ (t.head h).queue, w.state ≠ .outstanding) ∧ (t.head h).state = .ready ∧
    (t.head h).known = (s.head h).known ∧ (t.head h).holdings = ⟨b, b⟩ ∧ t.timer (.order h) = .clear ∧
    ∀ p, t.recordAt p = s.recordAt p) ∧
  (∀ (s : State) (h : Head) (payload : List Byte) (o : Order) (loc : Location) (p : Place) (k : Fin 96)
      (r : PartRecord),
    let x := HeadStatusFields.read payload
    let t := takeHeadStatus h payload s
    x.head = h.num → x.outcome = some .miss → o.action = .pick → (s.head h).state = .ready →
    ((s.head h).queue.find? fun q => q.state == .outstanding) = some o → o.tag = x.tag → o.retry ≠ 0 →
    o.location = some loc → loc.custody = some p → s.recordAt p = some k → s.parts[k] = some r →
    (∀ q ∈ (t.head h).queue, q.tag ≠ o.tag ∧ q.state ≠ .outstanding) ∧ (t.head h).state = .ready ∧
    (t.head h).known = (s.head h).known ∧ t.timer (.order h) = .clear ∧
    t.events[EventKind.pickMiss.num].pending = true ∧
    (s.events[EventKind.pickMiss.num].pending = false → t.events[EventKind.pickMiss.num].detail = some r.tag) ∧
    t.recordAt p = none ∧ t.parts[k] = none ∧ t.counters.removed = min (s.counters.removed + 1) 4294967295 ∧
    (∀ b, (s.head h).base = some b → (t.head h).base = some b ∧ (t.head h).holdings = ⟨b, b⟩) ∧
    (∀ i, p = .socket i → t.sockets[i].state = .off ∧ t.sockets[i].faults.miss = true ∧
      t.sockets[i].pendingDisable = none ∧ t.events[EventKind.socketDisabled.num].pending = true) ∧
    ∀ i, p = .input i → t.inputs[i].taken = some r.tag) ∧
  ∀ (s : State) (h : Head) (payload : List Byte) (o : Order) (n : Fin 4) (k : Fin 96) (r : PartRecord),
    let x := HeadStatusFields.read payload
    let t := takeHeadStatus h payload s
    x.head = h.num → x.outcome = some .stuck → o.action = .place → (s.head h).state = .ready →
    ((s.head h).queue.find? fun q => q.state == .outstanding) = some o → o.tag = x.tag → o.retry ≠ 0 →
    o.nozzle = some n → s.recordAt (.nozzle h n) = some k → s.parts[k] = some r →
    (t.head h).state = .stopped ∧ (t.head h).base = none ∧ (t.head h).queue = [] ∧ t.timer (.order h) = .clear ∧
    (t.head h).known = (s.head h).known ∧ (∀ p, t.recordAt p = s.recordAt p) ∧
    t.events[EventKind.placeStuck.num].pending = true ∧ t.events[EventKind.headStopped.num].pending = true ∧
    (s.events[EventKind.placeStuck.num].pending = false → t.events[EventKind.placeStuck.num].detail = some r.tag) ∧
    (∀ i : Fin 64, o.location = some (.socket i) → t.sockets[i].faults.stuck = true ∧
      (s.sockets[i].state = .filling → t.sockets[i].state = .empty ∨ t.sockets[i].state = .off) ∧
      (s.sockets[i].state = .filling → s.sockets[i].pendingDisable = none → s.lot.faultThreshold = 0 →
        t.sockets[i].state = .empty)) ∧
    (∀ (b : Fin 16) (y : TrayId) (j : Nat), o.location = some (.pocket b y j) →
      (s.bins[b].tray y).holes + 1 ≤ (t.bins[b].tray y).holes)

/-- R21, R29, R30, R55, R56, R67, R89, R116, R122, R124, R129, R137. A DONE that matches the oldest OUTSTANDING order of a
READY head, or the oldest UNKNOWN order of a head that is not READY: the order leaves the queue, its head reference becomes
the known position, and the head keeps its state. A READY head's base zone becomes the zone of that position, and its holdings
that zone joined with the spans still OUTSTANDING; another head's base zone and holdings stay. The order timer is started with
the timeout of the oldest order still OUTSTANDING, or is CLEAR. The device of a PICK stands on the nozzle and no longer in the
place it was picked from: an input slot is CLEARING with its tag and SHUTTLE TAKEN is produced, and a socket is FILLING when
its plan's PLACE follows, and else EMPTY, or OFF with pending-disable. The device of a PLACE into a socket or a retest slot
stands there and no longer on the nozzle, and a socket is SOAKING with its timer at the soak time, or READY or under test with a
soak time of 0. A PLACE into a pocket counts it as placed and binned, and its device has left custody. A PARK moves no device
and changes no socket's state. -/
def Obligations.DoneResolvesOrder : Prop :=
  ∀ (s : State) (h : Head) (payload : List Byte) (o : Order) (g : Resolved),
    let x := HeadStatusFields.read payload
    let t := takeHeadStatus h payload s
    let order := (s.head h).queue.find? fun q => q.state == if (s.head h).state = .ready then .outstanding else .unknown
    let oldest := (t.head h).queue.find? fun q => q.state == .outstanding
    x.head = h.num → x.outcome = some .done → order = some o → o.tag = x.tag → o.resolved = some g →
    (t.head h).known = some g.target ∧ (t.head h).state = (s.head h).state ∧
    (∀ q ∈ (t.head h).queue, q.tag ≠ o.tag) ∧
    ((s.head h).state = .ready → (t.head h).base = some (g.target.x / 100000) ∧
      (t.head h).holdings = holdingsFrom (g.target.x / 100000) (t.head h).queue) ∧
    ((s.head h).state ≠ .ready →
      (t.head h).base = (s.head h).base ∧ (t.head h).holdings = (s.head h).holdings) ∧
    (oldest = none → t.timer (.order h) = .clear) ∧
    (∀ q w, oldest = some q → q.resolved = some w → w.timeout ≠ 0 → t.timer (.order h) = .running w.timeout) ∧
    (∀ (n : Fin 4) (k : Fin 96) (r : PartRecord) (loc : Location) (p : Place),
      o.nozzle = some n → s.parts[k] = some r → o.location = some loc → loc.custody = some p →
      (o.action = .pick → s.recordAt p = some k → s.recordAt (.nozzle h n) = none →
        t.recordAt p = none ∧ t.recordAt (.nozzle h n) = some k ∧
        (∃ y, t.parts[k] = some y ∧ y.place = .nozzle h n ∧ y.tag = r.tag ∧ y.attempts = r.attempts) ∧
        (∀ i, p = .input i → t.inputs[i].taken = some r.tag ∧
          t.downstream =
            (produce .downstream (s.nodeAddress 4) 0x42 (byte i.val :: leBytes 4 r.tag) s).downstream) ∧
        (∀ i, p = .socket i →
          let follows := ∃ v, o.plan = some v ∧ ∃ q ∈ (s.head h).queue, q.tag ≠ o.tag ∧ q.plan = some v ∧
            q.action = .place ∧ q.location = some (.socket i) ∧ (q.state = .outstanding ∨ q.state = .unknown)
          (follows → t.sockets[i].state = .filling) ∧
          (¬ follows → t.sockets[i].state = if s.sockets[i].pendingDisable = none then .empty else .off))) ∧
      (o.action = .place → (∀ i, p ≠ .input i) → s.recordAt (.nozzle h n) = some k → s.recordAt p = none →
        t.recordAt p = some k ∧ t.recordAt (.nozzle h n) = none ∧
        (∃ y, t.parts[k] = some y ∧ y.place = p ∧ y.tag = r.tag ∧ y.attempts = r.attempts) ∧
        ∀ i, p = .socket i →
          (s.lot.soak ≠ 0 → t.sockets[i].state = .soaking ∧ t.timer (.soak i) = .running s.lot.soak) ∧
          (s.lot.soak = 0 → t.sockets[i].state = .ready ∨ t.sockets[i].state = .testing) ∧
          (s.lot.faultMode = .perPart → t.sockets[i].faults = ⟨false, false, false, false⟩))) ∧
    (∀ (n : Fin 4) (b : Fin 16) (y : TrayId) (j : Nat), o.location = some (.pocket b y j) → o.action = .place →
      o.nozzle = some n →
      t.recordAt (.nozzle h n) = none ∧ (∀ k, s.recordAt (.nozzle h n) = some k → t.parts[k] = none) ∧
        t.counters.binned[b] = min (s.counters.binned[b] + 1) 4294967295 ∧
        (t.bins[b].tray y).placed = (s.bins[b].tray y).placed + 1) ∧
    (o.action = .park → (∀ p, t.recordAt p = s.recordAt p) ∧ ∀ i : Fin 64, t.sockets[i].state = s.sockets[i].state)

/-- R31, R131, R133, R139. A READY brings back a head that is not READY, and restarts one that is READY, with HEAD_PROTOCOL
pending and its order timer CLEAR: READY at the reported position, its recover timer CLEAR in the first case, no order UNKNOWN
(nor, after a restart, OUTSTANDING), its base zone the zone of the position clipped against the other head's holdings, held
alone. A nozzle reported absent holds no device and is not BLOCKED; one reported present that holds none is BLOCKED, and
HEAD_PROTOCOL is pending. Without granted orders the queue is kept, each device whose nozzle is reported absent has left
custody and is counted as removed, and a nozzle reported present keeps its device. A single UNKNOWN PICK (or, at a restart,
OUTSTANDING) has put its device on a nozzle reported present, and has left it and its socket TESTED where the nozzle is
reported absent. A head that was RECOVERING has no ticket any longer. -/
def Obligations.ReadyRecoversHead : Prop :=
  ∀ (s : State) (h : Head) (payload : List Byte),
    let x := HeadStatusFields.read payload
    let t := takeHeadStatus h payload s
    let z := x.position.x / 100000
    let b := (match h with
      | .west => min z ((s.head .east).holdings.lo - 2)
      | .east => max z ((s.head .west).holdings.hi + 2))
    let lost := (List.finRange 4).filter fun (n : Fin 4) =>
      (s.recordAt (.nozzle h n)).isSome && !x.presence.getLsbD n
    let granted := (s.head h).queue.filter fun o => o.state == .unknown || o.state == .outstanding
    x.head = h.num → x.outcome = some .ready →
    (t.head h).state = .ready ∧ (t.head h).known = some x.position ∧ (t.head h).base = some b ∧
    (t.head h).holdings = ⟨b, b⟩ ∧ (∀ o ∈ (t.head h).queue, o.state ≠ .unknown) ∧
    (t.head h.other).holdings = (s.head h.other).holdings ∧
    ((s.head h).state = .recovering → (t.head h).ticket = none) ∧
    ((s.head h).state ≠ .ready → t.timer (.recover h) = .clear) ∧
    ((s.head h).state = .ready → t.timer (.order h) = .clear ∧ (∀ o ∈ (t.head h).queue, o.state ≠ .outstanding) ∧
      t.events[EventKind.headProtocol.num].pending = true) ∧
    (∀ n : Fin 4,
      (x.presence.getLsbD n = false → (t.head h).nozzles[n].record = none ∧ (t.head h).nozzles[n].blocked = false) ∧
      (x.presence.getLsbD n = true → (t.head h).nozzles[n].record = none →
        (t.head h).nozzles[n].blocked = true ∧ t.events[EventKind.headProtocol.num].pending = true)) ∧
    (granted = [] →
      (t.head h).queue = (s.head h).queue ∧
      (∀ n : Fin 4, ∀ k, s.recordAt (.nozzle h n) = some k →
        (x.presence.getLsbD n = false → t.parts[k] = none) ∧
        (x.presence.getLsbD n = true → t.recordAt (.nozzle h n) = some k)) ∧
      (s.counters.removed ≤ 4294967295 →
        t.counters.removed = min (s.counters.removed + lost.length) 4294967295)) ∧
    ∀ (o : Order) (n : Fin 4) (k : Fin 96) (loc : Location) (p : Place), granted = [o] →
      ((s.head h).state = .ready ∨ o.state = .unknown) → o.action = .pick → o.nozzle = some n →
      o.location = some loc → loc.custody = some p → s.recordAt p = some k → s.recordAt (.nozzle h n) = none →
      (x.presence.getLsbD n = true → t.recordAt (.nozzle h n) = some k ∧ t.recordAt p = none) ∧
      (x.presence.getLsbD n = false → t.recordAt p = some k ∧
        ∀ i, p = .socket i → s.sockets[i].state = .emptying → t.sockets[i].state = .tested)

/-! ## Shuttle reports -/

/-- R27, R28. A SHUTTLE REPORT from the shuttle node, by the condition of its slot, and in the end offered for forwarding: a
slot above 7 raises SHUTTLE_MISMATCH; in an EMPTY slot tag 0 changes nothing, a tag in use raises DUP_TAG and any other is
registered; a CLEARING slot takes tag 0 as its emptying, ignores its taken tag, and is otherwise emptied and then treated as
EMPTY; a HELD slot ignores its own tag and a tag 0 while a granted PICK lifts the device, and raises SHUTTLE_MISMATCH
otherwise, the PICK being one of its reserving plan that is OUTSTANDING or UNKNOWN. FRAME_ARRIVAL, SITE_REPORT, HEAD_STATUS
and SHUTTLE_REPORT all take the bytes so (log 23). The end of the step, which is its grant points, the drain check and the
expiries at once, comes before the frame is offered: that order is the model's choice (DESIGN CHOICE, logs 3, 7 and 9). -/
def Obligations.ShuttleReportTable : Prop :=
  (∀ (s : State) (bytes : List Byte) (f : Frame),
    s.takes bytes f → s.owned .downstream f kindShuttleReport 4 → f.payload.length = 5 →
    ∀ c ∈ arrivals .downstream bytes, exec c s = .next (
      if s.ownAddress = some f.destination then finish (takeShuttleReport f.payload s)
      else offer .downstream f (finish (takeShuttleReport f.payload s)))) ∧
  (∀ (s : State) (payload : List Byte) (tag : Nat), fieldAt payload 1 4 = tag →
    (8 ≤ fieldAt payload 0 1 →
      takeShuttleReport payload s = raiseEvent .shuttleMismatch (fieldAt payload 0 1) s) ∧
    ∀ i : Fin 8, fieldAt payload 0 1 = i.val →
      (s.inputs[i].record = none → s.inputs[i].taken = none →
        (tag = 0 → takeShuttleReport payload s = s) ∧
        (tag ≠ 0 → (∃ (k : Fin 96) (r : PartRecord), s.parts[k] = some r ∧ r.tag = tag) →
          takeShuttleReport payload s = raiseEvent .dupTag tag s) ∧
        (tag ≠ 0 → (∀ (k : Fin 96) (r : PartRecord), s.parts[k] = some r → r.tag ≠ tag) →
          takeShuttleReport payload s = register i tag s)) ∧
      (∀ taken, s.inputs[i].record = none → s.inputs[i].taken = some taken →
        let e := emptySlot i s
        (e.inputs[i].taken = none ∧ e.inputs[i].record = none ∧ e.parts = s.parts) ∧
        (tag = 0 → takeShuttleReport payload s = e) ∧
        (tag ≠ 0 → tag = taken → takeShuttleReport payload s = s) ∧
        (tag ≠ 0 → tag ≠ taken → (∃ (k : Fin 96) (r : PartRecord), s.parts[k] = some r ∧ r.tag = tag) →
          takeShuttleReport payload s = raiseEvent .dupTag tag e) ∧
        (tag ≠ 0 → tag ≠ taken → (∀ (k : Fin 96) (r : PartRecord), s.parts[k] = some r → r.tag ≠ tag) →
          takeShuttleReport payload s = register i tag e)) ∧
      (∀ (k : Fin 96) (r : PartRecord), s.inputs[i].record = some k → s.parts[k] = some r →
        (tag ≠ 0 → tag = r.tag → takeShuttleReport payload s = s) ∧
        (tag ≠ 0 → tag ≠ r.tag → takeShuttleReport payload s = raiseEvent .shuttleMismatch i s) ∧
        let lifted := ∃ p, s.inputs[i].plan = some p ∧ ∃ h, ∃ o ∈ (s.head h).queue, o.plan = some p ∧
          o.action = .pick ∧ o.location = some (.input i) ∧ (o.state = .outstanding ∨ o.state = .unknown)
        (tag = 0 → lifted → takeShuttleReport payload s = s) ∧
        (tag = 0 → ¬ lifted → takeShuttleReport payload s = raiseEvent .shuttleMismatch i s)))

/-- R20, R27. A registration takes the free record with the lowest index, gives it the tag, the slot as its place, an
empty attempt list, disposition NONE and no plan, makes the slot HELD and counts one device as registered; every other
record and slot is as it was. -/
def Obligations.RegistrationTakesLowestRecord : Prop :=
  ∀ (s : State) (i : Fin 8) (tag : Nat) (k : Fin 96), s.parts[k] = none →
    (∀ j : Fin 96, j < k → s.parts[j] ≠ none) →
    let t := register i tag s
    t.parts[k] = some ⟨tag, .input i, [], .none, none⟩ ∧ (∀ j : Fin 96, j ≠ k → t.parts[j] = s.parts[j]) ∧
    t.inputs[i] = { s.inputs[i] with record := some k, taken := none } ∧
    (∀ j : Fin 8, j ≠ i → t.inputs[j] = s.inputs[j]) ∧
    t.counters = { s.counters with registered := min (s.counters.registered + 1) 4294967295 } ∧
    t.sockets = s.sockets ∧ t.retests = s.retests ∧ t.upstream = s.upstream ∧ t.downstream = s.downstream ∧
    t.events = s.events ∧ t.timers = s.timers

/-! ## The planner -/

/-- R97, R98, R103. PLANNING_PASS. Without an opportunity waiting it has no effect. With one (log 4), the opportunity is used
up, the passes are made and the grant points they opened are taken (log 7). A pass is made while the head is READY, the
lot in RUN or DRAIN and fewer than 2 orders of the head pending; it takes the first of UNLOAD / EXCHANGE, LOAD, STOW and
FETCH that yields a plan, checking INPUT_STARVED where LOAD yields none; and it is repeated until one yields no plan or
the condition fails. The passes leave at most 3 orders pending and change no socket's state, no device's place, no head
state and no other head's queue. -/
def Obligations.PlanningPassPlans : Prop :=
  (∀ (s : State) (h : Head), dueTimers s = [] →
    ((s.head h).passDue = false → exec (.planningPass h) s = .next s) ∧
    (s.resetLow = false → (s.head h).passDue = true →
      let v := s.modHead h fun x => { x with passDue := false }
      let u := passes h 2 v
      exec (.planningPass h) s = .next (finish u) ∧
        (passCondition h s = true → pendingCount (u.head h) ≤ 3) ∧
        (passCondition h u = true → ∃ w, passCondition h w = true ∧ onePass h w = (u, false)) ∧
        (∀ i : Fin 64, u.sockets[i].state = s.sockets[i].state) ∧ (∀ p, u.recordAt p = s.recordAt p) ∧
        (u.head h.other).queue = (s.head h.other).queue ∧ (∀ k, (u.head k).state = (s.head k).state) ∧
        u.lotState = s.lotState ∧ u.counters = s.counters ∧ u.timers = s.timers ∧ u.completions = s.completions)) ∧
  (∀ (s : State) (h : Head),
    (passCondition h s = true ↔ (s.head h).state = .ready ∧ (s.lotState = .run ∨ s.lotState = .drain) ∧
      ((s.head h).queue.filter fun o => o.state == .pending || o.state == .waitingZone).length < 2) ∧
    (passCondition h s = false → ∀ k, passes h k s = s) ∧
    (passCondition h s = true → ∀ k, passes h (k + 1) s =
      if (onePass h s).2 then passes h k (onePass h s).1 else (onePass h s).1) ∧
    (∀ t, tryUnload h s = some t → onePass h s = (t, true)) ∧
    (tryUnload h s = none →
      (∀ t, tryLoad h s = some t → onePass h s = (t, true)) ∧
      (tryLoad h s = none →
        let stow := tryStow h (checkStarved h s)
        (stow.2 = true → onePass h s = stow) ∧
        (stow.2 = false →
          (∀ t, tryFetch h stow.1 = some t → onePass h s = (t, true)) ∧
          (tryFetch h stow.1 = none → onePass h s = (stow.1, false))))))

/-- R87, R94, R95, R99 to R106. What each priority yields, and what its plan is made of. UNLOAD / EXCHANGE needs a free
nozzle and finds, in scan order, a TESTED unreserved socket the head serves; the PICK joins the back of the queue, and in
RUN, without pending-disable and with a loadable device carried, the PLACE of that device behind it. LOAD, in RUN, finds an
EMPTY unreserved socket without pending-disable and places the device taken for it; the device is a RETEST one before a NONE
one, then that of the lowest nozzle. Both move the pointer past the position found. INPUT_STARVED names the first socket a
scan passed over when no record in use is loadable into it. STOW asks for a pocket for each BIN or HOLD device (in DRAIN each
NONE device too) in nozzle order until one is given; then, with no free nozzle, it stows the first RETEST device that no LOAD
can take into the lowest free retest slot, or converts it with RETEST_OVERFLOW and asks for a pocket. FETCH needs two free
nozzles and takes the lowest HELD unreserved retest slot, then, in RUN, such an input slot; a FETCH alone reserves a retest
slot to take from it (log 31). That INPUT_STARVED is not raised outside RUN is DEDUCED (log 26). Each plan reserves the
socket or slot, the nozzles and the part records of its orders, and changes no other part record. -/
def Obligations.PlansReserve : Prop :=
  (∀ (s : State) (h : Head),
    (tryUnload h s = none ↔ (∀ n, ¬s.nozzleFree h n) ∨ ∀ i ∈ s.serviceList, ¬s.canUnload h i) ∧
    ∀ t, tryUnload h s = some t →
      ∃ (pos : Nat) (i : Fin 64) (n : Fin 4), s.found h (s.canUnload h) pos i ∧ s.lowestFree h n ∧
        t.sockets[i] = { s.sockets[i] with plan := some s.planCount } ∧
        (t.head h).nozzles[n].plan = some s.planCount ∧ (t.head h).pointer = (pos + 1) % s.serviceList.length ∧
        ∃ pick : Order, pick.action = .pick ∧ pick.location = some (.socket i) ∧ pick.nozzle = some n ∧
          pick.part = s.sockets[i].record ∧ pick.plan = some s.planCount ∧ pick.state = .pending ∧
          pick.origin = .planner ∧
          ((¬(s.lotState = .run ∧ s.sockets[i].pendingDisable = none ∧ s.hasFor h i) ∧
              (t.head h).queue = (s.head h).queue ++ [pick] ∧ t.plans = s.plans ++ [⟨s.planCount, h, .unload⟩] ∧
              s.reservesParts t s.planCount s.sockets[i].record.toList) ∨
            ∃ (place : Order) (m : Fin 4) (k : Fin 96) (r : PartRecord), s.lotState = .run ∧
              s.sockets[i].pendingDisable = none ∧ s.takenFor h i m k r ∧
              (t.head h).nozzles[m].plan = some s.planCount ∧
              place.action = .place ∧ place.location = some (.socket i) ∧ place.nozzle = some m ∧
              place.part = some k ∧ place.plan = some s.planCount ∧ place.state = .pending ∧ place.origin = .planner ∧
              (t.head h).queue = (s.head h).queue ++ [pick, place] ∧
              t.plans = s.plans ++ [⟨s.planCount, h, .exchange⟩] ∧
              s.reservesParts t s.planCount (k :: s.sockets[i].record.toList))) ∧
  (∀ (s : State) (h : Head),
    (tryLoad h s = none ↔ s.lotState ≠ .run ∨ ∀ i ∈ s.serviceList, ¬(s.canLoad h i ∧ s.hasFor h i)) ∧
    ∀ t, tryLoad h s = some t →
      ∃ (pos : Nat) (i : Fin 64) (m : Fin 4) (k : Fin 96) (r : PartRecord), s.lotState = .run ∧
        s.found h (fun x => s.canLoad h x ∧ s.hasFor h x) pos i ∧ s.takenFor h i m k r ∧
        t.sockets[i] = { s.sockets[i] with plan := some s.planCount } ∧
        (t.head h).nozzles[m].plan = some s.planCount ∧ (t.head h).pointer = (pos + 1) % s.serviceList.length ∧
        t.plans = s.plans ++ [⟨s.planCount, h, .load⟩] ∧ s.reservesParts t s.planCount [k] ∧
        ∃ place : Order, place.action = .place ∧ place.location = some (.socket i) ∧ place.nozzle = some m ∧
          place.part = some k ∧ place.plan = some s.planCount ∧ place.state = .pending ∧ place.origin = .planner ∧
          (t.head h).queue = (s.head h).queue ++ [place]) ∧
  (∀ (s : State) (h : Head),
    let passedOver (i : Fin 64) : Prop := s.canLoad h i ∧ ¬s.hasFor h i
    ((s.lotState ≠ .run ∨ ∀ i ∈ s.serviceList, ¬passedOver i) → checkStarved h s = s) ∧
    (s.lotState = .run → ∀ pos i, s.found h passedOver pos i →
      ((∃ (k : Fin 96) (r : PartRecord), s.parts[k] = some r ∧ loadable s r i = true) → checkStarved h s = s) ∧
      ((∀ (k : Fin 96) (r : PartRecord), s.parts[k] = some r → loadable s r i = false) →
        checkStarved h s = raiseEvent .inputStarved i s))) ∧
  (∀ (s : State) (h : Head),
    (tryFetch h s = none ↔ (∀ m n, s.nozzleFree h m → s.nozzleFree h n → m = n) ∨
      (∀ r, ¬s.retestOffers r) ∧ (s.lotState = .run → ∀ i, ¬s.inputOffers i)) ∧
    ∀ t, tryFetch h s = some t →
      ∃ n : Fin 4, s.lowestFree h n ∧ (t.head h).nozzles[n].plan = some s.planCount ∧
        (t.head h).pointer = (s.head h).pointer ∧ t.plans = s.plans ++ [⟨s.planCount, h, .fetch⟩] ∧
        ∃ pick : Order, pick.action = .pick ∧ pick.nozzle = some n ∧ pick.plan = some s.planCount ∧
          pick.state = .pending ∧ pick.origin = .planner ∧ (t.head h).queue = (s.head h).queue ++ [pick] ∧
          s.reservesParts t s.planCount pick.part.toList ∧
          ((∃ r : Fin 8, s.retestOffers r ∧ (∀ x, x < r → ¬s.retestOffers x) ∧ pick.location = some (.retest r) ∧
              pick.part = s.retests[r].record ∧ t.retests[r].plan = some s.planCount) ∨
            ∃ i : Fin 8, s.lotState = .run ∧ (∀ r, ¬s.retestOffers r) ∧ s.inputOffers i ∧
              (∀ x, x < i → ¬s.inputOffers x) ∧ pick.location = some (.input i) ∧
              pick.part = s.inputs[i].record ∧ t.inputs[i].plan = some s.planCount)) ∧
  (∀ (s : State) (h : Head) (loc : Location) (k : Fin 96) (n : Fin 4),
    let t := stowPlan h loc k n s
    (t.head h).nozzles[n].plan = some s.planCount ∧ (t.head h).pointer = (s.head h).pointer ∧
      t.plans = s.plans ++ [⟨s.planCount, h, .stow⟩] ∧ s.reservesParts t s.planCount [k] ∧
      (∀ r : Fin 8, t.retests[r] = if loc = .retest r then { s.retests[r] with plan := some s.planCount }
        else s.retests[r]) ∧
      ∃ place : Order, place.action = .place ∧ place.location = some loc ∧ place.nozzle = some n ∧
        place.part = some k ∧ place.plan = some s.planCount ∧ place.state = .pending ∧ place.origin = .planner ∧
        (t.head h).queue = (s.head h).queue ++ [place]) ∧
  (∀ (s : State) (h : Head) (c : Fin 4 × Fin 96 × PartRecord) (rest : List (Fin 4 × Fin 96 × PartRecord)),
    let r := c.2.2
    (stowBin s r = match r.disposition with
      | .bin b => some b
      | .hold => some s.lot.holdBin
      | .none => if s.lotState = .drain then some s.lot.holdBin else none
      | .retest => none) ∧
    stowFirst h [] s = (s, false) ∧
    (stowBin s r = none → stowFirst h (c :: rest) s = stowFirst h rest s) ∧
    ∀ b, stowBin s r = some b →
      ((askPocket b s).2 = none → stowFirst h (c :: rest) s = stowFirst h rest (askPocket b s).1) ∧
      ∀ loc, (askPocket b s).2 = some loc →
        stowFirst h (c :: rest) s = (stowPlan h loc c.2.1 c.1 (askPocket b s).1, true)) ∧
  ∀ (s : State) (h : Head),
    let first := stowFirst h (carried s h) s
    let waits (n : Fin 4) (k : Fin 96) (r : PartRecord) : Prop :=
      s.carries h n k r ∧ r.disposition = .retest ∧
        ∀ i ∈ s.serviceList, s.canLoad h i → loadable s r i = false
    (∀ n k r, (n, k, r) ∈ carried s h ↔ s.carries h n k r) ∧
    ((carried s h).map fun c => c.1).Pairwise (fun a b => a < b) ∧
    (first.2 = true → tryStow h s = first) ∧ (first.2 = false → tryStow h s = stowRetest h first.1) ∧
    (((∃ n, s.nozzleFree h n) ∨ ∀ n k r, ¬waits n k r) → stowRetest h s = (s, false)) ∧
    ((∀ n, ¬s.nozzleFree h n) → ∀ n k r, waits n k r → (∀ n' k' r', n' < n → ¬waits n' k' r') →
      (∀ slot : Fin 8, s.retests[slot].record = none → s.retests[slot].plan = none →
        (∀ x : Fin 8, x < slot → ¬(s.retests[x].record = none ∧ s.retests[x].plan = none)) →
        stowRetest h s = (stowPlan h (.retest slot) k n s, true)) ∧
      ((∀ x : Fin 8, ¬(s.retests[x].record = none ∧ s.retests[x].plan = none)) →
        let t := raiseEvent .retestOverflow r.tag (convert k s)
        ∃ r', t.parts[k] = some r' ∧ stowRetest h s = stowFirst h [(n, k, r')] t))

/-! ## The rail and the resolver -/

/-- R86, R114, R115, R136 to R144. The laws of the rail, the order queues and the trays. Every step keeps the clearance law,
with what the holdings stand for: the base zone and the spans of the OUTSTANDING orders of a READY head lie within its
holdings, a head that is not READY has neither, and the park positions lie in their heads' halves. Every step keeps each
queue's law: at most 8 orders, at most 2 of them granted, with pairwise different tags in 1..255, a PARK granted and first,
and no UNKNOWN order on a READY head. With that, every step keeps every tray's law: placed and holes, with the pockets of the
queued orders, at most the allocated count, and that at most the capacity, within 1,024. Of the operations, taking every grant
point of a command keeps the clearance law, and so do a READY taken at any reported position, a head's entry into RECOVERING
or OFFLINE, and a recomputation from a base zone and spans that the head already holds. -/
def Obligations.ClearanceKept : Prop :=
  (∀ s t : State, step s = .next t →
    (s.railLawful → t.railLawful) ∧ (s.queuesLawful → t.queuesLawful) ∧
    (s.queuesLawful → s.traysLawful → t.traysLawful)) ∧
  (∀ s : State, s.railClear → (finish s).railClear) ∧
  (∀ (s : State) (h : Head) (p : Pos), s.railClear → (standAt h p s).railClear) ∧
  (∀ (s : State) (h : Head), s.railClear → (widenHoldings h s).railClear) ∧
  (∀ (s : State) (h : Head) (b : Nat), s.railClear → (s.head h).base = some b →
    (s.head h).holdings.lo ≤ b → b ≤ (s.head h).holdings.hi →
    (∀ o ∈ (s.head h).queue, o.state = .outstanding → ∀ r, o.resolved = some r →
      (s.head h).holdings.lo ≤ r.span.lo ∧ r.span.hi ≤ (s.head h).holdings.hi) →
    (recomputeHoldings h s).railClear) ∧
  ∀ (s : State) (b : Fin 16) (y : TrayId), s.trayLawful b y →
    (s.bins[b].tray y).placed + (s.bins[b].tray y).holes ≤ (s.bins[b].tray y).allocated ∧
      (s.bins[b].tray y).allocated ≤ (s.bins[b].tray y).capacity ∧ (s.bins[b].tray y).capacity ≤ 1024

/-- R139, R53. The base zone a head takes from a reported position: the zone of the position brought into the rail range,
clipped against the other head's holdings; its holdings are that zone alone; HEAD_PROTOCOL is raised when the clip moved
it; the known position and the other head are as they were; and under the clearance law the zone lies in 0..15. -/
def Obligations.ReadyPositionClipped : Prop :=
  ∀ (s : State) (h : Head) (x y : Nat),
    let p := clampPos ⟨x, y⟩
    let z := p.x / 100000
    let b := (match h with
      | .west => min z ((s.head .east).holdings.lo - 2)
      | .east => max z ((s.head .west).holdings.hi + 2))
    let t := standAt h p s
    p = ⟨min x 1599999, min y 599999⟩ ∧
    (t.head h) = { s.head h with base := some b, holdings := ⟨b, b⟩ } ∧ t.head h.other = s.head h.other ∧
    (b = z → t = { (s.modHead h fun w => { w with base := some b, holdings := ⟨b, b⟩ }) with points := t.points }) ∧
    (b ≠ z → t = raiseEvent .headProtocol h.num
      { (s.modHead h fun w => { w with base := some b, holdings := ⟨b, b⟩ }) with points := t.points }) ∧
    (s.railClear → (s.head .east).holdings.lo ≤ 15 → b ≤ 15)

/-- R47, R87, R88, R92. Where the pockets of a tray lie and how they are handed out. Pocket k lies in the row that is the
quotient of k by C and in the column that is the remainder, turned round in the odd rows of a SERPENTINE tray, at X = OX + c
× PX and Y = OY + r × PY; the capacity of a geometry within its ranges is 1 to 1,024; and different pockets lie at different
positions. A stow to a bin is answered from its active tray, or, without one, under DIVERT from the divert bin's active tray,
with the pocket that tray's allocated count names; the count rises by one and the bin's blocked flag is cleared; a tray that
reaches its capacity goes to CLOSING and the bin's active tray moves to the other tray when that is READY (a planning
opportunity for both heads, and the bin is not blocked), else to none. A stow that gets no pocket sets the bin's blocked flag
and, when it was clear, raises BIN_BLOCKED. That a bin whose other tray takes over is not blocked is the model's choice
(DEDUCED from R90 and R92, log 29). -/
def Obligations.PocketPositions : Prop :=
  (∀ (g : TrayGeometry),
    (g.inRange = true ↔ g.ox ≤ 1599999 ∧ g.oy ≤ 599999 ∧ 1 ≤ g.columns ∧ g.columns ≤ 32 ∧ 1 ≤ g.rows ∧ g.rows ≤ 32 ∧
      1000 ≤ g.px ∧ g.px ≤ 60000 ∧ 1000 ≤ g.py ∧ g.py ≤ 60000) ∧
    g.capacity = g.columns * g.rows ∧ (g.inRange = true → 1 ≤ g.capacity ∧ g.capacity ≤ 1024) ∧
    (∀ k, k < g.capacity →
      ∃ r c, k = r * g.columns + c ∧ c < g.columns ∧ r < g.rows ∧
        g.pocket k = ⟨g.ox + (if g.order = .serpentine ∧ r % 2 = 1 then g.columns - 1 - c else c) * g.px,
          g.oy + r * g.py⟩) ∧
    (g.inRange = true → ∀ j k, j < g.capacity → k < g.capacity → g.pocket j = g.pocket k → j = k)) ∧
  ∀ (s : State) (t : Fin 16),
    (∀ (b : Fin 16) (y : TrayId), stowTray s t = some (b, y) ↔
      s.bins[t].active = some y ∧ b = t ∨
        s.bins[t].active = none ∧ s.binPolicy[t] = some ⟨.divert, b⟩ ∧ s.bins[b].active = some y) ∧
    (stowTray s t = none →
      (s.bins[t].blocked = true → askPocket t s = (s, none)) ∧
      (s.bins[t].blocked = false →
        askPocket t s = (raiseEvent .binBlocked t (s.modBin t fun x => { x with blocked := true }), none))) ∧
    ∀ (b : Fin 16) (y : TrayId), stowTray s t = some (b, y) →
      let x := (s.bins[b]).tray y
      let other := (s.bins[b]).tray y.other
      let closes : Prop := x.capacity ≤ x.allocated + 1
      let moves : Prop := closes ∧ other.state = .ready
      ∃ u, askPocket t s = (u, some (.pocket b y x.allocated)) ∧
        u = { s with bins := u.bins, heads := u.heads } ∧
        (u.bins[b]).tray y =
          { x with allocated := x.allocated + 1, state := if closes then .closing else x.state } ∧
        (u.bins[b]).tray y.other = { other with state := if moves then .active else other.state } ∧
        (u.bins[b]).active =
          (if closes then (if other.state = .ready then some y.other else none) else (s.bins[b]).active) ∧
        u.bins[t].blocked = false ∧ (b ≠ t → (u.bins[b]).blocked = if moves then false else (s.bins[b]).blocked) ∧
        (b ≠ t → u.bins[t] = { s.bins[t] with blocked := false }) ∧
        (∀ c : Fin 16, c ≠ b → c ≠ t → u.bins[c] = s.bins[c]) ∧
        ∀ h, u.head h =
          { s.head h with passDue := if moves ∧ passCondition h s = true then true else (s.head h).passDue }

/-- R44, R48. The check of a tray's geometry answers the first item that fails, and four corners suffice: when every item
passes, every pocket passes the location test for both heads and all their nozzles. A location passes for a head and an
offset when the head reference, the location less the offset, lies on the rail and in a zone within the head's reach. -/
def Obligations.CornersSuffice : Prop :=
  ∀ (s : State) (g : TrayGeometry),
    (trayFailure s g = none → ∀ k, k < g.capacity → passesBoth s (g.pocket k).x (g.pocket k).y = true) ∧
    (trayFailure s g = some 0 ↔ g.inRange = false) ∧
    (∀ i : Fin 4, trayFailure s g = some (i.val + 1) ↔
      g.inRange = true ∧ (∀ p, g.corners[i.val]? = some p → passesBoth s p.x p.y = false) ∧
        ∀ j : Fin 4, j < i → ∀ p, g.corners[j.val]? = some p → passesBoth s p.x p.y = true) ∧
    (∀ (h : Head) (o : Offset) (x y : Nat),
      let hx : Int := x - o.dx
      let hy : Int := y - o.dy
      let zone := hx.toNat / 100000
      locationTest h o x y = true ↔ 0 ≤ hx ∧ hx ≤ 1599999 ∧ 0 ≤ hy ∧ hy ≤ 599999 ∧
        match h with
        | .west => zone ≤ 13
        | .east => 2 ≤ zone ∧ zone ≤ 15) ∧
    ∀ x y, passesBoth s x y = true ↔ ∀ (h : Head) (n : Fin 4), locationTest h (s.offset h n) x y = true

/-- R50 to R52, R119 to R122, R137, R140, R142. The timeout of a move, and the grant of the front pending order. The timeout
of a move is T_BASE, the two distances over the two speeds, each quotient rounded up on its own, and the allowance of the
action, summed and clamped to 50..10,000; an order is resolved by its location, its nozzle's offset and its head's MOTION
entry, from the last granted target, the PLACE of an exchange pair from its PICK's head reference. Of a head's orders only
the first that is not granted is considered, at a grant point, in RUN or DRAIN on a READY head with no OUTSTANDING order for
a pair, or fewer than 2 and none on its nozzle for a single order; without these nothing changes. An order whose span, joined
to the head's holdings, breaks the clearance test becomes WAITING_ZONE with its yield timer started, and stays so when it is
refused again. One that is accepted is granted, the pair together: each order is OUTSTANDING with the resolved values and
goes to the head's controller as a MOVE ORDER, the socket of a PICK is EMPTYING and an EMPTY one of a PLACE FILLING, the span
is joined to the holdings, the order timer starts where none was OUTSTANDING, the grant is a planning opportunity, and the
new front pending order is considered at once. The cancelling of a pending order opens a grant point when other orders stand
behind it (R119) or it is the front pending order (R127), the tags of the queue being different. A command takes up its grant
points at its end (log 7), one of several in any order (log 8), and one that opened none grants nothing. -/
def Obligations.MoveTimeout : Prop :=
  (∀ (s : State) (h : Head) (o : Order) (start : Pos),
    resolve s h o start = ⟨headReference s h o, (o.location.map Location.seat).getD .park,
      ⟨min (start.x / 100000) ((headReference s h o).x / 100000), max (start.x / 100000) ((headReference s h o).x / 100000)⟩,
      moveTimeout (s.motionOf h) o.action start (headReference s h o)⟩ ∧
    (o.location = none ∨ o.nozzle = none → headReference s h o = s.parkPos h) ∧
    (∀ loc n, o.location = some loc → o.nozzle = some n →
      headReference s h o = ⟨(((s.locationPos loc).x : Int) - (s.offset h n).dx).toNat,
        (((s.locationPos loc).y : Int) - (s.offset h n).dy).toNat⟩) ∧
    ((∀ q ∈ (s.head h).queue, q.state ≠ .outstanding) → lastTarget (s.head h) = (s.head h).known.getD ⟨0, 0⟩) ∧
    (∀ pre q post r, (s.head h).queue = pre ++ q :: post → q.state = .outstanding → q.resolved = some r →
      (∀ p ∈ post, p.state ≠ .outstanding) → lastTarget (s.head h) = r.target)) ∧
  (∀ (m : Motion) (a : Action) (start target : Pos), 1 ≤ m.vx → 1 ≤ m.vy →
    ∃ tx ty : Nat,
      (max target.x start.x - min target.x start.x ≤ tx * m.vx ∧
        ∀ n, max target.x start.x - min target.x start.x ≤ n * m.vx → tx ≤ n) ∧
      (max target.y start.y - min target.y start.y ≤ ty * m.vy ∧
        ∀ n, max target.y start.y - min target.y start.y ≤ n * m.vy → ty ≤ n) ∧
      moveTimeout m a start target =
        min 10000 (max 50 (m.base + tx + ty + match a with | .pick => m.pick | .place => m.place | .park => 0)) ∧
      50 ≤ moveTimeout m a start target ∧ moveTimeout m a start target ≤ 10000) ∧
  (∀ (x : HeadRecord) (o : Order),
    let granted (q : Order) : Prop := q.state = .outstanding ∨ q.state = .unknown
    let places (q : Order) : Prop :=
      q.plan = o.plan ∧ q.action = .place ∧ (q.state = .pending ∨ q.state = .waitingZone)
    (frontPending x = none ↔ ∀ q ∈ x.queue, granted q) ∧
    (frontPending x = some o ↔
      ∃ pre post, x.queue = pre ++ o :: post ∧ (∀ q ∈ pre, granted q) ∧ ¬granted o) ∧
    (pairPlace x o = none ↔ o.action ≠ .pick ∨ o.plan = none ∨ ∀ q ∈ x.queue, ¬places q) ∧
    ∀ q, pairPlace x o = some q → o.action = .pick ∧ o.plan ≠ none ∧ q ∈ x.queue ∧ places q) ∧
  (∀ (s : State) (h : Head) (o : Order),
    let x := s.head h
    let r := resolve s h o (lastTarget x)
    (pairPlace x o = none → claimOf h o s = [(o, r)] ∧ claimSpan (claimOf h o s) = r.span ∧
      (mayAsk h o s = true ↔ x.state = .ready ∧ (s.lotState = .run ∨ s.lotState = .drain) ∧
        (x.queue.filter fun q => q.state == .outstanding).length < 2 ∧
        ∀ q ∈ x.queue, q.state = .outstanding → o.nozzle ≠ none → q.nozzle ≠ o.nozzle)) ∧
    (∀ q, pairPlace x o = some q →
      let r' := resolve s h q r.target
      claimOf h o s = [(o, r), (q, r')] ∧
      claimSpan (claimOf h o s) = ⟨min r.span.lo r'.span.lo, max r.span.hi r'.span.hi⟩ ∧
      (mayAsk h o s = true ↔ x.state = .ready ∧ (s.lotState = .run ∨ s.lotState = .drain) ∧
        ∀ q ∈ x.queue, q.state ≠ .outstanding)) ∧
    ∀ c : Span, acceptsClaim h c s = true ↔ match h with
      | .west => max (s.head .west).holdings.hi c.hi + 1 < (s.head .east).holdings.lo
      | .east => (s.head .west).holdings.hi + 1 < min (s.head .east).holdings.lo c.lo) ∧
  (∀ (s : State) (h : Head),
    let v := { s with points := { s.points with grant := s.points.grant.set h false } }
    (frontPending (s.head h) = none → takeGrantPoint h s = v) ∧
    ∀ o, frontPending (s.head h) = some o →
      let accepted := acceptsClaim h (claimSpan (claimOf h o s)) s
      (mayAsk h o s = false → takeGrantPoint h s = v) ∧
      (mayAsk h o s = true → accepted = false →
        (o.state = .waitingZone → takeGrantPoint h s = v) ∧
        (o.state = .pending → takeGrantPoint h s = startTimer (.yield h) s.lot.yieldDelay
          (v.modHead h fun x => { x with
            queue := x.queue.map fun q => if q.tag = o.tag then { q with state := .waitingZone } else q }))) ∧
      (mayAsk h o s = true → accepted = true →
        takeGrantPoint h s = considerFront h 2 (syncYield h (grantClaim h (claimOf h o s) v)))) ∧
  (∀ (s : State) (h : Head) (n : Nat),
    (grantable h s = none → considerFront h (n + 1) s = markWaiting h s) ∧
    ∀ c, grantable h s = some c → considerFront h (n + 1) s = considerFront h n (syncYield h (grantClaim h c s))) ∧
  (∀ (s : State) (h : Head) (o : Order) (r : Resolved),
    let x := s.head h
    let node : Fin 5 := match h with | .west => 2 | .east => 3
    let moved (o : Order) (r : Resolved) (s : State) : State :=
      produce .downstream (s.nodeAddress node) kindMoveOrder
        ([byte o.tag, byte o.action.num, (o.nozzle.map fun n => byte n).getD 0xFF#8] ++ leBytes 4 r.target.x ++
          leBytes 4 r.target.y ++ [byte r.seat.num]) s
    let alone : Prop := ∀ q ∈ x.queue, q.state ≠ .outstanding
    let timers (t : State) : Prop :=
      (alone → t.timer (.order h) = Timer.start true r.timeout) ∧ (¬alone → t.timer (.order h) = s.timer (.order h)) ∧
      ∀ id, id ≠ .order h → t.timer id = s.timer id
    let t := grantClaim h [(o, r)] s
    t = { moved o r s with heads := t.heads, sockets := t.sockets, timers := t.timers, points := t.points } ∧
    (t.head h) = { x with
      queue := x.queue.map fun q =>
        if q.tag = o.tag then { q with resolved := some r, state := .outstanding } else q
      holdings := ⟨min x.holdings.lo r.span.lo, max x.holdings.hi r.span.hi⟩
      passDue := (t.head h).passDue } ∧
    t.head h.other = s.head h.other ∧ (passCondition h t = true → (t.head h).passDue = true) ∧ timers t ∧
    (∀ i : Fin 64, t.sockets[i] =
      if o.location = some (.socket i) then
        match o.action with
        | .pick => { s.sockets[i] with state := .emptying }
        | .place => if s.sockets[i].state = .empty then { s.sockets[i] with state := .filling } else s.sockets[i]
        | .park => s.sockets[i]
      else s.sockets[i]) ∧
    ∀ (q : Order) (r' : Resolved) (i : Fin 64), o.tag ≠ q.tag → o.action = .pick → q.action = .place →
      o.location = some (.socket i) → q.location = some (.socket i) →
      let t := grantClaim h [(o, r), (q, r')] s
      t = { moved q r' (moved o r s) with
        heads := t.heads, sockets := t.sockets, timers := t.timers, points := t.points } ∧
      (t.head h) = { x with
        queue := x.queue.map fun p =>
          if p.tag = o.tag then { p with resolved := some r, state := .outstanding }
          else if p.tag = q.tag then { p with resolved := some r', state := .outstanding } else p
        holdings := ⟨min x.holdings.lo (min r.span.lo r'.span.lo), max x.holdings.hi (max r.span.hi r'.span.hi)⟩
        passDue := (t.head h).passDue } ∧
      t.head h.other = s.head h.other ∧ (passCondition h t = true → (t.head h).passDue = true) ∧ timers t ∧
      ∀ j : Fin 64, t.sockets[j] = if j = i then { s.sockets[i] with state := .emptying } else s.sockets[j]) ∧
  ∀ (s : State),
    (s.points = .none → settle s = syncYield .east (syncYield .west s)) ∧
    (∀ h, .grant h ∈ moves s ↔ s.points.grant.get h = true ∧ ∃ o, frontPending (s.head h) = some o ∧ mayAsk h o s = true ∧
      (o.state = .pending ∨ acceptsClaim h (claimSpan (claimOf h o s)) s = true)) ∧
    (∀ h, .yieldCheck h ∈ moves s ↔
      s.points.yieldCheck.get h = true ∧ (s.head h).yieldDue = true ∧ parkPossible h.other s = true) ∧
    ∀ k,
      (moves s = [] → settleLoop (k + 1) s = s) ∧
      (∀ m, moves s = [m] → settleLoop (k + 1) s = settleLoop k (takeMove m s)) ∧
      (2 ≤ (moves s).length →
        ∃ m ∈ moves s, settleLoop (k + 1) s = settleLoop k (takeMove m { s with draws := s.draws + 1 })) ∧
    ∀ (h : Head) (pre : List Order) (o : Order) (post : List Order), (s.head h).queue = pre ++ o :: post →
      ((s.head h).queue.map Order.tag).Nodup → (o.state = .pending ∨ o.state = .waitingZone) →
      ((cancelPending h o s).points.grant.get h = true ↔ s.points.grant.get h = true ∨ post ≠ [] ∨
        ∀ q ∈ pre, q.state = .outstanding ∨ q.state = .unknown)

/-! ## Taking a request -/

/-- R1, R2, R18, R156, R157. What every request is checked for first, in order. With RESET_N low or no address of its own the
part takes no request; one from address 31 or the own address, or too long for a frame, raises LINK_INTEGRITY; a payload
whose length does not fit the code is answered UNKNOWN; a lot state that does not accept it is answered STATE. The answer is
addressed to the request's source with its correlator, joins the back of the upstream own queue and uses no sequence number,
and nothing but the ports and the event records changes with it. That LOT START outside IDLE is answered STATE without a
reason byte, and that in BYPASS four or more field bytes fit a TABLE WRITE of a table that is none of the eleven, is the
model's choice (DESIGN CHOICE, logs 32 and 34). -/
def Obligations.RequestsCheckedFirst : Prop :=
  (∀ (s : State) (r : Request), ∀ x ∈ requestCommands r,
    (s.resetLow = true ∨ s.ownAddress = none ∧ dueTimers s = [] → exec x.2 s = .next s) ∧
    (∀ own, s.resetLow = false → dueTimers s = [] → s.ownAddress = some own →
      (r.source = 31 ∨ r.source = own ∨ 238 < r.fields.length) → exec x.2 s = .next (raiseEvent .linkIntegrity 0 s))) ∧
  (∀ (s : State) (r : Request), s.hears r = true →
    let inLot : List LotState := [.run, .pause, .drain]
    let inAll : List LotState := [.idle, .run, .pause, .drain]
    ∀ x ∈ ([(.lotStart r, 0, [.idle]), (.lotPause r, 0, inLot), (.lotResume r, 0, [.pause]), (.lotDrain r, 0, inLot),
        (.lotEnd r, 0, [.drain]), (.bypassEnter r, 0, [.idle]), (.bypassExit r, 0, [.bypass]),
        (.reset r, 0, .bypass :: inAll), (.tableRead r, 5, inAll), (.cursorReset r, 1, inAll),
        (.statusRead r, 7, .bypass :: inAll), (.eventAck r, 4, inAll), (.eventMask r, 4, inAll),
        (.socketEnable r, 1, inAll), (.socketDisable r, 1, inAll), (.socketClear r, 1, inAll),
        (.trayReady r, 17, inAll), (.trayWithdraw r, 2, inAll), (.headRecover r, 2, inLot), (.partPurge r, 5, inAll),
        (.locate r, 5, inAll)] : List (Instr × Nat × List LotState)),
      (r.fields.length ≠ x.2.1 → exec x.1 s = .next (respond r .unknown s)) ∧
      (r.fields.length = x.2.1 → s.lotState ∉ x.2.2 → exec x.1 s = .next (respond r .state s))) ∧
  (∀ (s : State) (r : Request), s.hears r = true →
    ((r.fields.length < 4 ∨ ∃ t, TableId.ofNum (fieldAt r.fields 0 1) = some t ∧
        ((r.fields.length - 4) % t.entryBytes ≠ 0 ∨
          r.fields.length = 4 ∧ ¬ (t = .serviceList ∧ fieldAt r.fields 1 1 = 2))) →
      exec (.tableWrite r) s = .next (respond r .unknown s)) ∧
    (tableWriteFits r.fields = true → s.lotState = .bypass → exec (.tableWrite r) s = .next (respond r .state s))) ∧
  (∀ (s : State) (r : Request) (code : ResultCode) (ticket : Nat) (fields : List Byte),
    let t := respondWith r code ticket fields s
    t.offLink = s.offLink ∧
    (s.upstream.own.length < 32 → s.upstream.sending.isSome = true →
      t = { s with upstream := { s.upstream with own := s.upstream.own ++
        [⟨r.source, s.ownAddress.getD 31, 0x52, 0, r.correlator, byte code.num :: byte ticket :: fields⟩] } }) ∧
    (s.upstream.own.length < 32 → t.upstream.sequence = s.upstream.sequence ∧ t.events = s.events))

/-! ## The lot -/

/-- R158. LOT START in IDLE. The first item that fails is the reason of a STATE answer: NODE, SITE_GEOMETRY, DECK, NOZZLE,
MOTION and LOT written, a service list that is not empty, a socket that is not OFF. When none fails the lot enters RUN with
the counters and the lot clock at 0, both pointers at 0 and no bin blocked; custody, sockets, trays and the completion list
are taken as they stand. The grants of the step follow the response (DESIGN CHOICE, logs 7 and 9). (No socket is READY here,
as R76 says of IDLE, so no group starts.) -/
def Obligations.LotStartChecksThenRuns : Prop :=
  ∀ (s : State) (r : Request), s.hears r = true → r.fields = [] → s.lotState = .idle →
    let checks : List (Byte × Prop) :=
      [(0, ∀ i : Fin 5, s.node[i] ≠ none), (1, ∀ i : Fin 64, s.siteGeometry[i] ≠ none), (2, ∀ i : Fin 18, s.deck[i] ≠ none),
        (3, ∀ i : Fin 8, s.nozzleTable[i] ≠ none), (4, ∀ i : Fin 2, s.motion[i] ≠ none), (5, s.lotTable ≠ none),
        (8, s.serviceList ≠ []), (0x80, ∃ i : Fin 64, s.sockets[i].state ≠ .off)]
    (∀ (k : Nat) (x : Byte × Prop), checks[k]? = some x → ¬ x.2 →
      (∀ (j : Nat) (y : Byte × Prop), j < k → checks[j]? = some y → y.2) →
      exec (.lotStart r) s = .next (respondWith r .state 0 [x.1] s)) ∧
    ((∀ x ∈ checks, x.2) → (∀ i : Fin 64, s.sockets[i].state ≠ .ready) →
      ∃ u, exec (.lotStart r) s = .next (finish (respondOk r [] u)) ∧
        u = { s with
          lotState := .run, remembered := none, lotClock := 0, counters := .zero, bins := u.bins, heads := u.heads
          timers := u.timers, points := u.points } ∧
        (∀ b : Fin 16, u.bins[b] = { s.bins[b] with blocked := false }) ∧
        (∀ h, u.head h = { s.head h with
          pointer := 0
          passDue := (s.head h).passDue || ((s.head h).state == .ready && decide (pendingCount (s.head h) < 2)) }) ∧
        (∀ id, id.gated = false → u.timer id = s.timer id) ∧ (∀ g, u.timer (.fill g) = .clear) ∧
        ∀ h n, s.timer (.yield h) = .held (n + 1) → u.timer (.yield h) = .running (n + 1))

/-- R159, R162, R58, R59, R119, R143. LOT PAUSE remembers RUN or DRAIN, and changes nothing in PAUSE; LOT RESUME returns to the
remembered state, gives every group its start test, and ends with a grant point of both heads and a check of the due yields,
which follow the response (DESIGN CHOICE, logs 7 and 9); after the start tests no group passes the test any longer, and the
fill-wait timer of a group with a start outstanding and a fill wait above 0 is not CLEAR, while that of any other group is;
BYPASS ENTER and BYPASS EXIT change the lot state and with it the class of timers that counts, and nothing else. -/
def Obligations.LotPauseResumeBypass : Prop :=
  (∀ (s : State) (r : Request), s.hears r = true → r.fields = [] →
    (s.lotState = .run ∨ s.lotState = .drain →
      exec (.lotPause r) s = .next (respondOk r [] (changeLot .pause { s with remembered := some s.lotState }))) ∧
    (s.lotState = .pause → exec (.lotPause r) s = .next (respondOk r [] s)) ∧
    (∀ l, s.lotState = .pause → s.remembered = some l →
      exec (.lotResume r) s =
        .next (finish (respondOk r []
          { opportunityBoth (updateGroups (changeLot l { s with remembered := none })) with
            points := ⟨⟨true, true⟩, ⟨true, true⟩⟩ }))) ∧
    (s.lotState = .idle → exec (.bypassEnter r) s = .next (respondOk r [] (changeLot .bypass s))) ∧
    (s.lotState = .bypass → exec (.bypassExit r) s = .next (respondOk r [] (changeLot .idle s)))) ∧
  (∀ (s : State) (g : Fin 16),
    let t := updateGroups s
    let outstanding := (∀ i : Fin 64, groupOf t i = some g → t.sockets[i].state ≠ .testing) ∧
      ∃ i : Fin 64, groupOf t i = some g ∧ t.sockets[i].state = .ready
    startTest t g = false ∧ (outstanding → t.lot.fillWait ≠ 0 → t.timer (.fill g) ≠ .clear) ∧
    (¬ outstanding → t.timer (.fill g) = .clear)) ∧
  ∀ (s : State) (l : LotState), changeLot l s = { s with lotState := l, timers := (changeLot l s).timers }

/-- R160, R163, R164, R82. LOT DRAIN. In RUN with a full completion list it is answered BUSY and the lot stays in RUN;
otherwise every RETEST device is converted, the lot enters DRAIN, and the answer is OK when the drain condition then holds
and IN_PROGRESS with a new ticket for the lot when it does not. In DRAIN, and in a PAUSE entered from DRAIN, it joins the
lot's ticket, or is answered OK, BUSY or with a new ticket. In a PAUSE entered from RUN it is answered STATE. While the lot
is in DRAIN, or in a PAUSE entered from it, the end of every step that finds the drain condition true completes the lot's
ticket with OK, and any other changes nothing more (no expiry at a start with 0 following, R149). The grants of entering
DRAIN come before the response and the expiries they make at once behind it, which is the model's choice (DESIGN CHOICE, logs
7 and 9). -/
def Obligations.LotDrainAnswers : Prop :=
  (∀ s : State, drainCondition s = true ↔
    (∀ i : Fin 64, s.sockets[i].state = .empty ∨ s.sockets[i].state = .off) ∧
    (∀ (h : Head) (n : Fin 4), (s.head h).nozzles[n].record = none ∨ (s.head h).nozzles[n].blocked = true) ∧
    (∀ i : Fin 8, s.retests[i].record = none) ∧ ∀ h, (s.head h).queue = []) ∧
  (∀ s : State,
    let u := settle s
    let drains := (u.lotState = .drain ∨ u.lotState = .pause ∧ u.remembered = some .drain) ∧ drainCondition u = true
    (∀ h, u.timer (.yield h) ≠ .atOnce) →
    (drains → finish s = complete 0x04 .lot .ok u) ∧ (¬ drains → finish s = u)) ∧
  ∀ (s : State) (r : Request), s.hears r = true → r.fields = [] →
    let busy := respond r .busy { s with slotWanted := s.slotWanted || r.flags.getLsbD 0 }
    let ticketed (t : Nat) (u : State) : State :=
      respondTicket r t { u with completions := u.completions ++ [⟨t, 0x04, .lot⟩], ticketCounter := t }
    let fresh (t : Nat) : Prop := 1 ≤ t ∧ t ≤ 255 ∧ ∀ c ∈ s.completions, c.ticket ≠ t
    let again := s.lotState = .drain ∨ s.lotState = .pause ∧ s.remembered = some .drain
    let held := s.completions.find? fun c => c.code == 0x04 && c.subject == .lot
    (s.lotState = .run → 4 ≤ s.completions.length → exec (.lotDrain r) s = .next busy) ∧
    (s.lotState = .run → s.completions.length < 4 → ∃ (u : State) (t : Nat),
      exec (.lotDrain r) s = .next (if drainCondition u then respondOk r [] u else takeAtOnce (ticketed t u)) ∧ fresh t ∧
      u.lotState = .drain ∧ u.completions = s.completions ∧ u.ticketCounter = s.ticketCounter ∧
      (∀ (k : Fin 96) (x : PartRecord), u.parts[k] = some x → x.disposition ≠ .retest) ∧
      ∀ p, u.recordAt p = s.recordAt p) ∧
    (again → ∀ c, held = some c → exec (.lotDrain r) s = .next (respondTicket r c.ticket s)) ∧
    (again → held = none → drainCondition s = true → exec (.lotDrain r) s = .next (respondOk r [] s)) ∧
    (again → held = none → drainCondition s = false → 4 ≤ s.completions.length → exec (.lotDrain r) s = .next busy) ∧
    (again → held = none → drainCondition s = false → s.completions.length < 4 →
      ∃ t, exec (.lotDrain r) s = .next (ticketed t s) ∧ fresh t) ∧
    (s.lotState = .pause → s.remembered ≠ some .drain → exec (.lotDrain r) s = .next (respond r .state s))

/-- R161, R38, R134, R144. LOT END in DRAIN: answered STATE while the drain condition is false. When it holds, every input
slot's device is released and counted as returned and every slot left empty; a device that a BLOCKED nozzle holds (log 28) is
released and counted as removed, and the mark stays (DESIGN CHOICE, log 36); so, when every record in use is held by its
place, and no EMPTY or OFF socket holds one, no record stays in use; a PARK is sent for each READY head, West before East,
which then stands at its park position with an empty queue and holds its park zone alone, clipped against the other head when
that is not READY; the lot is IDLE, and the free-running timers and the completion list are as they were. -/
def Obligations.LotEndReturnsAndParks : Prop :=
  ∀ (s : State) (r : Request), s.hears r = true → r.fields = [] → s.lotState = .drain →
    (drainCondition s = false → exec (.lotEnd r) s = .next (respond r .state s)) ∧
    (drainCondition s = true → s.counters.returned ≤ 4294967295 → s.counters.removed ≤ 4294967295 →
      let held (k : Fin 96) : Prop := (∃ i : Fin 8, s.inputs[i].record = some k) ∨
        ∃ (h : Head) (n : Fin 4), (s.head h).nozzles[n].record = some k
      let onNozzles (h : Head) : Nat :=
        ((List.finRange 4).filter fun (n : Fin 4) => (s.head h).nozzles[n].record.isSome).length
      let zone (h : Head) : Nat := (s.parkPos h).x / 100000
      let send (h : Head) (v : State) : State :=
        if (s.head h).state = .ready then
          produce .downstream (s.nodeAddress (controllerNode h)) kindMoveOrder
            ([byte ((s.head h).tagCounter % 255 + 1), 2, 0xFF] ++ leBytes 4 (s.parkPos h).x ++
              leBytes 4 (s.parkPos h).y ++ [3]) v
        else v
      let sent := send .east (send .west s)
      ∃ u, exec (.lotEnd r) s = .next (respondOk r [] u) ∧ u.lotState = .idle ∧
        (∀ i : Fin 8, u.inputs[i] = { s.inputs[i] with record := none, taken := none }) ∧
        (∀ (h : Head) (n : Fin 4), (u.head h).nozzles[n] = { (s.head h).nozzles[n] with record := none }) ∧
        (∀ k : Fin 96, (held k → u.parts[k] = none) ∧ (¬ held k → u.parts[k] = s.parts[k])) ∧
        ((∀ k r, s.parts[k] = some r → s.recordAt r.place = some k) →
          (∀ i : Fin 64, s.sockets[i].state = .empty ∨ s.sockets[i].state = .off → s.sockets[i].record = none) →
          ∀ k : Fin 96, u.parts[k] = none) ∧
        u.counters = { s.counters with
          returned := min (s.counters.returned +
            ((List.finRange 8).filter fun i => s.inputs[i].record.isSome).length) 4294967295
          removed := min (s.counters.removed + (onNozzles .west + onNozzles .east)) 4294967295 } ∧
        (∀ h, (s.head h).state ≠ .ready → u.head h = { s.head h with nozzles := (u.head h).nozzles }) ∧
        (∀ h, (s.head h).state = .ready →
          (u.head h).state = .ready ∧ (u.head h).known = some (s.parkPos h) ∧ (u.head h).queue = [] ∧
          ∃ z, (u.head h).base = some z ∧ (u.head h).holdings = ⟨z, z⟩ ∧
            ((s.head h.other).state = .ready → z = zone h) ∧
            ((s.head h.other).state ≠ .ready →
              z = match h with
                | .west => min (zone .west) ((s.head .east).holdings.lo - 2)
                | .east => max (zone .east) ((s.head .west).holdings.hi + 2))) ∧
        u.upstream = sent.upstream ∧ u.downstream = sent.downstream ∧ u.events = sent.events ∧
        (∀ id, id.gated = false → u.timer id = s.timer id) ∧ u.completions = s.completions ∧
        u.sockets = s.sockets ∧ u.bins = s.bins ∧ u.retests = s.retests)

/-- R19, R169 with R37, R75, R93, R112, R135, R145, R154, R155 and R177. RESET in any lot state, the completion list being
within its capacity: the response with the number of cancelled tickets is the first frame of the emptied own queue (sent
at once by an idle port), one COMPLETION with CANCELLED for each ticket follows, oldest first, with correlators from 0;
every block is cleared; and every table, the mask, the own address and the tick in progress are kept. -/
def Obligations.ResetClearsAndAnswers : Prop :=
  ∀ (s : State) (r : Request), s.hears r = true → r.fields = [] → s.completions.length ≤ 4 →
    let own := s.ownAddress.getD 31
    let answer : Frame := ⟨r.source, own, 0x52, 0, r.correlator, [0, 0, byte s.completions.length]⟩
    let cancelled : List Frame := s.completions.zipIdx.map fun x =>
      ⟨s.nodeAddress 0, own, 0x53, 0, byte x.2, [byte x.1.ticket, x.1.code, 2, x.1.subject.code]⟩
    ∃ t, exec (.reset r) s = .next t ∧
      (∀ f, s.upstream.sending = some f →
        t.upstream = ⟨[], answer :: cancelled, byte s.completions.length, .through, some f⟩) ∧
      (s.upstream.sending = none →
        t.upstream = ⟨[], cancelled, byte s.completions.length, .own, some answer⟩) ∧
      t.downstream = ⟨[], [], 0, .through, s.downstream.sending⟩ ∧
      (∀ i : Fin 96, t.parts[i] = none) ∧
      (∀ i : Fin 8, t.inputs[i] = ⟨none, none, none⟩ ∧ t.retests[i] = ⟨none, none⟩) ∧
      (∀ i : Fin 64, t.sockets[i] =
        ⟨if (s.geometry i).isSome then .empty else .off, none, none, .none, 0, none, none⟩) ∧
      (∀ g : Fin 16, t.groups[g] = ⟨none⟩) ∧
      (∀ b : Fin 16, t.bins[b].active = none ∧ t.bins[b].blocked = false ∧
        ∀ y, (t.bins[b].tray y) = ⟨.absent, none, 0, 0, 0⟩) ∧
      (∀ h, (t.head h).state = .offline ∧ (t.head h).known = none ∧ (t.head h).ticket = none ∧
        (t.head h).tagCounter = 0 ∧ (t.head h).queue = [] ∧ (t.head h).base = none ∧ (t.head h).yieldDue = false ∧
        (t.head h).pointer = 0 ∧ ∀ n : Fin 4, (t.head h).nozzles[n] = ⟨none, false, none⟩) ∧
      (t.head .west).holdings = ⟨0, 6⟩ ∧ (t.head .east).holdings = ⟨9, 15⟩ ∧
      t.plans = [] ∧ (∀ id, t.timer id = .clear) ∧ t.lotClock = 0 ∧
      t.lotState = .idle ∧ t.remembered = none ∧ t.completions = [] ∧ t.ticketCounter = 0 ∧ t.slotWanted = false ∧
      (∀ i : Fin 11, t.cursors[i] = 0) ∧ (∀ k : Fin 21, t.events[k] = ⟨false, none, 0⟩) ∧ t.counters = .zero ∧
      t.node = s.node ∧ t.siteGeometry = s.siteGeometry ∧ t.deck = s.deck ∧ t.nozzleTable = s.nozzleTable ∧
      t.motion = s.motion ∧ t.lotTable = s.lotTable ∧ t.binMap = s.binMap ∧ t.binPolicy = s.binPolicy ∧
      t.serviceList = s.serviceList ∧ t.forwarding = s.forwarding ∧ t.timebase = s.timebase ∧
      t.eventMask = s.eventMask ∧ t.ownAddress = s.ownAddress ∧ t.tickFactors = s.tickFactors ∧
      t.prescaleCount = s.prescaleCount ∧ t.divideCount = s.divideCount ∧ t.pending = s.pending

/-! ## Tables, status and events as requests -/

/-- R4, R8, R40, R43, R45, R46, R77, R85, R147, R165, R167. TABLE WRITE of a table other than SERVICE_LIST: an unknown table,
an unknown mode, a protected table in a lot and an end beyond the table are answered UNKNOWN, RANGE 0, ACCESS and RANGE with
the table's size, in that order; a first entry that fails its test is answered RANGE with its index; and when all pass, every
entry takes its value, the cursor follows the last one, every other entry of every table is as it was, and for another table
than SITE_GEOMETRY nothing but the tables changes, while a socket whose geometry became absent is OFF and every other socket
keeps its state. NODE is accepted exactly when the table as it would stand has no address twice and no new address above 30
or equal to the own one; else the lowest offending index is answered, the later of two equal entries or a new entry so barred
(DEDUCED, log 17). A SITE_GEOMETRY entry passes when it is absent or passes the location test for all nozzles of each head
that serves it, a DECK entry by that test for both heads or, as a park position, by its zone, and a NOZZLE entry when every
fitted socket its head serves, every written slot and every corner of a READY, ACTIVE or CLOSING tray passes under it.
MOTION, LOT, BIN_MAP, BIN_POLICY, FORWARDING and TIMEBASE entries pass exactly within the ranges of R43, R167, R77, R85, R8
and R147, a BIN_MAP entry of class UNMAPPED and a FORWARDING entry not in use whatever their other fields hold. (What a flag
byte above 1 stands for is a free value, log 10; ACCESS_REFUSED comes before the response by the model's DESIGN CHOICE, log
9, and the ranges of a FORWARDING entry's addresses are log 16.) -/
def Obligations.TableWriteTakesWholeWrites : Prop :=
  (∀ (s : State) (r : Request), s.hears r = true → tableWriteFits r.fields = true → s.lotState ≠ .bypass →
    let mode := fieldAt r.fields 1 1
    (TableId.ofNum (fieldAt r.fields 0 1) = none → exec (.tableWrite r) s = .next (respond r .unknown s)) ∧
    ∀ t, TableId.ofNum (fieldAt r.fields 0 1) = some t → t ≠ .serviceList →
      let start := if mode = 0 then fieldAt r.fields 2 2 else s.cursors[t.num]
      let n := (r.fields.length - 4) / t.entryBytes
      let entry (k : Nat) : List Byte := (r.fields.drop (4 + k * t.entryBytes)).take t.entryBytes
      let barred := s.lotState ≠ .idle ∧ t ∈ [TableId.node, .siteGeometry, .deck, .nozzle, .motion, .lot, .timebase]
      let accepted : Prop :=
        ∃ u, exec (.tableWrite r) s = .next (respondOk r (byte t.num :: leBytes 2 (start + n)) u) ∧
          (∀ k, k < n → u.holdsEntry t (start + k) (entry k)) ∧
          (∀ k, k < t.size → k < start ∨ start + n ≤ k → readEntry t k u = readEntry t k s) ∧
          (∀ y k, y ≠ t → readEntry y k u = readEntry y k s) ∧
          u.cursors[t.num] = start + n ∧ (∀ y : TableId, y ≠ t → u.cursors[y.num] = s.cursors[y.num]) ∧
          (t ≠ .siteGeometry → u.offTables = s.offTables) ∧
          (t = .siteGeometry → ∀ i : Fin 64,
            (u.siteGeometry[i] = some none → u.sockets[i].state = .off) ∧
            (u.siteGeometry[i] ≠ some none → u.sockets[i].state = s.sockets[i].state))
      let nodeAt (i : Nat) : Option Byte :=
        if start ≤ i ∧ i < start + n then some (byteAt (entry (i - start)) 0) else s.node[i]?.join
      let nodeLawful :=
        (∀ i j a, i < 5 → j < 5 → i ≠ j → nodeAt i = some a → nodeAt j ≠ some a) ∧
        ∀ k, k < n → (byteAt (entry k) 0).toNat ≤ 30 ∧ s.ownAddress ≠ some (byteAt (entry k) 0)
      let nodeOffending (i : Nat) : Prop :=
        (∃ j a, j < i ∧ nodeAt j = some a ∧ nodeAt i = some a) ∨
        start ≤ i ∧ i < start + n ∧ ∃ a, nodeAt i = some a ∧ (30 < a.toNat ∨ s.ownAddress = some a)
      (1 < mode → exec (.tableWrite r) s = .next (respondRange r 0 s)) ∧
      (mode ≤ 1 → barred →
        exec (.tableWrite r) s = .next (respond r .access (raiseEvent .accessRefused t.num s))) ∧
      (mode ≤ 1 → ¬ barred → t.size < start + n → exec (.tableWrite r) s = .next (respondRange r t.size s)) ∧
      (mode ≤ 1 → ¬ barred → start + n ≤ t.size → t ≠ .node →
        (∀ k, k < n → entryPasses t s (start + k) (entry k) = false →
          (∀ j, j < k → entryPasses t s (start + j) (entry j) = true) →
          exec (.tableWrite r) s = .next (respondRange r (start + k) s)) ∧
        ((∀ k, k < n → entryPasses t s (start + k) (entry k) = true) → accepted)) ∧
      (mode ≤ 1 → ¬ barred → start + n ≤ t.size → t = .node →
        (nodeLawful → accepted) ∧
        (¬ nodeLawful → ∃ i, i < 5 ∧ nodeOffending i ∧ (∀ j, j < i → ¬ nodeOffending j) ∧
          exec (.tableWrite r) s = .next (respondRange r i s)))) ∧
  ∀ (s : State) (i : Nat) (e : List Byte),
    let num (k n : Nat) : Nat := fieldAt e k n
    (entryPasses .siteGeometry s i e = true ↔ readSite e = some none ∨
      ∃ g, readSite e = some (some g) ∧ ∀ h, g.home.serves h = true → ∀ n : Fin 4,
        locationTest h (s.offset h n) g.x g.y = true) ∧
    (entryPasses .deck s i e = true ↔ ∃ p, readDeck e = some p ∧
      (i < 16 → ∀ (h : Head) (n : Fin 4), locationTest h (s.offset h n) p.x p.y = true) ∧
      (i = 16 → p.x / 100000 ≤ 6) ∧ (16 < i → 9 ≤ p.x / 100000 ∧ p.x / 100000 ≤ 15)) ∧
    (entryPasses .nozzle s i e = true ↔ ∃ o, readOffset e = some o ∧
      let h : Head := if i < 4 then .west else .east
      (∀ (j : Fin 64) (g : SiteGeometry), s.siteGeometry[j] = some (some g) → g.home.serves h = true →
        locationTest h o g.x g.y = true) ∧
      (∀ (j : Fin 18) (p : Pos), j.val < 16 → s.deck[j] = some p → locationTest h o p.x p.y = true) ∧
      ∀ (b : Fin 16) (y : TrayId) (g : TrayGeometry), (s.bins[b].tray y).geometry = some g →
        (s.bins[b].tray y).state ∈ [TrayState.ready, .active, .closing] →
        ∀ p ∈ g.corners, locationTest h o p.x p.y = true) ∧
    (entryPasses .motion s i e = true ↔
      50 ≤ num 0 2 ∧ num 0 2 ≤ 5000 ∧ 50 ≤ num 2 2 ∧ num 2 2 ≤ 5000 ∧ num 4 2 ≤ 2000 ∧ num 6 2 ≤ 2000 ∧ num 8 2 ≤ 2000) ∧
    (entryPasses .lot s i e = true ↔
      num 0 4 ≤ 600000 ∧ num 4 2 ≤ 60000 ∧ 100 ≤ num 6 4 ∧ num 6 4 ≤ 600000 ∧ num 11 1 ≤ 2 ∧ num 12 1 ≤ 1 ∧ num 13 1 ≤ 15 ∧
        num 14 1 ≤ 15 ∧ num 15 1 ≤ 1 ∧ num 16 2 ≤ 10000) ∧
    (entryPasses .binMap s i e = true ↔ num 0 1 = 3 ∨ num 0 1 ≤ 2 ∧ num 1 1 ≤ 15 ∧ num 2 1 ≤ 15) ∧
    (entryPasses .binPolicy s i e = true ↔ num 0 1 ≤ 1 ∧ num 1 1 ≤ 15 ∧ (num 0 1 = 1 → num 1 1 ≠ i)) ∧
    (entryPasses .forwarding s i e = true ↔ (readFlag (byteAt e 0) = true →
      (num 1 1 ≤ 30 ∨ num 1 1 = 255) ∧ (num 2 1 ≤ 31 ∨ num 2 1 = 255) ∧ num 5 1 ≤ 2 ∧ num 6 1 ≤ 2)) ∧
    (entryPasses .timebase s i e = true ↔ 1 ≤ num 0 2 ∧ 1 ≤ num 2 2) ∧ readFlag 0 = false ∧ readFlag 1 = true

/-- R166, R165. A SERVICE_LIST write. A mode above 2 is answered RANGE 0; KEEP changes nothing but the cursor; REPLACE, and
APPEND to an empty list, put the given sockets in place of the list and both pointers at 0, and APPEND adds them behind it; a
list above 64 is refused with index 64, a socket above 63 with its position; and the answer, which carries the new length
as cursor and length, is followed by a planning opportunity for both heads. -/
def Obligations.ServiceListWriteModes : Prop :=
  ∀ (s : State) (r : Request), s.hears r = true → tableWriteFits r.fields = true → s.lotState ≠ .bypass →
    TableId.ofNum (fieldAt r.fields 0 1) = some .serviceList →
    let mode := fieldAt r.fields 1 1
    let sockets := r.fields.drop 4
    let fresh := mode = 0 ∨ s.serviceList = []
    let start := if fresh then 0 else s.serviceList.length
    let answered (u : State) : State :=
      respondOk r ([8] ++ leBytes 2 u.serviceList.length ++ [byte u.serviceList.length]) u
    (2 < mode → exec (.tableWrite r) s = .next (respondRange r 0 s)) ∧
    (mode = 2 → exec (.tableWrite r) s =
      .next (answered { s with cursors := s.cursors.set 8 s.serviceList.length })) ∧
    (mode ≤ 1 → 64 < start + sockets.length → exec (.tableWrite r) s = .next (respondRange r 64 s)) ∧
    (mode ≤ 1 → start + sockets.length ≤ 64 →
      (∀ (k : Nat) (b : Byte), sockets[k]? = some b → 64 ≤ b.toNat →
        (∀ (j : Nat) (c : Byte), j < k → sockets[j]? = some c → c.toNat < 64) →
        exec (.tableWrite r) s = .next (respondRange r (start + k) s)) ∧
      ((∀ b ∈ sockets, b.toNat < 64) →
        ∃ u, exec (.tableWrite r) s = .next (opportunityBoth (answered u)) ∧
          u.serviceList.map (fun i => byte i.val) =
            (if fresh then sockets else s.serviceList.map (fun i => byte i.val) ++ sockets) ∧
          u.cursors = s.cursors.set 8 u.serviceList.length ∧
          (∀ h, u.head h = if fresh then { s.head h with pointer := 0 } else s.head h) ∧
          u = { s with serviceList := u.serviceList, cursors := u.cursors, heads := u.heads }))

/-- R168, R176, R183, R184. TABLE READ, CURSOR RESET and STATUS READ. A read answers the cursor, for SERVICE_LIST the list's
length, and each entry asked for, or RANGE with 0 for no entry, with the table's size for an end beyond it, which goes before
the first entry that does not fit for too many (DESIGN CHOICE, log 35); a CURSOR RESET puts the cursor at 0; STATUS READ
joins the sections it names in section order from the one state, or answers RANGE, with 0 for a bad index or count and with
the first section that does not fit in 238 bytes; and each of the eight sections has the content of R176 in the sizes and the
field order of R184. The pair of a section that is not named is not checked (DEDUCED, log 13), a bad pair is answered before
sections that do not fit (DESIGN CHOICE, log 35), the bytes of an unwritten entry are log 14, the two bytes of the fault
flags log 12, the 2 for no active tray log 15, the two bytes of an unwritten BIN_POLICY entry log 37 (DESIGN CHOICE), and
that a timer whose expiry its owner has yet to take reads CLEAR is log 3. -/
def Obligations.ReadsAnswerFromOneState : Prop :=
  (∀ (s : State) (r : Request), s.hears r = true → s.lotState ≠ .bypass →
    (TableId.ofNum (fieldAt r.fields 0 1) = none →
      (r.fields.length = 5 → exec (.tableRead r) s = .next (respond r .unknown s)) ∧
      (r.fields.length = 1 → exec (.cursorReset r) s = .next (respond r .unknown s))) ∧
    ∀ t, TableId.ofNum (fieldAt r.fields 0 1) = some t →
      let start := fieldAt r.fields 1 2
      let count := fieldAt r.fields 3 2
      (r.fields.length = 1 →
        exec (.cursorReset r) s = .next (respondOk r [] { s with cursors := s.cursors.set t.num 0 })) ∧
      (r.fields.length = 5 →
        (count = 0 → exec (.tableRead r) s = .next (respondRange r 0 s)) ∧
        (count ≠ 0 → t.size < start + count → exec (.tableRead r) s = .next (respondRange r t.size s)) ∧
        (count ≠ 0 → start + count ≤ t.size → t.readMost < count →
          exec (.tableRead r) s = .next (respondRange r (start + t.readMost) s)) ∧
        (count ≠ 0 → start + count ≤ t.size → count ≤ t.readMost →
          ∃ bytes, bytes.length ≤ 238 ∧ exec (.tableRead r) s = .next (respondOk r bytes s) ∧
            bytes.length = (if t = .serviceList then 3 else 2) + count * (t.entryBytes + 1) ∧
            bytes.take 2 = leBytes 2 s.cursors[t.num] ∧
            (t = .serviceList → bytes[2]? = some (byte s.serviceList.length)) ∧
            ∀ k, k < count →
              (bytes.drop ((if t = .serviceList then 3 else 2) + k * (t.entryBytes + 1))).take (t.entryBytes + 1) =
                readEntry t (start + k) s))) ∧
  (∀ (s : State) (r : Request), s.hears r = true → r.fields.length = 7 →
    let named := (List.range 8).filter fun k => (byteAt r.fields 0).getLsbD k
    let bad (k first size : Nat) : Prop := k ∈ named ∧
      (fieldAt r.fields (first + 1) 1 = 0 ∨ size < fieldAt r.fields first 1 + fieldAt r.fields (first + 1) 1)
    let joined (ks : List Nat) : List Byte := ks.flatMap (sectionBytes s r.fields)
    (bad 1 1 64 ∨ bad 2 3 16 ∨ bad 4 5 16 → exec (.statusRead r) s = .next (respondRange r 0 s)) ∧
    (¬ bad 1 1 64 → ¬ bad 2 3 16 → ¬ bad 4 5 16 →
      ((joined named).length ≤ 238 → exec (.statusRead r) s = .next (respondOk r (joined named) s)) ∧
      ∀ before k after, named = before ++ k :: after → (joined before).length ≤ 238 →
        238 < (joined (before ++ [k])).length → exec (.statusRead r) s = .next (respondRange r k s))) ∧
  (∀ (s : State) (fields : List Byte),
    (sectionBytes s fields 0).length = 8 ∧ (∀ i : Fin 64, (socketItem s.sockets[i]).length = 11) ∧
    (∀ g, (groupItem s g).length = 9) ∧ (∀ h, (headItem s h).length = 30 + 11 * (s.head h).queue.length) ∧
    (∀ b, (binItem s b).length = 22) ∧ (sectionBytes s fields 5).length = 92 ∧ (sectionBytes s fields 6).length = 168 ∧
    (sectionBytes s fields 7).length = 2 + 3 * s.completions.length) ∧
  ∀ (s : State) (fields : List Byte),
    let flag (b : Bool) : Byte := if b then 1 else 0
    let opt (n : Nat) (value : Option Nat) : List Byte :=
      match value with
      | some v => leBytes n v
      | none => List.replicate n 255
    let lot (l : LotState) : Byte := byte ([LotState.idle, .run, .pause, .drain, .bypass].idxOf l)
    let plan (p : Option Nat) : Byte :=
      match p with
      | none => 0
      | some p => byte ((((s.heads.west.queue ++ s.heads.east.queue).find? fun o => o.plan == some p).map Order.tag).getD 0)
    let kind (p : Option Nat) : Byte :=
      match s.plans.find? fun x => some x.id == p with
      | none => 255
      | some x => byte ([PlanKind.unload, .exchange, .load, .stow, .fetch].idxOf x.kind)
    let location (l : Option Location) : List Byte :=
      match l with
      | none => [255, 255, 255, 255]
      | some (.socket i) => [0, byte i.val, 255, 255]
      | some (.input i) => [2, byte i.val, 255, 255]
      | some (.retest i) => [3, byte i.val, 255, 255]
      | some (.pocket b y k) => [4, byte (2 * b.val + [TrayId.a, .b].idxOf y)] ++ leBytes 2 k
    let timer (x : Timer) : List Byte :=
      match x with
      | .running n => 1 :: leBytes 2 n
      | .held n => 2 :: leBytes 2 n
      | .clear => [0, 255, 255]
      | .expired => [0, 255, 255]
      | .atOnce => [0, 255, 255]
    sectionBytes s fields 0 =
      [lot s.lotState, (s.remembered.map lot).getD 255] ++ leBytes 4 s.lotClock ++
        [byte (s.parts.toList.countP Option.isSome), flag s.slotWanted] ∧
    sectionBytes s fields 1 =
      (((List.finRange 64).drop (fieldAt fields 1 1)).take (fieldAt fields 2 1)).flatMap
        (fun i => socketItem s.sockets[i]) ∧
    (∀ x : Socket, socketItem x =
      [byte ([SocketState.off, .empty, .filling, .soaking, .ready, .testing, .tested, .emptying].idxOf x.state),
        byte ((if x.faults.miss then 1 else 0) + (if x.faults.stuck then 2 else 0) + (if x.faults.timeout then 4 else 0) +
          (if x.faults.result then 8 else 0)), 0, byte x.faultCount,
        byte ([none, some DisableCause.request, some .fault].idxOf x.pendingDisable)] ++
      match x.last with
      | some (code, time) => [1, code] ++ leBytes 4 time
      | none => [0, 255, 255, 255, 255, 255]) ∧
    sectionBytes s fields 2 =
      (((List.finRange 16).drop (fieldAt fields 3 1)).take (fieldAt fields 4 1)).flatMap (groupItem s) ∧
    (∀ g : Fin 16, groupItem s g =
      [flag ((List.finRange 64).any fun i => groupOf s i == some g && s.sockets[i].state == .testing)] ++
        opt 4 (s.groups[g].lastStart.map Prod.fst) ++ opt 1 (s.groups[g].lastStart.map Prod.snd) ++
        timer s.timers.fill[g]) ∧
    sectionBytes s fields 3 = headItem s .west ++ headItem s .east ∧
    (∀ h : Head,
      let x := s.head h
      headItem s h =
        [byte ([HeadState.offline, .ready, .stopped, .recovering].idxOf x.state)] ++ opt 4 (x.known.map Pos.x) ++
          opt 4 (x.known.map Pos.y) ++ opt 1 x.base ++ [byte x.holdings.lo, byte x.holdings.hi] ++
          timer (s.timers.yield.get h) ++ [flag x.yieldDue, byte x.pointer] ++
          (List.finRange 4).flatMap (fun n =>
            opt 1 (x.nozzles[n].record.map Fin.val) ++ [flag x.nozzles[n].blocked, plan x.nozzles[n].plan]) ++
          [byte x.queue.length] ++
          x.queue.flatMap fun o =>
            [byte o.tag, plan o.plan, kind o.plan, byte ([Action.pick, .place, .park].idxOf o.action)] ++
              opt 1 (o.nozzle.map Fin.val) ++ location o.location ++
              [byte o.retry, byte ([OrderState.pending, .waitingZone, .outstanding, .unknown].idxOf o.state)]) ∧
    sectionBytes s fields 4 =
      (((List.finRange 16).drop (fieldAt fields 5 1)).take (fieldAt fields 6 1)).flatMap (binItem s) ∧
    (∀ b : Fin 16,
      let tray (t : TrayRecord) : List Byte :=
        [byte ([TrayState.absent, .ready, .active, .closing, .full].idxOf t.state)] ++ leBytes 2 t.allocated ++
          leBytes 2 t.placed ++ leBytes 2 t.holes ++ leBytes 2 (t.allocated - t.placed - t.holes)
      binItem s b =
        (match s.binPolicy[b] with
          | none => [0, 255]
          | some p => [byte ([Policy.swap, .divert].idxOf p.policy), byte p.divertBin.val]) ++
        [byte ([some TrayId.a, some .b, none].idxOf s.bins[b].active), flag s.bins[b].blocked] ++
        tray s.bins[b].trayA ++ tray s.bins[b].trayB) ∧
    sectionBytes s fields 5 =
      leBytes 4 s.counters.registered ++ (List.finRange 16).flatMap (fun b => leBytes 4 s.counters.binned[b]) ++
        leBytes 4 s.counters.testsStarted ++ leBytes 4 s.counters.testTimeouts ++ leBytes 4 s.counters.partialStarts ++
        leBytes 4 s.counters.retests ++ leBytes 4 s.counters.returned ++ leBytes 4 s.counters.removed ∧
    sectionBytes s fields 6 =
      (List.finRange 21).flatMap (fun k =>
        [flag (s.eventMask.getLsbD k.val), flag s.events[k].pending] ++ opt 4 s.events[k].detail ++
          leBytes 2 s.events[k].count) ∧
    sectionBytes s fields 7 =
      [byte s.ticketCounter, byte s.completions.length] ++
        s.completions.flatMap fun c =>
          [byte c.ticket, c.code,
            match c.subject with
            | .socket i => byte i.val
            | .head .west => 0
            | .head .east => 1
            | .lot => 255]

/-- R172, R173, R174. EVENT ACK and EVENT MASK refuse a set that names a kind above 20. EVENT ACK answers, for each kind
named in ascending order, its flag, detail and count, and clears those records alone. EVENT MASK replaces the mask, and
behind its response one NOTICE goes out for each pending kind whose bit goes from clear to set, in ascending order (shown
for a busy port with room for them). -/
def Obligations.EventRequestsActOnNamedKinds : Prop :=
  ∀ (s : State) (r : Request), s.hears r = true → r.fields.length = 4 → s.lotState ≠ .bypass →
    let set := fieldAt r.fields 0 4
    (2097152 ≤ set → exec (.eventAck r) s = .next (respondRange r 0 s) ∧
      exec (.eventMask r) s = .next (respondRange r 0 s)) ∧
    (set < 2097152 →
      (∃ u, exec (.eventAck r) s = .next (respondOk r
          (((List.finRange 21).filter fun (k : Fin 21) => set.testBit k).flatMap fun (k : Fin 21) =>
            [if s.events[k].pending then 1 else 0] ++ optBytes 4 s.events[k].detail ++ leBytes 2 s.events[k].count) u) ∧
        (∀ k : Fin 21, u.events[k] = if set.testBit k then ⟨false, none, 0⟩ else s.events[k]) ∧
        u = { s with events := u.events }) ∧
      let named := (List.finRange 21).filter fun (k : Fin 21) =>
        !s.eventMask.getLsbD k && set.testBit k && s.events[k].pending
      let own := s.ownAddress.getD 31
      (s.upstream.sending.isSome = true → s.upstream.own.length + 1 + named.length ≤ 32 →
        exec (.eventMask r) s = .next { s with
          eventMask := BitVec.ofNat 21 set
          upstream := { s.upstream with
            own := s.upstream.own ++ ⟨r.source, own, 0x52, 0, r.correlator, [0, 0]⟩ :: (named.zipIdx.map fun (x : Fin 21 × Nat) =>
              ⟨s.nodeAddress 0, own, 0x54, 0, s.upstream.sequence + byte x.2,
                byte x.1.val :: optBytes 4 s.events[x.1].detail⟩)
            sequence := s.upstream.sequence + byte named.length } }) ∧
      ∃ u, exec (.eventMask r) s = .next u ∧ u.eventMask = BitVec.ofNat 21 set ∧
        { u with eventMask := s.eventMask }.offLink = s.offLink)

/-! ## Deck requests -/

/-- R71, R72, R73, R163, R164. SOCKET ENABLE and SOCKET DISABLE. ENABLE brings an OFF socket with geometry to EMPTY, refuses
one without, and leaves any other as it is, OK or BUSY with its pending-disable. DISABLE answers OK for an OFF socket; takes
an EMPTY socket, free or with its PLACE still pending, to OFF at once; answers a held ticket again; is BUSY with a full list;
and otherwise sets pending-disable with cause REQUEST unless it is set, under a new ticket for the socket. The grants of the
step follow the response (DESIGN CHOICE, logs 7 and 9). (An EMPTY socket that is reserved has its plan's PLACE pending, as
R95 and R55 say, so that last clause is about the other states.) -/
def Obligations.SocketEnableDisable : Prop :=
  ∀ (s : State) (r : Request), s.hears r = true → r.fields.length = 1 → s.lotState ≠ .bypass →
    (64 ≤ fieldAt r.fields 0 1 → ∀ c ∈ [Instr.socketEnable r, .socketDisable r, .socketClear r],
      exec c s = .next (respondRange r 0 s)) ∧
    ∀ i : Fin 64, fieldAt r.fields 0 1 = i.val →
      let x := s.sockets[i]
      let fresh (t : Nat) : Prop := 1 ≤ t ∧ t ≤ 255 ∧ ∀ c ∈ s.completions, c.ticket ≠ t
      let held := s.completions.find? fun c => c.code == 0x31 && c.subject == .socket i
      (x.state = .off → x.pendingDisable = none → (∃ g, s.siteGeometry[i] = some (some g)) →
        exec (.socketEnable r) s =
          .next (respondOk r [] (opportunityServing i (s.modSocket i fun y => { y with state := .empty })))) ∧
      (x.state = .off → (∀ g, s.siteGeometry[i] ≠ some (some g)) →
        exec (.socketEnable r) s = .next (respond r .state s)) ∧
      (x.state ≠ .off → x.pendingDisable = none → exec (.socketEnable r) s = .next (respondOk r [] s)) ∧
      (x.state ≠ .off → x.pendingDisable ≠ none → exec (.socketEnable r) s = .next (respond r .busy s)) ∧
      (x.state = .off → exec (.socketDisable r) s = .next (respondOk r [] s)) ∧
      (x.state = .empty →
        (x.plan = none ∨ ∃ p, x.plan = some p ∧ (∃ h, ∃ o ∈ (s.head h).queue, o.plan = some p) ∧
          ∀ h, ∀ o ∈ (s.head h).queue, o.plan = some p →
            o.action = .place ∧ o.location = some (.socket i) ∧ (o.state = .pending ∨ o.state = .waitingZone)) →
        ∃ u, exec (.socketDisable r) s = .next (finish (respondOk r [] u)) ∧
          u.sockets[i] = { x with state := .off, plan := none, pendingDisable := none } ∧
          (∀ h, ∀ o ∈ (u.head h).queue, o.isPending = true → ¬ (o.action = .place ∧ o.location = some (.socket i))) ∧
          (∀ p, u.recordAt p = s.recordAt p)) ∧
      let atOnce := x.state = .empty ∧ (x.plan = none ∨ ∃ p, x.plan = some p ∧ ∃ h, ∃ o ∈ (s.head h).queue,
        o.plan = some p ∧ o.action = .place ∧ o.location = some (.socket i) ∧
        (o.state = .pending ∨ o.state = .waitingZone))
      (x.state ≠ .off → ¬ atOnce →
        (∀ c, held = some c → exec (.socketDisable r) s = .next (respondTicket r c.ticket s)) ∧
        (held = none → 4 ≤ s.completions.length →
          exec (.socketDisable r) s =
            .next (respond r .busy { s with slotWanted := s.slotWanted || r.flags.getLsbD 0 })) ∧
        (held = none → s.completions.length < 4 → x.state ≠ .empty → ∃ (u : State) (t : Nat),
          exec (.socketDisable r) s = .next (finish (respondTicket r t u)) ∧ fresh t ∧
          u.completions = s.completions ++ [⟨t, 0x31, .socket i⟩] ∧ u.ticketCounter = t ∧
          (x.pendingDisable ≠ none →
            u = { s with completions := u.completions, ticketCounter := t }) ∧
          (x.pendingDisable = none →
            u.sockets[i].pendingDisable = some .request ∧
            (∀ j : Fin 64, j ≠ i → s.sockets[j].state ≠ .ready → u.sockets[j].state = s.sockets[j].state) ∧
            (x.state ≠ .ready → u.sockets[i].state = x.state) ∧
            (∀ h, ∀ o ∈ (u.head h).queue, o.isPending = true →
              ¬ (o.action = .place ∧ o.location = some (.socket i))) ∧
            ∀ p, u.recordAt p = s.recordAt p)))

/-- R74. SOCKET CLEAR clears a socket's fault flags and sets its fault count to 0 in any socket state, changes nothing else,
and is answered OK. -/
def Obligations.SocketClearResetsFaults : Prop :=
  ∀ (s : State) (r : Request) (i : Fin 64), s.hears r = true → r.fields.length = 1 → s.lotState ≠ .bypass →
    fieldAt r.fields 0 1 = i.val →
    ∃ u, exec (.socketClear r) s = .next (respondOk r [] u) ∧
      u.sockets[i] = { s.sockets[i] with faults := ⟨false, false, false, false⟩, faultCount := 0 } ∧
      (∀ j : Fin 64, j ≠ i → u.sockets[j] = s.sockets[j]) ∧ u = { s with sockets := u.sockets }

/-- R88, R90, R91, R92, R48. TRAY READY: a bin or tray that is none is answered RANGE 0, a tray that is neither ABSENT nor
FULL STATE, a bad geometry RANGE with the item that fails; otherwise the tray is READY with the geometry and no pocket
counted, and becomes the active tray of a bin that has none, which is then not blocked. TRAY WITHDRAW by the tray's state:
ABSENT is answered STATE, READY and FULL become ABSENT, CLOSING and an ACTIVE tray with a pocket outstanding are BUSY, and an
ACTIVE tray with none becomes ABSENT and its bin's other tray takes over when it is READY; the bin is then not blocked, which
is the model's choice (DEDUCED from R90 and R92, log 29). -/
def Obligations.TrayRequestsFollowTrayState : Prop :=
  ∀ (s : State) (r : Request), s.hears r = true → s.lotState ≠ .bypass →
    (16 ≤ fieldAt r.fields 0 1 ∨ 2 ≤ fieldAt r.fields 1 1 →
      (r.fields.length = 17 → exec (.trayReady r) s = .next (respondRange r 0 s)) ∧
      (r.fields.length = 2 → exec (.trayWithdraw r) s = .next (respondRange r 0 s))) ∧
    ∀ (b : Fin 16) (y : TrayId), fieldAt r.fields 0 1 = b.val → fieldAt r.fields 1 1 = y.num →
      let x := s.bins[b].tray y
      let f := fieldAt r.fields
      let g : TrayGeometry := ⟨f 2 4, f 6 4, f 10 1, f 11 1, f 12 2, f 14 2, if f 16 1 = 0 then .row else .serpentine⟩
      let onlyBin (u : State) : Prop :=
        u = { s with bins := u.bins } ∧ (∀ c : Fin 16, c ≠ b → u.bins[c] = s.bins[c])
      (r.fields.length = 17 →
        (x.state ≠ .absent → x.state ≠ .full → exec (.trayReady r) s = .next (respond r .state s)) ∧
        (x.state = .absent ∨ x.state = .full →
          (2 ≤ f 16 1 → exec (.trayReady r) s = .next (respondRange r 0 s)) ∧
          (f 16 1 ≤ 1 → ∀ i, trayFailure s g = some i → exec (.trayReady r) s = .next (respondRange r i s)) ∧
          (f 16 1 ≤ 1 → trayFailure s g = none → s.bins[b].active ≠ none →
            ∃ u, exec (.trayReady r) s = .next (respondOk r [] u) ∧ onlyBin u ∧
              u.bins[b] = s.bins[b].setTray y ⟨.ready, some g, 0, 0, 0⟩) ∧
          (f 16 1 ≤ 1 → trayFailure s g = none → s.bins[b].active = none →
            ∃ u, exec (.trayReady r) s = .next (respondOk r [] (opportunityBoth u)) ∧ onlyBin u ∧
              u.bins[b] = { s.bins[b].setTray y ⟨.active, some g, 0, 0, 0⟩ with
                active := some y, blocked := false }))) ∧
      (r.fields.length = 2 →
        (x.state = .absent → exec (.trayWithdraw r) s = .next (respond r .state s)) ∧
        (x.state = .closing ∨ x.state = .active ∧ x.allocated - x.placed - x.holes ≠ 0 →
          exec (.trayWithdraw r) s = .next (respond r .busy s)) ∧
        (x.state = .ready ∨ x.state = .full →
          ∃ u, exec (.trayWithdraw r) s = .next (respondOk r [] u) ∧ onlyBin u ∧
            u.bins[b] = s.bins[b].setTray y ⟨.absent, none, 0, 0, 0⟩) ∧
        (x.state = .active → x.allocated - x.placed - x.holes = 0 →
          ((s.bins[b].tray y.other).state ≠ .ready →
            ∃ u, exec (.trayWithdraw r) s = .next (respondOk r [] u) ∧ onlyBin u ∧
              u.bins[b] = { s.bins[b].setTray y ⟨.absent, none, 0, 0, 0⟩ with active := none }) ∧
          ((s.bins[b].tray y.other).state = .ready →
            ∃ u, exec (.trayWithdraw r) s = .next (respondOk r [] (opportunityBoth u)) ∧ onlyBin u ∧
              u.bins[b] = { (s.bins[b].setTray y ⟨.absent, none, 0, 0, 0⟩).setTray y.other
                { s.bins[b].tray y.other with state := .active } with active := some y.other, blocked := false })))

/-- R130, R138, R163, R164. HEAD RECOVER in a lot: a head above 1 is answered RANGE 0 and a mode above 1 RANGE 1; a READY head
STATE; a RECOVERING head the ticket it has; with a full list BUSY. Otherwise HEAD CONTROL with the mode goes to the head's
controller, and the head is RECOVERING under a new ticket, with its recover timer at 10,000 and its holdings widened, its
orders, nozzles and the other head being as they were. The grants of the step follow the response (DESIGN CHOICE, logs 7 and
9). -/
def Obligations.HeadRecoverBeginsRecovery : Prop :=
  ∀ (s : State) (r : Request), s.hears r = true → r.fields.length = 2 → s.lotState ∈ [.run, .pause, .drain] →
    let mode := fieldAt r.fields 1 1
    (2 ≤ fieldAt r.fields 0 1 → exec (.headRecover r) s = .next (respondRange r 0 s)) ∧
    (fieldAt r.fields 0 1 ≤ 1 → 2 ≤ mode → exec (.headRecover r) s = .next (respondRange r 1 s)) ∧
    ∀ h : Head, fieldAt r.fields 0 1 = h.num → mode ≤ 1 →
      ((s.head h).state = .ready → exec (.headRecover r) s = .next (respond r .state s)) ∧
      (∀ t, (s.head h).state = .recovering → (s.head h).ticket = some t →
        exec (.headRecover r) s = .next (respondTicket r t s)) ∧
      ((s.head h).state = .offline ∨ (s.head h).state = .stopped →
        (4 ≤ s.completions.length → exec (.headRecover r) s =
          .next (respond r .busy { s with slotWanted := s.slotWanted || r.flags.getLsbD 0 })) ∧
        (s.completions.length < 4 → ∃ (u : State) (t : Nat),
          exec (.headRecover r) s = .next (finish (respondTicket r t u)) ∧
          1 ≤ t ∧ t ≤ 255 ∧ (∀ c ∈ s.completions, c.ticket ≠ t) ∧
          u = { produce .downstream (s.nodeAddress (match h with | .west => 2 | .east => 3)) 0x33 [byte mode] s with
            heads := u.heads, timers := u.timers, points := u.points, completions := s.completions ++ [⟨t, 0x50, .head h⟩]
            ticketCounter := t } ∧
          u.head h = { s.head h with
            state := .recovering, ticket := some t, base := none
            holdings := match h with
              | .west => ⟨0, max (s.head .west).holdings.hi (min 6 ((s.head .east).holdings.lo - 2))⟩
              | .east => ⟨min (s.head .east).holdings.lo (max 9 ((s.head .west).holdings.hi + 2)), 15⟩ } ∧
          u.head h.other = s.head h.other ∧ u.timer (.recover h) = .running 10000 ∧
          ∀ id, id ≠ .recover h → u.timer id = s.timer id))

/-- R31, R35, R36, R68. PART PURGE and LOCATE select a record by index, by tag or by place; a selector out of range is
answered RANGE 0, one that names no record in use NOT_FOUND. LOCATE answers the record's index, tag, place and place state,
attempts, disposition and the head of its plan, and changes nothing. PART PURGE
answers STATE for a device in a TESTING or EMPTYING socket and BUSY for a reserved one; otherwise the device leaves custody,
is counted as removed, its place is empty, its index and tag are the answer, and a socket without pending-disable is EMPTY
with its soak timer CLEAR if it was SOAKING. The grants and the COMPLETION of the drain follow the response (DESIGN CHOICE, logs
7 and 9), and the high bytes of a PLACE selector are not read (log 18). -/
def Obligations.PurgeAndLocateSelectedRecord : Prop :=
  ∀ (s : State) (r : Request), s.hears r = true → r.fields.length = 5 → s.lotState ≠ .bypass →
    let kind := fieldAt r.fields 0 1
    let value := fieldAt r.fields 1 4
    let place := Place.ofCode (fieldAt r.fields 1 1) (fieldAt r.fields 2 1)
    let names (k : Fin 96) (x : PartRecord) : Prop := s.parts[k] = some x ∧
      (kind = 0 ∧ value = k.val ∨
        kind = 1 ∧ value ≠ 0 ∧ x.tag = value ∧ (∀ (j : Fin 96) (y : PartRecord), j < k → s.parts[j] = some y → y.tag ≠ value) ∨
        kind = 2 ∧ ∃ p, place = some p ∧ s.recordAt p = some k)
    (2 < kind ∨ kind = 0 ∧ 96 ≤ value ∨ kind = 1 ∧ value = 0 ∨ kind = 2 ∧ place = none →
      exec (.partPurge r) s = .next (respondRange r 0 s) ∧ exec (.locate r) s = .next (respondRange r 0 s)) ∧
    ((∃ k : Fin 96, kind = 0 ∧ value = k.val ∧ s.parts[k] = none) ∨
      (kind = 1 ∧ value ≠ 0 ∧ ∀ (k : Fin 96) (x : PartRecord), s.parts[k] = some x → x.tag ≠ value) ∨
      (kind = 2 ∧ ∃ p, place = some p ∧ s.recordAt p = none) →
      exec (.partPurge r) s = .next (respond r .notFound s) ∧ exec (.locate r) s = .next (respond r .notFound s)) ∧
    ∀ (k : Fin 96) (x : PartRecord), names k x →
      exec (.locate r) s = .next (respondOk r
        ([byte k.val] ++ leBytes 4 x.tag ++
          (match x.place with
            | .socket i => [0, byte i.val]
            | .nozzle h n => [1, byte (4 * h.num + n.val)]
            | .input i => [2, byte i.val]
            | .retest i => [3, byte i.val]) ++
          [match x.place with
            | .socket i => byte s.sockets[i].state.num
            | .nozzle h n => if (s.head h).nozzles[n].blocked then 1 else 0
            | .input i => if s.inputs[i].record ≠ none then 1 else if s.inputs[i].taken ≠ none then 2 else 0
            | .retest i => if s.retests[i].record ≠ none then 1 else 0] ++
          [byte x.attempts.length] ++ x.attempts.flatMap (fun a => [byte a.1.val, a.2]) ++
          List.replicate (6 - 2 * x.attempts.length) 0xFF ++
          [match x.disposition with
            | .bin b => byte b.val
            | .retest => 16
            | .hold => 17
            | .none => 255] ++
          [match s.plans.find? fun p => some p.id == x.plan with
            | some p => byte p.head.num
            | none => 255]) s) ∧
      let barred := ∃ i, x.place = .socket i ∧ (s.sockets[i].state = .testing ∨ s.sockets[i].state = .emptying)
      (barred → exec (.partPurge r) s = .next (respond r .state s)) ∧
      (¬ barred → x.plan ≠ none → exec (.partPurge r) s = .next (respond r .busy s)) ∧
      (¬ barred → x.plan = none → s.recordAt x.place = some k →
        ∃ u, exec (.partPurge r) s = .next (finish (respondOk r (byte k.val :: leBytes 4 x.tag) u)) ∧
          u.parts[k] = none ∧ u.recordAt x.place = none ∧ (∀ p, p ≠ x.place → u.recordAt p = s.recordAt p) ∧
          u.counters.removed = min (s.counters.removed + 1) 4294967295 ∧
          ((∀ i, x.place = .socket i → s.sockets[i].pendingDisable = none) →
            (∀ j : Fin 96, j ≠ k → u.parts[j] = s.parts[j]) ∧ u.upstream = s.upstream ∧ u.downstream = s.downstream ∧
            u.counters = { s.counters with removed := u.counters.removed } ∧
            (∀ i : Fin 64, u.sockets[i] =
              if x.place = .socket i then { s.sockets[i] with record := none, state := .empty } else s.sockets[i]) ∧
            (∀ (i : Fin 64), x.place = .socket i → s.sockets[i].state = .soaking → u.timer (.soak i) = .clear) ∧
            (∀ (h : Head) (n : Fin 4), (u.head h).nozzles[n] =
              if x.place = .nozzle h n then { (s.head h).nozzles[n] with record := none }
              else (s.head h).nozzles[n])))

/-! ## Laws every step keeps -/

/-- R10, R11, R12, R21, R22, R54, R57, R148, R152, R163, R171. Every step keeps each of six laws of the device: no queue of the
link holds more than its capacity; the completion list holds at most 4 entries with pairwise different tickets in 1..255; a
free-running timer is never HELD and a gated timer is RUNNING only in RUN and DRAIN and HELD only outside them; an event
record has a first detail and a count of 1..65,535 exactly while it is pending; a record that a custody place holds is in use
and names that place, so that no two places hold one record, and the tags in use are pairwise different; and a TESTING socket
has its watchdog started and a SOAKING one its soak timer. -/
def Obligations.StepKeepsLaws : Prop :=
  ∀ s t : State, step s = .next t →
    (s.linkBounded → t.linkBounded) ∧ (s.ticketsLawful → t.ticketsLawful) ∧ (s.timersLawful → t.timersLawful) ∧
    (s.eventsLawful → t.eventsLawful) ∧ (s.custodyLawful → t.custodyLawful) ∧ (s.testsTimed → t.testsTimed)

/-- R10, R11, R12, R21, R57, R86, R115, R136, R145, R148, R163, R171. The state after power-on keeps the laws of the link,
the completion list, the timers, the event records, custody, the tests, the order queues, the trays and the rail. -/
def Obligations.PowerOnStateLawful : Prop :=
  State.reset.linkBounded ∧ State.reset.ticketsLawful ∧ State.reset.timersLawful ∧ State.reset.eventsLawful ∧
    State.reset.custodyLawful ∧ State.reset.testsTimed ∧ State.reset.queuesLawful ∧ State.reset.traysLawful ∧
    State.reset.railLawful
end

