-- ==== Sys2Proof/Laws/State.lean ====
section
/-! SUPPORT. What each update of the state leaves as it was: one lemma for each field it does not touch; and what it gives
in the place it does. -/

namespace Sys2Proof.Machine

/-! ## State.setPort -/

@[simp] theorem State.setPort_resetLow (s : State) (p : Port) (x : PortState) :
    (s.setPort p x).resetLow = s.resetLow := by cases p <;> rfl
@[simp] theorem State.setPort_ownAddress (s : State) (p : Port) (x : PortState) :
    (s.setPort p x).ownAddress = s.ownAddress := by cases p <;> rfl
@[simp] theorem State.setPort_node (s : State) (p : Port) (x : PortState) :
    (s.setPort p x).node = s.node := by cases p <;> rfl
@[simp] theorem State.setPort_forwarding (s : State) (p : Port) (x : PortState) :
    (s.setPort p x).forwarding = s.forwarding := by cases p <;> rfl
@[simp] theorem State.setPort_parts (s : State) (p : Port) (x : PortState) :
    (s.setPort p x).parts = s.parts := by cases p <;> rfl
@[simp] theorem State.setPort_inputs (s : State) (p : Port) (x : PortState) :
    (s.setPort p x).inputs = s.inputs := by cases p <;> rfl
@[simp] theorem State.setPort_retests (s : State) (p : Port) (x : PortState) :
    (s.setPort p x).retests = s.retests := by cases p <;> rfl
@[simp] theorem State.setPort_siteGeometry (s : State) (p : Port) (x : PortState) :
    (s.setPort p x).siteGeometry = s.siteGeometry := by cases p <;> rfl
@[simp] theorem State.setPort_deck (s : State) (p : Port) (x : PortState) :
    (s.setPort p x).deck = s.deck := by cases p <;> rfl
@[simp] theorem State.setPort_nozzleTable (s : State) (p : Port) (x : PortState) :
    (s.setPort p x).nozzleTable = s.nozzleTable := by cases p <;> rfl
@[simp] theorem State.setPort_motion (s : State) (p : Port) (x : PortState) :
    (s.setPort p x).motion = s.motion := by cases p <;> rfl
@[simp] theorem State.setPort_sockets (s : State) (p : Port) (x : PortState) :
    (s.setPort p x).sockets = s.sockets := by cases p <;> rfl
@[simp] theorem State.setPort_groups (s : State) (p : Port) (x : PortState) :
    (s.setPort p x).groups = s.groups := by cases p <;> rfl
@[simp] theorem State.setPort_binMap (s : State) (p : Port) (x : PortState) :
    (s.setPort p x).binMap = s.binMap := by cases p <;> rfl
@[simp] theorem State.setPort_binPolicy (s : State) (p : Port) (x : PortState) :
    (s.setPort p x).binPolicy = s.binPolicy := by cases p <;> rfl
@[simp] theorem State.setPort_bins (s : State) (p : Port) (x : PortState) :
    (s.setPort p x).bins = s.bins := by cases p <;> rfl
@[simp] theorem State.setPort_heads (s : State) (p : Port) (x : PortState) :
    (s.setPort p x).heads = s.heads := by cases p <;> rfl
@[simp] theorem State.setPort_plans (s : State) (p : Port) (x : PortState) :
    (s.setPort p x).plans = s.plans := by cases p <;> rfl
@[simp] theorem State.setPort_planCount (s : State) (p : Port) (x : PortState) :
    (s.setPort p x).planCount = s.planCount := by cases p <;> rfl
@[simp] theorem State.setPort_points (s : State) (p : Port) (x : PortState) :
    (s.setPort p x).points = s.points := by cases p <;> rfl
@[simp] theorem State.setPort_timers (s : State) (p : Port) (x : PortState) :
    (s.setPort p x).timers = s.timers := by cases p <;> rfl
@[simp] theorem State.setPort_lotClock (s : State) (p : Port) (x : PortState) :
    (s.setPort p x).lotClock = s.lotClock := by cases p <;> rfl
@[simp] theorem State.setPort_timebase (s : State) (p : Port) (x : PortState) :
    (s.setPort p x).timebase = s.timebase := by cases p <;> rfl
@[simp] theorem State.setPort_tickFactors (s : State) (p : Port) (x : PortState) :
    (s.setPort p x).tickFactors = s.tickFactors := by cases p <;> rfl
@[simp] theorem State.setPort_prescaleCount (s : State) (p : Port) (x : PortState) :
    (s.setPort p x).prescaleCount = s.prescaleCount := by cases p <;> rfl
@[simp] theorem State.setPort_divideCount (s : State) (p : Port) (x : PortState) :
    (s.setPort p x).divideCount = s.divideCount := by cases p <;> rfl
@[simp] theorem State.setPort_lotState (s : State) (p : Port) (x : PortState) :
    (s.setPort p x).lotState = s.lotState := by cases p <;> rfl
@[simp] theorem State.setPort_remembered (s : State) (p : Port) (x : PortState) :
    (s.setPort p x).remembered = s.remembered := by cases p <;> rfl
@[simp] theorem State.setPort_completions (s : State) (p : Port) (x : PortState) :
    (s.setPort p x).completions = s.completions := by cases p <;> rfl
@[simp] theorem State.setPort_ticketCounter (s : State) (p : Port) (x : PortState) :
    (s.setPort p x).ticketCounter = s.ticketCounter := by cases p <;> rfl
@[simp] theorem State.setPort_slotWanted (s : State) (p : Port) (x : PortState) :
    (s.setPort p x).slotWanted = s.slotWanted := by cases p <;> rfl
@[simp] theorem State.setPort_cursors (s : State) (p : Port) (x : PortState) :
    (s.setPort p x).cursors = s.cursors := by cases p <;> rfl
@[simp] theorem State.setPort_lotTable (s : State) (p : Port) (x : PortState) :
    (s.setPort p x).lotTable = s.lotTable := by cases p <;> rfl
@[simp] theorem State.setPort_serviceList (s : State) (p : Port) (x : PortState) :
    (s.setPort p x).serviceList = s.serviceList := by cases p <;> rfl
@[simp] theorem State.setPort_events (s : State) (p : Port) (x : PortState) :
    (s.setPort p x).events = s.events := by cases p <;> rfl
@[simp] theorem State.setPort_eventMask (s : State) (p : Port) (x : PortState) :
    (s.setPort p x).eventMask = s.eventMask := by cases p <;> rfl
@[simp] theorem State.setPort_counters (s : State) (p : Port) (x : PortState) :
    (s.setPort p x).counters = s.counters := by cases p <;> rfl
@[simp] theorem State.setPort_draws (s : State) (p : Port) (x : PortState) :
    (s.setPort p x).draws = s.draws := by cases p <;> rfl
@[simp] theorem State.setPort_pending (s : State) (p : Port) (x : PortState) :
    (s.setPort p x).pending = s.pending := by cases p <;> rfl

/-! ## State.setHead -/

@[simp] theorem State.setHead_resetLow (s : State) (h : Head) (x : HeadRecord) :
    (s.setHead h x).resetLow = s.resetLow := rfl
@[simp] theorem State.setHead_ownAddress (s : State) (h : Head) (x : HeadRecord) :
    (s.setHead h x).ownAddress = s.ownAddress := rfl
@[simp] theorem State.setHead_upstream (s : State) (h : Head) (x : HeadRecord) :
    (s.setHead h x).upstream = s.upstream := rfl
@[simp] theorem State.setHead_downstream (s : State) (h : Head) (x : HeadRecord) :
    (s.setHead h x).downstream = s.downstream := rfl
@[simp] theorem State.setHead_node (s : State) (h : Head) (x : HeadRecord) :
    (s.setHead h x).node = s.node := rfl
@[simp] theorem State.setHead_forwarding (s : State) (h : Head) (x : HeadRecord) :
    (s.setHead h x).forwarding = s.forwarding := rfl
@[simp] theorem State.setHead_parts (s : State) (h : Head) (x : HeadRecord) :
    (s.setHead h x).parts = s.parts := rfl
@[simp] theorem State.setHead_inputs (s : State) (h : Head) (x : HeadRecord) :
    (s.setHead h x).inputs = s.inputs := rfl
@[simp] theorem State.setHead_retests (s : State) (h : Head) (x : HeadRecord) :
    (s.setHead h x).retests = s.retests := rfl
@[simp] theorem State.setHead_siteGeometry (s : State) (h : Head) (x : HeadRecord) :
    (s.setHead h x).siteGeometry = s.siteGeometry := rfl
@[simp] theorem State.setHead_deck (s : State) (h : Head) (x : HeadRecord) :
    (s.setHead h x).deck = s.deck := rfl
@[simp] theorem State.setHead_nozzleTable (s : State) (h : Head) (x : HeadRecord) :
    (s.setHead h x).nozzleTable = s.nozzleTable := rfl
@[simp] theorem State.setHead_motion (s : State) (h : Head) (x : HeadRecord) :
    (s.setHead h x).motion = s.motion := rfl
@[simp] theorem State.setHead_sockets (s : State) (h : Head) (x : HeadRecord) :
    (s.setHead h x).sockets = s.sockets := rfl
@[simp] theorem State.setHead_groups (s : State) (h : Head) (x : HeadRecord) :
    (s.setHead h x).groups = s.groups := rfl
@[simp] theorem State.setHead_binMap (s : State) (h : Head) (x : HeadRecord) :
    (s.setHead h x).binMap = s.binMap := rfl
@[simp] theorem State.setHead_binPolicy (s : State) (h : Head) (x : HeadRecord) :
    (s.setHead h x).binPolicy = s.binPolicy := rfl
@[simp] theorem State.setHead_bins (s : State) (h : Head) (x : HeadRecord) :
    (s.setHead h x).bins = s.bins := rfl
@[simp] theorem State.setHead_plans (s : State) (h : Head) (x : HeadRecord) :
    (s.setHead h x).plans = s.plans := rfl
@[simp] theorem State.setHead_planCount (s : State) (h : Head) (x : HeadRecord) :
    (s.setHead h x).planCount = s.planCount := rfl
@[simp] theorem State.setHead_points (s : State) (h : Head) (x : HeadRecord) :
    (s.setHead h x).points = s.points := rfl
@[simp] theorem State.setHead_timers (s : State) (h : Head) (x : HeadRecord) :
    (s.setHead h x).timers = s.timers := rfl
@[simp] theorem State.setHead_lotClock (s : State) (h : Head) (x : HeadRecord) :
    (s.setHead h x).lotClock = s.lotClock := rfl
@[simp] theorem State.setHead_timebase (s : State) (h : Head) (x : HeadRecord) :
    (s.setHead h x).timebase = s.timebase := rfl
@[simp] theorem State.setHead_tickFactors (s : State) (h : Head) (x : HeadRecord) :
    (s.setHead h x).tickFactors = s.tickFactors := rfl
@[simp] theorem State.setHead_prescaleCount (s : State) (h : Head) (x : HeadRecord) :
    (s.setHead h x).prescaleCount = s.prescaleCount := rfl
@[simp] theorem State.setHead_divideCount (s : State) (h : Head) (x : HeadRecord) :
    (s.setHead h x).divideCount = s.divideCount := rfl
@[simp] theorem State.setHead_lotState (s : State) (h : Head) (x : HeadRecord) :
    (s.setHead h x).lotState = s.lotState := rfl
@[simp] theorem State.setHead_remembered (s : State) (h : Head) (x : HeadRecord) :
    (s.setHead h x).remembered = s.remembered := rfl
@[simp] theorem State.setHead_completions (s : State) (h : Head) (x : HeadRecord) :
    (s.setHead h x).completions = s.completions := rfl
@[simp] theorem State.setHead_ticketCounter (s : State) (h : Head) (x : HeadRecord) :
    (s.setHead h x).ticketCounter = s.ticketCounter := rfl
@[simp] theorem State.setHead_slotWanted (s : State) (h : Head) (x : HeadRecord) :
    (s.setHead h x).slotWanted = s.slotWanted := rfl
@[simp] theorem State.setHead_cursors (s : State) (h : Head) (x : HeadRecord) :
    (s.setHead h x).cursors = s.cursors := rfl
@[simp] theorem State.setHead_lotTable (s : State) (h : Head) (x : HeadRecord) :
    (s.setHead h x).lotTable = s.lotTable := rfl
@[simp] theorem State.setHead_serviceList (s : State) (h : Head) (x : HeadRecord) :
    (s.setHead h x).serviceList = s.serviceList := rfl
@[simp] theorem State.setHead_events (s : State) (h : Head) (x : HeadRecord) :
    (s.setHead h x).events = s.events := rfl
@[simp] theorem State.setHead_eventMask (s : State) (h : Head) (x : HeadRecord) :
    (s.setHead h x).eventMask = s.eventMask := rfl
@[simp] theorem State.setHead_counters (s : State) (h : Head) (x : HeadRecord) :
    (s.setHead h x).counters = s.counters := rfl
@[simp] theorem State.setHead_draws (s : State) (h : Head) (x : HeadRecord) :
    (s.setHead h x).draws = s.draws := rfl
@[simp] theorem State.setHead_pending (s : State) (h : Head) (x : HeadRecord) :
    (s.setHead h x).pending = s.pending := rfl

/-! ## State.modHead -/

@[simp] theorem State.modHead_resetLow (s : State) (h : Head) (f : HeadRecord → HeadRecord) :
    (s.modHead h f).resetLow = s.resetLow := rfl
@[simp] theorem State.modHead_ownAddress (s : State) (h : Head) (f : HeadRecord → HeadRecord) :
    (s.modHead h f).ownAddress = s.ownAddress := rfl
@[simp] theorem State.modHead_upstream (s : State) (h : Head) (f : HeadRecord → HeadRecord) :
    (s.modHead h f).upstream = s.upstream := rfl
@[simp] theorem State.modHead_downstream (s : State) (h : Head) (f : HeadRecord → HeadRecord) :
    (s.modHead h f).downstream = s.downstream := rfl
@[simp] theorem State.modHead_node (s : State) (h : Head) (f : HeadRecord → HeadRecord) :
    (s.modHead h f).node = s.node := rfl
@[simp] theorem State.modHead_forwarding (s : State) (h : Head) (f : HeadRecord → HeadRecord) :
    (s.modHead h f).forwarding = s.forwarding := rfl
@[simp] theorem State.modHead_parts (s : State) (h : Head) (f : HeadRecord → HeadRecord) :
    (s.modHead h f).parts = s.parts := rfl
@[simp] theorem State.modHead_inputs (s : State) (h : Head) (f : HeadRecord → HeadRecord) :
    (s.modHead h f).inputs = s.inputs := rfl
@[simp] theorem State.modHead_retests (s : State) (h : Head) (f : HeadRecord → HeadRecord) :
    (s.modHead h f).retests = s.retests := rfl
@[simp] theorem State.modHead_siteGeometry (s : State) (h : Head) (f : HeadRecord → HeadRecord) :
    (s.modHead h f).siteGeometry = s.siteGeometry := rfl
@[simp] theorem State.modHead_deck (s : State) (h : Head) (f : HeadRecord → HeadRecord) :
    (s.modHead h f).deck = s.deck := rfl
@[simp] theorem State.modHead_nozzleTable (s : State) (h : Head) (f : HeadRecord → HeadRecord) :
    (s.modHead h f).nozzleTable = s.nozzleTable := rfl
@[simp] theorem State.modHead_motion (s : State) (h : Head) (f : HeadRecord → HeadRecord) :
    (s.modHead h f).motion = s.motion := rfl
@[simp] theorem State.modHead_sockets (s : State) (h : Head) (f : HeadRecord → HeadRecord) :
    (s.modHead h f).sockets = s.sockets := rfl
@[simp] theorem State.modHead_groups (s : State) (h : Head) (f : HeadRecord → HeadRecord) :
    (s.modHead h f).groups = s.groups := rfl
@[simp] theorem State.modHead_binMap (s : State) (h : Head) (f : HeadRecord → HeadRecord) :
    (s.modHead h f).binMap = s.binMap := rfl
@[simp] theorem State.modHead_binPolicy (s : State) (h : Head) (f : HeadRecord → HeadRecord) :
    (s.modHead h f).binPolicy = s.binPolicy := rfl
@[simp] theorem State.modHead_bins (s : State) (h : Head) (f : HeadRecord → HeadRecord) :
    (s.modHead h f).bins = s.bins := rfl
@[simp] theorem State.modHead_plans (s : State) (h : Head) (f : HeadRecord → HeadRecord) :
    (s.modHead h f).plans = s.plans := rfl
@[simp] theorem State.modHead_planCount (s : State) (h : Head) (f : HeadRecord → HeadRecord) :
    (s.modHead h f).planCount = s.planCount := rfl
@[simp] theorem State.modHead_points (s : State) (h : Head) (f : HeadRecord → HeadRecord) :
    (s.modHead h f).points = s.points := rfl
@[simp] theorem State.modHead_timers (s : State) (h : Head) (f : HeadRecord → HeadRecord) :
    (s.modHead h f).timers = s.timers := rfl
@[simp] theorem State.modHead_lotClock (s : State) (h : Head) (f : HeadRecord → HeadRecord) :
    (s.modHead h f).lotClock = s.lotClock := rfl
@[simp] theorem State.modHead_timebase (s : State) (h : Head) (f : HeadRecord → HeadRecord) :
    (s.modHead h f).timebase = s.timebase := rfl
@[simp] theorem State.modHead_tickFactors (s : State) (h : Head) (f : HeadRecord → HeadRecord) :
    (s.modHead h f).tickFactors = s.tickFactors := rfl
@[simp] theorem State.modHead_prescaleCount (s : State) (h : Head) (f : HeadRecord → HeadRecord) :
    (s.modHead h f).prescaleCount = s.prescaleCount := rfl
@[simp] theorem State.modHead_divideCount (s : State) (h : Head) (f : HeadRecord → HeadRecord) :
    (s.modHead h f).divideCount = s.divideCount := rfl
@[simp] theorem State.modHead_lotState (s : State) (h : Head) (f : HeadRecord → HeadRecord) :
    (s.modHead h f).lotState = s.lotState := rfl
@[simp] theorem State.modHead_remembered (s : State) (h : Head) (f : HeadRecord → HeadRecord) :
    (s.modHead h f).remembered = s.remembered := rfl
@[simp] theorem State.modHead_completions (s : State) (h : Head) (f : HeadRecord → HeadRecord) :
    (s.modHead h f).completions = s.completions := rfl
@[simp] theorem State.modHead_ticketCounter (s : State) (h : Head) (f : HeadRecord → HeadRecord) :
    (s.modHead h f).ticketCounter = s.ticketCounter := rfl
@[simp] theorem State.modHead_slotWanted (s : State) (h : Head) (f : HeadRecord → HeadRecord) :
    (s.modHead h f).slotWanted = s.slotWanted := rfl
@[simp] theorem State.modHead_cursors (s : State) (h : Head) (f : HeadRecord → HeadRecord) :
    (s.modHead h f).cursors = s.cursors := rfl
@[simp] theorem State.modHead_lotTable (s : State) (h : Head) (f : HeadRecord → HeadRecord) :
    (s.modHead h f).lotTable = s.lotTable := rfl
@[simp] theorem State.modHead_serviceList (s : State) (h : Head) (f : HeadRecord → HeadRecord) :
    (s.modHead h f).serviceList = s.serviceList := rfl
@[simp] theorem State.modHead_events (s : State) (h : Head) (f : HeadRecord → HeadRecord) :
    (s.modHead h f).events = s.events := rfl
@[simp] theorem State.modHead_eventMask (s : State) (h : Head) (f : HeadRecord → HeadRecord) :
    (s.modHead h f).eventMask = s.eventMask := rfl
@[simp] theorem State.modHead_counters (s : State) (h : Head) (f : HeadRecord → HeadRecord) :
    (s.modHead h f).counters = s.counters := rfl
@[simp] theorem State.modHead_draws (s : State) (h : Head) (f : HeadRecord → HeadRecord) :
    (s.modHead h f).draws = s.draws := rfl
@[simp] theorem State.modHead_pending (s : State) (h : Head) (f : HeadRecord → HeadRecord) :
    (s.modHead h f).pending = s.pending := rfl

/-! ## State.modNozzle -/

@[simp] theorem State.modNozzle_resetLow (s : State) (h : Head) (n : Fin 4) (f : Nozzle → Nozzle) :
    (s.modNozzle h n f).resetLow = s.resetLow := rfl
@[simp] theorem State.modNozzle_ownAddress (s : State) (h : Head) (n : Fin 4) (f : Nozzle → Nozzle) :
    (s.modNozzle h n f).ownAddress = s.ownAddress := rfl
@[simp] theorem State.modNozzle_upstream (s : State) (h : Head) (n : Fin 4) (f : Nozzle → Nozzle) :
    (s.modNozzle h n f).upstream = s.upstream := rfl
@[simp] theorem State.modNozzle_downstream (s : State) (h : Head) (n : Fin 4) (f : Nozzle → Nozzle) :
    (s.modNozzle h n f).downstream = s.downstream := rfl
@[simp] theorem State.modNozzle_node (s : State) (h : Head) (n : Fin 4) (f : Nozzle → Nozzle) :
    (s.modNozzle h n f).node = s.node := rfl
@[simp] theorem State.modNozzle_forwarding (s : State) (h : Head) (n : Fin 4) (f : Nozzle → Nozzle) :
    (s.modNozzle h n f).forwarding = s.forwarding := rfl
@[simp] theorem State.modNozzle_parts (s : State) (h : Head) (n : Fin 4) (f : Nozzle → Nozzle) :
    (s.modNozzle h n f).parts = s.parts := rfl
@[simp] theorem State.modNozzle_inputs (s : State) (h : Head) (n : Fin 4) (f : Nozzle → Nozzle) :
    (s.modNozzle h n f).inputs = s.inputs := rfl
@[simp] theorem State.modNozzle_retests (s : State) (h : Head) (n : Fin 4) (f : Nozzle → Nozzle) :
    (s.modNozzle h n f).retests = s.retests := rfl
@[simp] theorem State.modNozzle_siteGeometry (s : State) (h : Head) (n : Fin 4) (f : Nozzle → Nozzle) :
    (s.modNozzle h n f).siteGeometry = s.siteGeometry := rfl
@[simp] theorem State.modNozzle_deck (s : State) (h : Head) (n : Fin 4) (f : Nozzle → Nozzle) :
    (s.modNozzle h n f).deck = s.deck := rfl
@[simp] theorem State.modNozzle_nozzleTable (s : State) (h : Head) (n : Fin 4) (f : Nozzle → Nozzle) :
    (s.modNozzle h n f).nozzleTable = s.nozzleTable := rfl
@[simp] theorem State.modNozzle_motion (s : State) (h : Head) (n : Fin 4) (f : Nozzle → Nozzle) :
    (s.modNozzle h n f).motion = s.motion := rfl
@[simp] theorem State.modNozzle_sockets (s : State) (h : Head) (n : Fin 4) (f : Nozzle → Nozzle) :
    (s.modNozzle h n f).sockets = s.sockets := rfl
@[simp] theorem State.modNozzle_groups (s : State) (h : Head) (n : Fin 4) (f : Nozzle → Nozzle) :
    (s.modNozzle h n f).groups = s.groups := rfl
@[simp] theorem State.modNozzle_binMap (s : State) (h : Head) (n : Fin 4) (f : Nozzle → Nozzle) :
    (s.modNozzle h n f).binMap = s.binMap := rfl
@[simp] theorem State.modNozzle_binPolicy (s : State) (h : Head) (n : Fin 4) (f : Nozzle → Nozzle) :
    (s.modNozzle h n f).binPolicy = s.binPolicy := rfl
@[simp] theorem State.modNozzle_bins (s : State) (h : Head) (n : Fin 4) (f : Nozzle → Nozzle) :
    (s.modNozzle h n f).bins = s.bins := rfl
@[simp] theorem State.modNozzle_plans (s : State) (h : Head) (n : Fin 4) (f : Nozzle → Nozzle) :
    (s.modNozzle h n f).plans = s.plans := rfl
@[simp] theorem State.modNozzle_planCount (s : State) (h : Head) (n : Fin 4) (f : Nozzle → Nozzle) :
    (s.modNozzle h n f).planCount = s.planCount := rfl
@[simp] theorem State.modNozzle_points (s : State) (h : Head) (n : Fin 4) (f : Nozzle → Nozzle) :
    (s.modNozzle h n f).points = s.points := rfl
@[simp] theorem State.modNozzle_timers (s : State) (h : Head) (n : Fin 4) (f : Nozzle → Nozzle) :
    (s.modNozzle h n f).timers = s.timers := rfl
@[simp] theorem State.modNozzle_lotClock (s : State) (h : Head) (n : Fin 4) (f : Nozzle → Nozzle) :
    (s.modNozzle h n f).lotClock = s.lotClock := rfl
@[simp] theorem State.modNozzle_timebase (s : State) (h : Head) (n : Fin 4) (f : Nozzle → Nozzle) :
    (s.modNozzle h n f).timebase = s.timebase := rfl
@[simp] theorem State.modNozzle_tickFactors (s : State) (h : Head) (n : Fin 4) (f : Nozzle → Nozzle) :
    (s.modNozzle h n f).tickFactors = s.tickFactors := rfl
@[simp] theorem State.modNozzle_prescaleCount (s : State) (h : Head) (n : Fin 4) (f : Nozzle → Nozzle) :
    (s.modNozzle h n f).prescaleCount = s.prescaleCount := rfl
@[simp] theorem State.modNozzle_divideCount (s : State) (h : Head) (n : Fin 4) (f : Nozzle → Nozzle) :
    (s.modNozzle h n f).divideCount = s.divideCount := rfl
@[simp] theorem State.modNozzle_lotState (s : State) (h : Head) (n : Fin 4) (f : Nozzle → Nozzle) :
    (s.modNozzle h n f).lotState = s.lotState := rfl
@[simp] theorem State.modNozzle_remembered (s : State) (h : Head) (n : Fin 4) (f : Nozzle → Nozzle) :
    (s.modNozzle h n f).remembered = s.remembered := rfl
@[simp] theorem State.modNozzle_completions (s : State) (h : Head) (n : Fin 4) (f : Nozzle → Nozzle) :
    (s.modNozzle h n f).completions = s.completions := rfl
@[simp] theorem State.modNozzle_ticketCounter (s : State) (h : Head) (n : Fin 4) (f : Nozzle → Nozzle) :
    (s.modNozzle h n f).ticketCounter = s.ticketCounter := rfl
@[simp] theorem State.modNozzle_slotWanted (s : State) (h : Head) (n : Fin 4) (f : Nozzle → Nozzle) :
    (s.modNozzle h n f).slotWanted = s.slotWanted := rfl
@[simp] theorem State.modNozzle_cursors (s : State) (h : Head) (n : Fin 4) (f : Nozzle → Nozzle) :
    (s.modNozzle h n f).cursors = s.cursors := rfl
@[simp] theorem State.modNozzle_lotTable (s : State) (h : Head) (n : Fin 4) (f : Nozzle → Nozzle) :
    (s.modNozzle h n f).lotTable = s.lotTable := rfl
@[simp] theorem State.modNozzle_serviceList (s : State) (h : Head) (n : Fin 4) (f : Nozzle → Nozzle) :
    (s.modNozzle h n f).serviceList = s.serviceList := rfl
@[simp] theorem State.modNozzle_events (s : State) (h : Head) (n : Fin 4) (f : Nozzle → Nozzle) :
    (s.modNozzle h n f).events = s.events := rfl
@[simp] theorem State.modNozzle_eventMask (s : State) (h : Head) (n : Fin 4) (f : Nozzle → Nozzle) :
    (s.modNozzle h n f).eventMask = s.eventMask := rfl
@[simp] theorem State.modNozzle_counters (s : State) (h : Head) (n : Fin 4) (f : Nozzle → Nozzle) :
    (s.modNozzle h n f).counters = s.counters := rfl
@[simp] theorem State.modNozzle_draws (s : State) (h : Head) (n : Fin 4) (f : Nozzle → Nozzle) :
    (s.modNozzle h n f).draws = s.draws := rfl
@[simp] theorem State.modNozzle_pending (s : State) (h : Head) (n : Fin 4) (f : Nozzle → Nozzle) :
    (s.modNozzle h n f).pending = s.pending := rfl

/-! ## State.modSocket -/

@[simp] theorem State.modSocket_resetLow (s : State) (i : Fin 64) (f : Socket → Socket) :
    (s.modSocket i f).resetLow = s.resetLow := rfl
@[simp] theorem State.modSocket_ownAddress (s : State) (i : Fin 64) (f : Socket → Socket) :
    (s.modSocket i f).ownAddress = s.ownAddress := rfl
@[simp] theorem State.modSocket_upstream (s : State) (i : Fin 64) (f : Socket → Socket) :
    (s.modSocket i f).upstream = s.upstream := rfl
@[simp] theorem State.modSocket_downstream (s : State) (i : Fin 64) (f : Socket → Socket) :
    (s.modSocket i f).downstream = s.downstream := rfl
@[simp] theorem State.modSocket_node (s : State) (i : Fin 64) (f : Socket → Socket) :
    (s.modSocket i f).node = s.node := rfl
@[simp] theorem State.modSocket_forwarding (s : State) (i : Fin 64) (f : Socket → Socket) :
    (s.modSocket i f).forwarding = s.forwarding := rfl
@[simp] theorem State.modSocket_parts (s : State) (i : Fin 64) (f : Socket → Socket) :
    (s.modSocket i f).parts = s.parts := rfl
@[simp] theorem State.modSocket_inputs (s : State) (i : Fin 64) (f : Socket → Socket) :
    (s.modSocket i f).inputs = s.inputs := rfl
@[simp] theorem State.modSocket_retests (s : State) (i : Fin 64) (f : Socket → Socket) :
    (s.modSocket i f).retests = s.retests := rfl
@[simp] theorem State.modSocket_siteGeometry (s : State) (i : Fin 64) (f : Socket → Socket) :
    (s.modSocket i f).siteGeometry = s.siteGeometry := rfl
@[simp] theorem State.modSocket_deck (s : State) (i : Fin 64) (f : Socket → Socket) :
    (s.modSocket i f).deck = s.deck := rfl
@[simp] theorem State.modSocket_nozzleTable (s : State) (i : Fin 64) (f : Socket → Socket) :
    (s.modSocket i f).nozzleTable = s.nozzleTable := rfl
@[simp] theorem State.modSocket_motion (s : State) (i : Fin 64) (f : Socket → Socket) :
    (s.modSocket i f).motion = s.motion := rfl
@[simp] theorem State.modSocket_groups (s : State) (i : Fin 64) (f : Socket → Socket) :
    (s.modSocket i f).groups = s.groups := rfl
@[simp] theorem State.modSocket_binMap (s : State) (i : Fin 64) (f : Socket → Socket) :
    (s.modSocket i f).binMap = s.binMap := rfl
@[simp] theorem State.modSocket_binPolicy (s : State) (i : Fin 64) (f : Socket → Socket) :
    (s.modSocket i f).binPolicy = s.binPolicy := rfl
@[simp] theorem State.modSocket_bins (s : State) (i : Fin 64) (f : Socket → Socket) :
    (s.modSocket i f).bins = s.bins := rfl
@[simp] theorem State.modSocket_heads (s : State) (i : Fin 64) (f : Socket → Socket) :
    (s.modSocket i f).heads = s.heads := rfl
@[simp] theorem State.modSocket_plans (s : State) (i : Fin 64) (f : Socket → Socket) :
    (s.modSocket i f).plans = s.plans := rfl
@[simp] theorem State.modSocket_planCount (s : State) (i : Fin 64) (f : Socket → Socket) :
    (s.modSocket i f).planCount = s.planCount := rfl
@[simp] theorem State.modSocket_points (s : State) (i : Fin 64) (f : Socket → Socket) :
    (s.modSocket i f).points = s.points := rfl
@[simp] theorem State.modSocket_timers (s : State) (i : Fin 64) (f : Socket → Socket) :
    (s.modSocket i f).timers = s.timers := rfl
@[simp] theorem State.modSocket_lotClock (s : State) (i : Fin 64) (f : Socket → Socket) :
    (s.modSocket i f).lotClock = s.lotClock := rfl
@[simp] theorem State.modSocket_timebase (s : State) (i : Fin 64) (f : Socket → Socket) :
    (s.modSocket i f).timebase = s.timebase := rfl
@[simp] theorem State.modSocket_tickFactors (s : State) (i : Fin 64) (f : Socket → Socket) :
    (s.modSocket i f).tickFactors = s.tickFactors := rfl
@[simp] theorem State.modSocket_prescaleCount (s : State) (i : Fin 64) (f : Socket → Socket) :
    (s.modSocket i f).prescaleCount = s.prescaleCount := rfl
@[simp] theorem State.modSocket_divideCount (s : State) (i : Fin 64) (f : Socket → Socket) :
    (s.modSocket i f).divideCount = s.divideCount := rfl
@[simp] theorem State.modSocket_lotState (s : State) (i : Fin 64) (f : Socket → Socket) :
    (s.modSocket i f).lotState = s.lotState := rfl
@[simp] theorem State.modSocket_remembered (s : State) (i : Fin 64) (f : Socket → Socket) :
    (s.modSocket i f).remembered = s.remembered := rfl
@[simp] theorem State.modSocket_completions (s : State) (i : Fin 64) (f : Socket → Socket) :
    (s.modSocket i f).completions = s.completions := rfl
@[simp] theorem State.modSocket_ticketCounter (s : State) (i : Fin 64) (f : Socket → Socket) :
    (s.modSocket i f).ticketCounter = s.ticketCounter := rfl
@[simp] theorem State.modSocket_slotWanted (s : State) (i : Fin 64) (f : Socket → Socket) :
    (s.modSocket i f).slotWanted = s.slotWanted := rfl
@[simp] theorem State.modSocket_cursors (s : State) (i : Fin 64) (f : Socket → Socket) :
    (s.modSocket i f).cursors = s.cursors := rfl
@[simp] theorem State.modSocket_lotTable (s : State) (i : Fin 64) (f : Socket → Socket) :
    (s.modSocket i f).lotTable = s.lotTable := rfl
@[simp] theorem State.modSocket_serviceList (s : State) (i : Fin 64) (f : Socket → Socket) :
    (s.modSocket i f).serviceList = s.serviceList := rfl
@[simp] theorem State.modSocket_events (s : State) (i : Fin 64) (f : Socket → Socket) :
    (s.modSocket i f).events = s.events := rfl
@[simp] theorem State.modSocket_eventMask (s : State) (i : Fin 64) (f : Socket → Socket) :
    (s.modSocket i f).eventMask = s.eventMask := rfl
@[simp] theorem State.modSocket_counters (s : State) (i : Fin 64) (f : Socket → Socket) :
    (s.modSocket i f).counters = s.counters := rfl
@[simp] theorem State.modSocket_draws (s : State) (i : Fin 64) (f : Socket → Socket) :
    (s.modSocket i f).draws = s.draws := rfl
@[simp] theorem State.modSocket_pending (s : State) (i : Fin 64) (f : Socket → Socket) :
    (s.modSocket i f).pending = s.pending := rfl

/-! ## State.modInput -/

@[simp] theorem State.modInput_resetLow (s : State) (i : Fin 8) (f : InputSlot → InputSlot) :
    (s.modInput i f).resetLow = s.resetLow := rfl
@[simp] theorem State.modInput_ownAddress (s : State) (i : Fin 8) (f : InputSlot → InputSlot) :
    (s.modInput i f).ownAddress = s.ownAddress := rfl
@[simp] theorem State.modInput_upstream (s : State) (i : Fin 8) (f : InputSlot → InputSlot) :
    (s.modInput i f).upstream = s.upstream := rfl
@[simp] theorem State.modInput_downstream (s : State) (i : Fin 8) (f : InputSlot → InputSlot) :
    (s.modInput i f).downstream = s.downstream := rfl
@[simp] theorem State.modInput_node (s : State) (i : Fin 8) (f : InputSlot → InputSlot) :
    (s.modInput i f).node = s.node := rfl
@[simp] theorem State.modInput_forwarding (s : State) (i : Fin 8) (f : InputSlot → InputSlot) :
    (s.modInput i f).forwarding = s.forwarding := rfl
@[simp] theorem State.modInput_parts (s : State) (i : Fin 8) (f : InputSlot → InputSlot) :
    (s.modInput i f).parts = s.parts := rfl
@[simp] theorem State.modInput_retests (s : State) (i : Fin 8) (f : InputSlot → InputSlot) :
    (s.modInput i f).retests = s.retests := rfl
@[simp] theorem State.modInput_siteGeometry (s : State) (i : Fin 8) (f : InputSlot → InputSlot) :
    (s.modInput i f).siteGeometry = s.siteGeometry := rfl
@[simp] theorem State.modInput_deck (s : State) (i : Fin 8) (f : InputSlot → InputSlot) :
    (s.modInput i f).deck = s.deck := rfl
@[simp] theorem State.modInput_nozzleTable (s : State) (i : Fin 8) (f : InputSlot → InputSlot) :
    (s.modInput i f).nozzleTable = s.nozzleTable := rfl
@[simp] theorem State.modInput_motion (s : State) (i : Fin 8) (f : InputSlot → InputSlot) :
    (s.modInput i f).motion = s.motion := rfl
@[simp] theorem State.modInput_sockets (s : State) (i : Fin 8) (f : InputSlot → InputSlot) :
    (s.modInput i f).sockets = s.sockets := rfl
@[simp] theorem State.modInput_groups (s : State) (i : Fin 8) (f : InputSlot → InputSlot) :
    (s.modInput i f).groups = s.groups := rfl
@[simp] theorem State.modInput_binMap (s : State) (i : Fin 8) (f : InputSlot → InputSlot) :
    (s.modInput i f).binMap = s.binMap := rfl
@[simp] theorem State.modInput_binPolicy (s : State) (i : Fin 8) (f : InputSlot → InputSlot) :
    (s.modInput i f).binPolicy = s.binPolicy := rfl
@[simp] theorem State.modInput_bins (s : State) (i : Fin 8) (f : InputSlot → InputSlot) :
    (s.modInput i f).bins = s.bins := rfl
@[simp] theorem State.modInput_heads (s : State) (i : Fin 8) (f : InputSlot → InputSlot) :
    (s.modInput i f).heads = s.heads := rfl
@[simp] theorem State.modInput_plans (s : State) (i : Fin 8) (f : InputSlot → InputSlot) :
    (s.modInput i f).plans = s.plans := rfl
@[simp] theorem State.modInput_planCount (s : State) (i : Fin 8) (f : InputSlot → InputSlot) :
    (s.modInput i f).planCount = s.planCount := rfl
@[simp] theorem State.modInput_points (s : State) (i : Fin 8) (f : InputSlot → InputSlot) :
    (s.modInput i f).points = s.points := rfl
@[simp] theorem State.modInput_timers (s : State) (i : Fin 8) (f : InputSlot → InputSlot) :
    (s.modInput i f).timers = s.timers := rfl
@[simp] theorem State.modInput_lotClock (s : State) (i : Fin 8) (f : InputSlot → InputSlot) :
    (s.modInput i f).lotClock = s.lotClock := rfl
@[simp] theorem State.modInput_timebase (s : State) (i : Fin 8) (f : InputSlot → InputSlot) :
    (s.modInput i f).timebase = s.timebase := rfl
@[simp] theorem State.modInput_tickFactors (s : State) (i : Fin 8) (f : InputSlot → InputSlot) :
    (s.modInput i f).tickFactors = s.tickFactors := rfl
@[simp] theorem State.modInput_prescaleCount (s : State) (i : Fin 8) (f : InputSlot → InputSlot) :
    (s.modInput i f).prescaleCount = s.prescaleCount := rfl
@[simp] theorem State.modInput_divideCount (s : State) (i : Fin 8) (f : InputSlot → InputSlot) :
    (s.modInput i f).divideCount = s.divideCount := rfl
@[simp] theorem State.modInput_lotState (s : State) (i : Fin 8) (f : InputSlot → InputSlot) :
    (s.modInput i f).lotState = s.lotState := rfl
@[simp] theorem State.modInput_remembered (s : State) (i : Fin 8) (f : InputSlot → InputSlot) :
    (s.modInput i f).remembered = s.remembered := rfl
@[simp] theorem State.modInput_completions (s : State) (i : Fin 8) (f : InputSlot → InputSlot) :
    (s.modInput i f).completions = s.completions := rfl
@[simp] theorem State.modInput_ticketCounter (s : State) (i : Fin 8) (f : InputSlot → InputSlot) :
    (s.modInput i f).ticketCounter = s.ticketCounter := rfl
@[simp] theorem State.modInput_slotWanted (s : State) (i : Fin 8) (f : InputSlot → InputSlot) :
    (s.modInput i f).slotWanted = s.slotWanted := rfl
@[simp] theorem State.modInput_cursors (s : State) (i : Fin 8) (f : InputSlot → InputSlot) :
    (s.modInput i f).cursors = s.cursors := rfl
@[simp] theorem State.modInput_lotTable (s : State) (i : Fin 8) (f : InputSlot → InputSlot) :
    (s.modInput i f).lotTable = s.lotTable := rfl
@[simp] theorem State.modInput_serviceList (s : State) (i : Fin 8) (f : InputSlot → InputSlot) :
    (s.modInput i f).serviceList = s.serviceList := rfl
@[simp] theorem State.modInput_events (s : State) (i : Fin 8) (f : InputSlot → InputSlot) :
    (s.modInput i f).events = s.events := rfl
@[simp] theorem State.modInput_eventMask (s : State) (i : Fin 8) (f : InputSlot → InputSlot) :
    (s.modInput i f).eventMask = s.eventMask := rfl
@[simp] theorem State.modInput_counters (s : State) (i : Fin 8) (f : InputSlot → InputSlot) :
    (s.modInput i f).counters = s.counters := rfl
@[simp] theorem State.modInput_draws (s : State) (i : Fin 8) (f : InputSlot → InputSlot) :
    (s.modInput i f).draws = s.draws := rfl
@[simp] theorem State.modInput_pending (s : State) (i : Fin 8) (f : InputSlot → InputSlot) :
    (s.modInput i f).pending = s.pending := rfl

/-! ## State.modRetest -/

@[simp] theorem State.modRetest_resetLow (s : State) (i : Fin 8) (f : RetestSlot → RetestSlot) :
    (s.modRetest i f).resetLow = s.resetLow := rfl
@[simp] theorem State.modRetest_ownAddress (s : State) (i : Fin 8) (f : RetestSlot → RetestSlot) :
    (s.modRetest i f).ownAddress = s.ownAddress := rfl
@[simp] theorem State.modRetest_upstream (s : State) (i : Fin 8) (f : RetestSlot → RetestSlot) :
    (s.modRetest i f).upstream = s.upstream := rfl
@[simp] theorem State.modRetest_downstream (s : State) (i : Fin 8) (f : RetestSlot → RetestSlot) :
    (s.modRetest i f).downstream = s.downstream := rfl
@[simp] theorem State.modRetest_node (s : State) (i : Fin 8) (f : RetestSlot → RetestSlot) :
    (s.modRetest i f).node = s.node := rfl
@[simp] theorem State.modRetest_forwarding (s : State) (i : Fin 8) (f : RetestSlot → RetestSlot) :
    (s.modRetest i f).forwarding = s.forwarding := rfl
@[simp] theorem State.modRetest_parts (s : State) (i : Fin 8) (f : RetestSlot → RetestSlot) :
    (s.modRetest i f).parts = s.parts := rfl
@[simp] theorem State.modRetest_inputs (s : State) (i : Fin 8) (f : RetestSlot → RetestSlot) :
    (s.modRetest i f).inputs = s.inputs := rfl
@[simp] theorem State.modRetest_siteGeometry (s : State) (i : Fin 8) (f : RetestSlot → RetestSlot) :
    (s.modRetest i f).siteGeometry = s.siteGeometry := rfl
@[simp] theorem State.modRetest_deck (s : State) (i : Fin 8) (f : RetestSlot → RetestSlot) :
    (s.modRetest i f).deck = s.deck := rfl
@[simp] theorem State.modRetest_nozzleTable (s : State) (i : Fin 8) (f : RetestSlot → RetestSlot) :
    (s.modRetest i f).nozzleTable = s.nozzleTable := rfl
@[simp] theorem State.modRetest_motion (s : State) (i : Fin 8) (f : RetestSlot → RetestSlot) :
    (s.modRetest i f).motion = s.motion := rfl
@[simp] theorem State.modRetest_sockets (s : State) (i : Fin 8) (f : RetestSlot → RetestSlot) :
    (s.modRetest i f).sockets = s.sockets := rfl
@[simp] theorem State.modRetest_groups (s : State) (i : Fin 8) (f : RetestSlot → RetestSlot) :
    (s.modRetest i f).groups = s.groups := rfl
@[simp] theorem State.modRetest_binMap (s : State) (i : Fin 8) (f : RetestSlot → RetestSlot) :
    (s.modRetest i f).binMap = s.binMap := rfl
@[simp] theorem State.modRetest_binPolicy (s : State) (i : Fin 8) (f : RetestSlot → RetestSlot) :
    (s.modRetest i f).binPolicy = s.binPolicy := rfl
@[simp] theorem State.modRetest_bins (s : State) (i : Fin 8) (f : RetestSlot → RetestSlot) :
    (s.modRetest i f).bins = s.bins := rfl
@[simp] theorem State.modRetest_heads (s : State) (i : Fin 8) (f : RetestSlot → RetestSlot) :
    (s.modRetest i f).heads = s.heads := rfl
@[simp] theorem State.modRetest_plans (s : State) (i : Fin 8) (f : RetestSlot → RetestSlot) :
    (s.modRetest i f).plans = s.plans := rfl
@[simp] theorem State.modRetest_planCount (s : State) (i : Fin 8) (f : RetestSlot → RetestSlot) :
    (s.modRetest i f).planCount = s.planCount := rfl
@[simp] theorem State.modRetest_points (s : State) (i : Fin 8) (f : RetestSlot → RetestSlot) :
    (s.modRetest i f).points = s.points := rfl
@[simp] theorem State.modRetest_timers (s : State) (i : Fin 8) (f : RetestSlot → RetestSlot) :
    (s.modRetest i f).timers = s.timers := rfl
@[simp] theorem State.modRetest_lotClock (s : State) (i : Fin 8) (f : RetestSlot → RetestSlot) :
    (s.modRetest i f).lotClock = s.lotClock := rfl
@[simp] theorem State.modRetest_timebase (s : State) (i : Fin 8) (f : RetestSlot → RetestSlot) :
    (s.modRetest i f).timebase = s.timebase := rfl
@[simp] theorem State.modRetest_tickFactors (s : State) (i : Fin 8) (f : RetestSlot → RetestSlot) :
    (s.modRetest i f).tickFactors = s.tickFactors := rfl
@[simp] theorem State.modRetest_prescaleCount (s : State) (i : Fin 8) (f : RetestSlot → RetestSlot) :
    (s.modRetest i f).prescaleCount = s.prescaleCount := rfl
@[simp] theorem State.modRetest_divideCount (s : State) (i : Fin 8) (f : RetestSlot → RetestSlot) :
    (s.modRetest i f).divideCount = s.divideCount := rfl
@[simp] theorem State.modRetest_lotState (s : State) (i : Fin 8) (f : RetestSlot → RetestSlot) :
    (s.modRetest i f).lotState = s.lotState := rfl
@[simp] theorem State.modRetest_remembered (s : State) (i : Fin 8) (f : RetestSlot → RetestSlot) :
    (s.modRetest i f).remembered = s.remembered := rfl
@[simp] theorem State.modRetest_completions (s : State) (i : Fin 8) (f : RetestSlot → RetestSlot) :
    (s.modRetest i f).completions = s.completions := rfl
@[simp] theorem State.modRetest_ticketCounter (s : State) (i : Fin 8) (f : RetestSlot → RetestSlot) :
    (s.modRetest i f).ticketCounter = s.ticketCounter := rfl
@[simp] theorem State.modRetest_slotWanted (s : State) (i : Fin 8) (f : RetestSlot → RetestSlot) :
    (s.modRetest i f).slotWanted = s.slotWanted := rfl
@[simp] theorem State.modRetest_cursors (s : State) (i : Fin 8) (f : RetestSlot → RetestSlot) :
    (s.modRetest i f).cursors = s.cursors := rfl
@[simp] theorem State.modRetest_lotTable (s : State) (i : Fin 8) (f : RetestSlot → RetestSlot) :
    (s.modRetest i f).lotTable = s.lotTable := rfl
@[simp] theorem State.modRetest_serviceList (s : State) (i : Fin 8) (f : RetestSlot → RetestSlot) :
    (s.modRetest i f).serviceList = s.serviceList := rfl
@[simp] theorem State.modRetest_events (s : State) (i : Fin 8) (f : RetestSlot → RetestSlot) :
    (s.modRetest i f).events = s.events := rfl
@[simp] theorem State.modRetest_eventMask (s : State) (i : Fin 8) (f : RetestSlot → RetestSlot) :
    (s.modRetest i f).eventMask = s.eventMask := rfl
@[simp] theorem State.modRetest_counters (s : State) (i : Fin 8) (f : RetestSlot → RetestSlot) :
    (s.modRetest i f).counters = s.counters := rfl
@[simp] theorem State.modRetest_draws (s : State) (i : Fin 8) (f : RetestSlot → RetestSlot) :
    (s.modRetest i f).draws = s.draws := rfl
@[simp] theorem State.modRetest_pending (s : State) (i : Fin 8) (f : RetestSlot → RetestSlot) :
    (s.modRetest i f).pending = s.pending := rfl

/-! ## State.setPart -/

@[simp] theorem State.setPart_resetLow (s : State) (i : Fin 96) (r : Option PartRecord) :
    (s.setPart i r).resetLow = s.resetLow := rfl
@[simp] theorem State.setPart_ownAddress (s : State) (i : Fin 96) (r : Option PartRecord) :
    (s.setPart i r).ownAddress = s.ownAddress := rfl
@[simp] theorem State.setPart_upstream (s : State) (i : Fin 96) (r : Option PartRecord) :
    (s.setPart i r).upstream = s.upstream := rfl
@[simp] theorem State.setPart_downstream (s : State) (i : Fin 96) (r : Option PartRecord) :
    (s.setPart i r).downstream = s.downstream := rfl
@[simp] theorem State.setPart_node (s : State) (i : Fin 96) (r : Option PartRecord) :
    (s.setPart i r).node = s.node := rfl
@[simp] theorem State.setPart_forwarding (s : State) (i : Fin 96) (r : Option PartRecord) :
    (s.setPart i r).forwarding = s.forwarding := rfl
@[simp] theorem State.setPart_inputs (s : State) (i : Fin 96) (r : Option PartRecord) :
    (s.setPart i r).inputs = s.inputs := rfl
@[simp] theorem State.setPart_retests (s : State) (i : Fin 96) (r : Option PartRecord) :
    (s.setPart i r).retests = s.retests := rfl
@[simp] theorem State.setPart_siteGeometry (s : State) (i : Fin 96) (r : Option PartRecord) :
    (s.setPart i r).siteGeometry = s.siteGeometry := rfl
@[simp] theorem State.setPart_deck (s : State) (i : Fin 96) (r : Option PartRecord) :
    (s.setPart i r).deck = s.deck := rfl
@[simp] theorem State.setPart_nozzleTable (s : State) (i : Fin 96) (r : Option PartRecord) :
    (s.setPart i r).nozzleTable = s.nozzleTable := rfl
@[simp] theorem State.setPart_motion (s : State) (i : Fin 96) (r : Option PartRecord) :
    (s.setPart i r).motion = s.motion := rfl
@[simp] theorem State.setPart_sockets (s : State) (i : Fin 96) (r : Option PartRecord) :
    (s.setPart i r).sockets = s.sockets := rfl
@[simp] theorem State.setPart_groups (s : State) (i : Fin 96) (r : Option PartRecord) :
    (s.setPart i r).groups = s.groups := rfl
@[simp] theorem State.setPart_binMap (s : State) (i : Fin 96) (r : Option PartRecord) :
    (s.setPart i r).binMap = s.binMap := rfl
@[simp] theorem State.setPart_binPolicy (s : State) (i : Fin 96) (r : Option PartRecord) :
    (s.setPart i r).binPolicy = s.binPolicy := rfl
@[simp] theorem State.setPart_bins (s : State) (i : Fin 96) (r : Option PartRecord) :
    (s.setPart i r).bins = s.bins := rfl
@[simp] theorem State.setPart_heads (s : State) (i : Fin 96) (r : Option PartRecord) :
    (s.setPart i r).heads = s.heads := rfl
@[simp] theorem State.setPart_plans (s : State) (i : Fin 96) (r : Option PartRecord) :
    (s.setPart i r).plans = s.plans := rfl
@[simp] theorem State.setPart_planCount (s : State) (i : Fin 96) (r : Option PartRecord) :
    (s.setPart i r).planCount = s.planCount := rfl
@[simp] theorem State.setPart_points (s : State) (i : Fin 96) (r : Option PartRecord) :
    (s.setPart i r).points = s.points := rfl
@[simp] theorem State.setPart_timers (s : State) (i : Fin 96) (r : Option PartRecord) :
    (s.setPart i r).timers = s.timers := rfl
@[simp] theorem State.setPart_lotClock (s : State) (i : Fin 96) (r : Option PartRecord) :
    (s.setPart i r).lotClock = s.lotClock := rfl
@[simp] theorem State.setPart_timebase (s : State) (i : Fin 96) (r : Option PartRecord) :
    (s.setPart i r).timebase = s.timebase := rfl
@[simp] theorem State.setPart_tickFactors (s : State) (i : Fin 96) (r : Option PartRecord) :
    (s.setPart i r).tickFactors = s.tickFactors := rfl
@[simp] theorem State.setPart_prescaleCount (s : State) (i : Fin 96) (r : Option PartRecord) :
    (s.setPart i r).prescaleCount = s.prescaleCount := rfl
@[simp] theorem State.setPart_divideCount (s : State) (i : Fin 96) (r : Option PartRecord) :
    (s.setPart i r).divideCount = s.divideCount := rfl
@[simp] theorem State.setPart_lotState (s : State) (i : Fin 96) (r : Option PartRecord) :
    (s.setPart i r).lotState = s.lotState := rfl
@[simp] theorem State.setPart_remembered (s : State) (i : Fin 96) (r : Option PartRecord) :
    (s.setPart i r).remembered = s.remembered := rfl
@[simp] theorem State.setPart_completions (s : State) (i : Fin 96) (r : Option PartRecord) :
    (s.setPart i r).completions = s.completions := rfl
@[simp] theorem State.setPart_ticketCounter (s : State) (i : Fin 96) (r : Option PartRecord) :
    (s.setPart i r).ticketCounter = s.ticketCounter := rfl
@[simp] theorem State.setPart_slotWanted (s : State) (i : Fin 96) (r : Option PartRecord) :
    (s.setPart i r).slotWanted = s.slotWanted := rfl
@[simp] theorem State.setPart_cursors (s : State) (i : Fin 96) (r : Option PartRecord) :
    (s.setPart i r).cursors = s.cursors := rfl
@[simp] theorem State.setPart_lotTable (s : State) (i : Fin 96) (r : Option PartRecord) :
    (s.setPart i r).lotTable = s.lotTable := rfl
@[simp] theorem State.setPart_serviceList (s : State) (i : Fin 96) (r : Option PartRecord) :
    (s.setPart i r).serviceList = s.serviceList := rfl
@[simp] theorem State.setPart_events (s : State) (i : Fin 96) (r : Option PartRecord) :
    (s.setPart i r).events = s.events := rfl
@[simp] theorem State.setPart_eventMask (s : State) (i : Fin 96) (r : Option PartRecord) :
    (s.setPart i r).eventMask = s.eventMask := rfl
@[simp] theorem State.setPart_counters (s : State) (i : Fin 96) (r : Option PartRecord) :
    (s.setPart i r).counters = s.counters := rfl
@[simp] theorem State.setPart_draws (s : State) (i : Fin 96) (r : Option PartRecord) :
    (s.setPart i r).draws = s.draws := rfl
@[simp] theorem State.setPart_pending (s : State) (i : Fin 96) (r : Option PartRecord) :
    (s.setPart i r).pending = s.pending := rfl

/-! ## State.modPart -/

@[simp] theorem State.modPart_resetLow (s : State) (i : Fin 96) (f : PartRecord → PartRecord) :
    (s.modPart i f).resetLow = s.resetLow := rfl
@[simp] theorem State.modPart_ownAddress (s : State) (i : Fin 96) (f : PartRecord → PartRecord) :
    (s.modPart i f).ownAddress = s.ownAddress := rfl
@[simp] theorem State.modPart_upstream (s : State) (i : Fin 96) (f : PartRecord → PartRecord) :
    (s.modPart i f).upstream = s.upstream := rfl
@[simp] theorem State.modPart_downstream (s : State) (i : Fin 96) (f : PartRecord → PartRecord) :
    (s.modPart i f).downstream = s.downstream := rfl
@[simp] theorem State.modPart_node (s : State) (i : Fin 96) (f : PartRecord → PartRecord) :
    (s.modPart i f).node = s.node := rfl
@[simp] theorem State.modPart_forwarding (s : State) (i : Fin 96) (f : PartRecord → PartRecord) :
    (s.modPart i f).forwarding = s.forwarding := rfl
@[simp] theorem State.modPart_inputs (s : State) (i : Fin 96) (f : PartRecord → PartRecord) :
    (s.modPart i f).inputs = s.inputs := rfl
@[simp] theorem State.modPart_retests (s : State) (i : Fin 96) (f : PartRecord → PartRecord) :
    (s.modPart i f).retests = s.retests := rfl
@[simp] theorem State.modPart_siteGeometry (s : State) (i : Fin 96) (f : PartRecord → PartRecord) :
    (s.modPart i f).siteGeometry = s.siteGeometry := rfl
@[simp] theorem State.modPart_deck (s : State) (i : Fin 96) (f : PartRecord → PartRecord) :
    (s.modPart i f).deck = s.deck := rfl
@[simp] theorem State.modPart_nozzleTable (s : State) (i : Fin 96) (f : PartRecord → PartRecord) :
    (s.modPart i f).nozzleTable = s.nozzleTable := rfl
@[simp] theorem State.modPart_motion (s : State) (i : Fin 96) (f : PartRecord → PartRecord) :
    (s.modPart i f).motion = s.motion := rfl
@[simp] theorem State.modPart_sockets (s : State) (i : Fin 96) (f : PartRecord → PartRecord) :
    (s.modPart i f).sockets = s.sockets := rfl
@[simp] theorem State.modPart_groups (s : State) (i : Fin 96) (f : PartRecord → PartRecord) :
    (s.modPart i f).groups = s.groups := rfl
@[simp] theorem State.modPart_binMap (s : State) (i : Fin 96) (f : PartRecord → PartRecord) :
    (s.modPart i f).binMap = s.binMap := rfl
@[simp] theorem State.modPart_binPolicy (s : State) (i : Fin 96) (f : PartRecord → PartRecord) :
    (s.modPart i f).binPolicy = s.binPolicy := rfl
@[simp] theorem State.modPart_bins (s : State) (i : Fin 96) (f : PartRecord → PartRecord) :
    (s.modPart i f).bins = s.bins := rfl
@[simp] theorem State.modPart_heads (s : State) (i : Fin 96) (f : PartRecord → PartRecord) :
    (s.modPart i f).heads = s.heads := rfl
@[simp] theorem State.modPart_plans (s : State) (i : Fin 96) (f : PartRecord → PartRecord) :
    (s.modPart i f).plans = s.plans := rfl
@[simp] theorem State.modPart_planCount (s : State) (i : Fin 96) (f : PartRecord → PartRecord) :
    (s.modPart i f).planCount = s.planCount := rfl
@[simp] theorem State.modPart_points (s : State) (i : Fin 96) (f : PartRecord → PartRecord) :
    (s.modPart i f).points = s.points := rfl
@[simp] theorem State.modPart_timers (s : State) (i : Fin 96) (f : PartRecord → PartRecord) :
    (s.modPart i f).timers = s.timers := rfl
@[simp] theorem State.modPart_lotClock (s : State) (i : Fin 96) (f : PartRecord → PartRecord) :
    (s.modPart i f).lotClock = s.lotClock := rfl
@[simp] theorem State.modPart_timebase (s : State) (i : Fin 96) (f : PartRecord → PartRecord) :
    (s.modPart i f).timebase = s.timebase := rfl
@[simp] theorem State.modPart_tickFactors (s : State) (i : Fin 96) (f : PartRecord → PartRecord) :
    (s.modPart i f).tickFactors = s.tickFactors := rfl
@[simp] theorem State.modPart_prescaleCount (s : State) (i : Fin 96) (f : PartRecord → PartRecord) :
    (s.modPart i f).prescaleCount = s.prescaleCount := rfl
@[simp] theorem State.modPart_divideCount (s : State) (i : Fin 96) (f : PartRecord → PartRecord) :
    (s.modPart i f).divideCount = s.divideCount := rfl
@[simp] theorem State.modPart_lotState (s : State) (i : Fin 96) (f : PartRecord → PartRecord) :
    (s.modPart i f).lotState = s.lotState := rfl
@[simp] theorem State.modPart_remembered (s : State) (i : Fin 96) (f : PartRecord → PartRecord) :
    (s.modPart i f).remembered = s.remembered := rfl
@[simp] theorem State.modPart_completions (s : State) (i : Fin 96) (f : PartRecord → PartRecord) :
    (s.modPart i f).completions = s.completions := rfl
@[simp] theorem State.modPart_ticketCounter (s : State) (i : Fin 96) (f : PartRecord → PartRecord) :
    (s.modPart i f).ticketCounter = s.ticketCounter := rfl
@[simp] theorem State.modPart_slotWanted (s : State) (i : Fin 96) (f : PartRecord → PartRecord) :
    (s.modPart i f).slotWanted = s.slotWanted := rfl
@[simp] theorem State.modPart_cursors (s : State) (i : Fin 96) (f : PartRecord → PartRecord) :
    (s.modPart i f).cursors = s.cursors := rfl
@[simp] theorem State.modPart_lotTable (s : State) (i : Fin 96) (f : PartRecord → PartRecord) :
    (s.modPart i f).lotTable = s.lotTable := rfl
@[simp] theorem State.modPart_serviceList (s : State) (i : Fin 96) (f : PartRecord → PartRecord) :
    (s.modPart i f).serviceList = s.serviceList := rfl
@[simp] theorem State.modPart_events (s : State) (i : Fin 96) (f : PartRecord → PartRecord) :
    (s.modPart i f).events = s.events := rfl
@[simp] theorem State.modPart_eventMask (s : State) (i : Fin 96) (f : PartRecord → PartRecord) :
    (s.modPart i f).eventMask = s.eventMask := rfl
@[simp] theorem State.modPart_counters (s : State) (i : Fin 96) (f : PartRecord → PartRecord) :
    (s.modPart i f).counters = s.counters := rfl
@[simp] theorem State.modPart_draws (s : State) (i : Fin 96) (f : PartRecord → PartRecord) :
    (s.modPart i f).draws = s.draws := rfl
@[simp] theorem State.modPart_pending (s : State) (i : Fin 96) (f : PartRecord → PartRecord) :
    (s.modPart i f).pending = s.pending := rfl

/-! ## State.modBin -/

@[simp] theorem State.modBin_resetLow (s : State) (i : Fin 16) (f : Bin → Bin) :
    (s.modBin i f).resetLow = s.resetLow := rfl
@[simp] theorem State.modBin_ownAddress (s : State) (i : Fin 16) (f : Bin → Bin) :
    (s.modBin i f).ownAddress = s.ownAddress := rfl
@[simp] theorem State.modBin_upstream (s : State) (i : Fin 16) (f : Bin → Bin) :
    (s.modBin i f).upstream = s.upstream := rfl
@[simp] theorem State.modBin_downstream (s : State) (i : Fin 16) (f : Bin → Bin) :
    (s.modBin i f).downstream = s.downstream := rfl
@[simp] theorem State.modBin_node (s : State) (i : Fin 16) (f : Bin → Bin) :
    (s.modBin i f).node = s.node := rfl
@[simp] theorem State.modBin_forwarding (s : State) (i : Fin 16) (f : Bin → Bin) :
    (s.modBin i f).forwarding = s.forwarding := rfl
@[simp] theorem State.modBin_parts (s : State) (i : Fin 16) (f : Bin → Bin) :
    (s.modBin i f).parts = s.parts := rfl
@[simp] theorem State.modBin_inputs (s : State) (i : Fin 16) (f : Bin → Bin) :
    (s.modBin i f).inputs = s.inputs := rfl
@[simp] theorem State.modBin_retests (s : State) (i : Fin 16) (f : Bin → Bin) :
    (s.modBin i f).retests = s.retests := rfl
@[simp] theorem State.modBin_siteGeometry (s : State) (i : Fin 16) (f : Bin → Bin) :
    (s.modBin i f).siteGeometry = s.siteGeometry := rfl
@[simp] theorem State.modBin_deck (s : State) (i : Fin 16) (f : Bin → Bin) :
    (s.modBin i f).deck = s.deck := rfl
@[simp] theorem State.modBin_nozzleTable (s : State) (i : Fin 16) (f : Bin → Bin) :
    (s.modBin i f).nozzleTable = s.nozzleTable := rfl
@[simp] theorem State.modBin_motion (s : State) (i : Fin 16) (f : Bin → Bin) :
    (s.modBin i f).motion = s.motion := rfl
@[simp] theorem State.modBin_sockets (s : State) (i : Fin 16) (f : Bin → Bin) :
    (s.modBin i f).sockets = s.sockets := rfl
@[simp] theorem State.modBin_groups (s : State) (i : Fin 16) (f : Bin → Bin) :
    (s.modBin i f).groups = s.groups := rfl
@[simp] theorem State.modBin_binMap (s : State) (i : Fin 16) (f : Bin → Bin) :
    (s.modBin i f).binMap = s.binMap := rfl
@[simp] theorem State.modBin_binPolicy (s : State) (i : Fin 16) (f : Bin → Bin) :
    (s.modBin i f).binPolicy = s.binPolicy := rfl
@[simp] theorem State.modBin_heads (s : State) (i : Fin 16) (f : Bin → Bin) :
    (s.modBin i f).heads = s.heads := rfl
@[simp] theorem State.modBin_plans (s : State) (i : Fin 16) (f : Bin → Bin) :
    (s.modBin i f).plans = s.plans := rfl
@[simp] theorem State.modBin_planCount (s : State) (i : Fin 16) (f : Bin → Bin) :
    (s.modBin i f).planCount = s.planCount := rfl
@[simp] theorem State.modBin_points (s : State) (i : Fin 16) (f : Bin → Bin) :
    (s.modBin i f).points = s.points := rfl
@[simp] theorem State.modBin_timers (s : State) (i : Fin 16) (f : Bin → Bin) :
    (s.modBin i f).timers = s.timers := rfl
@[simp] theorem State.modBin_lotClock (s : State) (i : Fin 16) (f : Bin → Bin) :
    (s.modBin i f).lotClock = s.lotClock := rfl
@[simp] theorem State.modBin_timebase (s : State) (i : Fin 16) (f : Bin → Bin) :
    (s.modBin i f).timebase = s.timebase := rfl
@[simp] theorem State.modBin_tickFactors (s : State) (i : Fin 16) (f : Bin → Bin) :
    (s.modBin i f).tickFactors = s.tickFactors := rfl
@[simp] theorem State.modBin_prescaleCount (s : State) (i : Fin 16) (f : Bin → Bin) :
    (s.modBin i f).prescaleCount = s.prescaleCount := rfl
@[simp] theorem State.modBin_divideCount (s : State) (i : Fin 16) (f : Bin → Bin) :
    (s.modBin i f).divideCount = s.divideCount := rfl
@[simp] theorem State.modBin_lotState (s : State) (i : Fin 16) (f : Bin → Bin) :
    (s.modBin i f).lotState = s.lotState := rfl
@[simp] theorem State.modBin_remembered (s : State) (i : Fin 16) (f : Bin → Bin) :
    (s.modBin i f).remembered = s.remembered := rfl
@[simp] theorem State.modBin_completions (s : State) (i : Fin 16) (f : Bin → Bin) :
    (s.modBin i f).completions = s.completions := rfl
@[simp] theorem State.modBin_ticketCounter (s : State) (i : Fin 16) (f : Bin → Bin) :
    (s.modBin i f).ticketCounter = s.ticketCounter := rfl
@[simp] theorem State.modBin_slotWanted (s : State) (i : Fin 16) (f : Bin → Bin) :
    (s.modBin i f).slotWanted = s.slotWanted := rfl
@[simp] theorem State.modBin_cursors (s : State) (i : Fin 16) (f : Bin → Bin) :
    (s.modBin i f).cursors = s.cursors := rfl
@[simp] theorem State.modBin_lotTable (s : State) (i : Fin 16) (f : Bin → Bin) :
    (s.modBin i f).lotTable = s.lotTable := rfl
@[simp] theorem State.modBin_serviceList (s : State) (i : Fin 16) (f : Bin → Bin) :
    (s.modBin i f).serviceList = s.serviceList := rfl
@[simp] theorem State.modBin_events (s : State) (i : Fin 16) (f : Bin → Bin) :
    (s.modBin i f).events = s.events := rfl
@[simp] theorem State.modBin_eventMask (s : State) (i : Fin 16) (f : Bin → Bin) :
    (s.modBin i f).eventMask = s.eventMask := rfl
@[simp] theorem State.modBin_counters (s : State) (i : Fin 16) (f : Bin → Bin) :
    (s.modBin i f).counters = s.counters := rfl
@[simp] theorem State.modBin_draws (s : State) (i : Fin 16) (f : Bin → Bin) :
    (s.modBin i f).draws = s.draws := rfl
@[simp] theorem State.modBin_pending (s : State) (i : Fin 16) (f : Bin → Bin) :
    (s.modBin i f).pending = s.pending := rfl

/-! ## State.modTray -/

@[simp] theorem State.modTray_resetLow (s : State) (i : Fin 16) (t : TrayId) (f : TrayRecord → TrayRecord) :
    (s.modTray i t f).resetLow = s.resetLow := rfl
@[simp] theorem State.modTray_ownAddress (s : State) (i : Fin 16) (t : TrayId) (f : TrayRecord → TrayRecord) :
    (s.modTray i t f).ownAddress = s.ownAddress := rfl
@[simp] theorem State.modTray_upstream (s : State) (i : Fin 16) (t : TrayId) (f : TrayRecord → TrayRecord) :
    (s.modTray i t f).upstream = s.upstream := rfl
@[simp] theorem State.modTray_downstream (s : State) (i : Fin 16) (t : TrayId) (f : TrayRecord → TrayRecord) :
    (s.modTray i t f).downstream = s.downstream := rfl
@[simp] theorem State.modTray_node (s : State) (i : Fin 16) (t : TrayId) (f : TrayRecord → TrayRecord) :
    (s.modTray i t f).node = s.node := rfl
@[simp] theorem State.modTray_forwarding (s : State) (i : Fin 16) (t : TrayId) (f : TrayRecord → TrayRecord) :
    (s.modTray i t f).forwarding = s.forwarding := rfl
@[simp] theorem State.modTray_parts (s : State) (i : Fin 16) (t : TrayId) (f : TrayRecord → TrayRecord) :
    (s.modTray i t f).parts = s.parts := rfl
@[simp] theorem State.modTray_inputs (s : State) (i : Fin 16) (t : TrayId) (f : TrayRecord → TrayRecord) :
    (s.modTray i t f).inputs = s.inputs := rfl
@[simp] theorem State.modTray_retests (s : State) (i : Fin 16) (t : TrayId) (f : TrayRecord → TrayRecord) :
    (s.modTray i t f).retests = s.retests := rfl
@[simp] theorem State.modTray_siteGeometry (s : State) (i : Fin 16) (t : TrayId) (f : TrayRecord → TrayRecord) :
    (s.modTray i t f).siteGeometry = s.siteGeometry := rfl
@[simp] theorem State.modTray_deck (s : State) (i : Fin 16) (t : TrayId) (f : TrayRecord → TrayRecord) :
    (s.modTray i t f).deck = s.deck := rfl
@[simp] theorem State.modTray_nozzleTable (s : State) (i : Fin 16) (t : TrayId) (f : TrayRecord → TrayRecord) :
    (s.modTray i t f).nozzleTable = s.nozzleTable := rfl
@[simp] theorem State.modTray_motion (s : State) (i : Fin 16) (t : TrayId) (f : TrayRecord → TrayRecord) :
    (s.modTray i t f).motion = s.motion := rfl
@[simp] theorem State.modTray_sockets (s : State) (i : Fin 16) (t : TrayId) (f : TrayRecord → TrayRecord) :
    (s.modTray i t f).sockets = s.sockets := rfl
@[simp] theorem State.modTray_groups (s : State) (i : Fin 16) (t : TrayId) (f : TrayRecord → TrayRecord) :
    (s.modTray i t f).groups = s.groups := rfl
@[simp] theorem State.modTray_binMap (s : State) (i : Fin 16) (t : TrayId) (f : TrayRecord → TrayRecord) :
    (s.modTray i t f).binMap = s.binMap := rfl
@[simp] theorem State.modTray_binPolicy (s : State) (i : Fin 16) (t : TrayId) (f : TrayRecord → TrayRecord) :
    (s.modTray i t f).binPolicy = s.binPolicy := rfl
@[simp] theorem State.modTray_heads (s : State) (i : Fin 16) (t : TrayId) (f : TrayRecord → TrayRecord) :
    (s.modTray i t f).heads = s.heads := rfl
@[simp] theorem State.modTray_plans (s : State) (i : Fin 16) (t : TrayId) (f : TrayRecord → TrayRecord) :
    (s.modTray i t f).plans = s.plans := rfl
@[simp] theorem State.modTray_planCount (s : State) (i : Fin 16) (t : TrayId) (f : TrayRecord → TrayRecord) :
    (s.modTray i t f).planCount = s.planCount := rfl
@[simp] theorem State.modTray_points (s : State) (i : Fin 16) (t : TrayId) (f : TrayRecord → TrayRecord) :
    (s.modTray i t f).points = s.points := rfl
@[simp] theorem State.modTray_timers (s : State) (i : Fin 16) (t : TrayId) (f : TrayRecord → TrayRecord) :
    (s.modTray i t f).timers = s.timers := rfl
@[simp] theorem State.modTray_lotClock (s : State) (i : Fin 16) (t : TrayId) (f : TrayRecord → TrayRecord) :
    (s.modTray i t f).lotClock = s.lotClock := rfl
@[simp] theorem State.modTray_timebase (s : State) (i : Fin 16) (t : TrayId) (f : TrayRecord → TrayRecord) :
    (s.modTray i t f).timebase = s.timebase := rfl
@[simp] theorem State.modTray_tickFactors (s : State) (i : Fin 16) (t : TrayId) (f : TrayRecord → TrayRecord) :
    (s.modTray i t f).tickFactors = s.tickFactors := rfl
@[simp] theorem State.modTray_prescaleCount (s : State) (i : Fin 16) (t : TrayId) (f : TrayRecord → TrayRecord) :
    (s.modTray i t f).prescaleCount = s.prescaleCount := rfl
@[simp] theorem State.modTray_divideCount (s : State) (i : Fin 16) (t : TrayId) (f : TrayRecord → TrayRecord) :
    (s.modTray i t f).divideCount = s.divideCount := rfl
@[simp] theorem State.modTray_lotState (s : State) (i : Fin 16) (t : TrayId) (f : TrayRecord → TrayRecord) :
    (s.modTray i t f).lotState = s.lotState := rfl
@[simp] theorem State.modTray_remembered (s : State) (i : Fin 16) (t : TrayId) (f : TrayRecord → TrayRecord) :
    (s.modTray i t f).remembered = s.remembered := rfl
@[simp] theorem State.modTray_completions (s : State) (i : Fin 16) (t : TrayId) (f : TrayRecord → TrayRecord) :
    (s.modTray i t f).completions = s.completions := rfl
@[simp] theorem State.modTray_ticketCounter (s : State) (i : Fin 16) (t : TrayId) (f : TrayRecord → TrayRecord) :
    (s.modTray i t f).ticketCounter = s.ticketCounter := rfl
@[simp] theorem State.modTray_slotWanted (s : State) (i : Fin 16) (t : TrayId) (f : TrayRecord → TrayRecord) :
    (s.modTray i t f).slotWanted = s.slotWanted := rfl
@[simp] theorem State.modTray_cursors (s : State) (i : Fin 16) (t : TrayId) (f : TrayRecord → TrayRecord) :
    (s.modTray i t f).cursors = s.cursors := rfl
@[simp] theorem State.modTray_lotTable (s : State) (i : Fin 16) (t : TrayId) (f : TrayRecord → TrayRecord) :
    (s.modTray i t f).lotTable = s.lotTable := rfl
@[simp] theorem State.modTray_serviceList (s : State) (i : Fin 16) (t : TrayId) (f : TrayRecord → TrayRecord) :
    (s.modTray i t f).serviceList = s.serviceList := rfl
@[simp] theorem State.modTray_events (s : State) (i : Fin 16) (t : TrayId) (f : TrayRecord → TrayRecord) :
    (s.modTray i t f).events = s.events := rfl
@[simp] theorem State.modTray_eventMask (s : State) (i : Fin 16) (t : TrayId) (f : TrayRecord → TrayRecord) :
    (s.modTray i t f).eventMask = s.eventMask := rfl
@[simp] theorem State.modTray_counters (s : State) (i : Fin 16) (t : TrayId) (f : TrayRecord → TrayRecord) :
    (s.modTray i t f).counters = s.counters := rfl
@[simp] theorem State.modTray_draws (s : State) (i : Fin 16) (t : TrayId) (f : TrayRecord → TrayRecord) :
    (s.modTray i t f).draws = s.draws := rfl
@[simp] theorem State.modTray_pending (s : State) (i : Fin 16) (t : TrayId) (f : TrayRecord → TrayRecord) :
    (s.modTray i t f).pending = s.pending := rfl

/-! ## State.modCounters -/

@[simp] theorem State.modCounters_resetLow (s : State) (f : Counters → Counters) :
    (s.modCounters f).resetLow = s.resetLow := rfl
@[simp] theorem State.modCounters_ownAddress (s : State) (f : Counters → Counters) :
    (s.modCounters f).ownAddress = s.ownAddress := rfl
@[simp] theorem State.modCounters_upstream (s : State) (f : Counters → Counters) :
    (s.modCounters f).upstream = s.upstream := rfl
@[simp] theorem State.modCounters_downstream (s : State) (f : Counters → Counters) :
    (s.modCounters f).downstream = s.downstream := rfl
@[simp] theorem State.modCounters_node (s : State) (f : Counters → Counters) :
    (s.modCounters f).node = s.node := rfl
@[simp] theorem State.modCounters_forwarding (s : State) (f : Counters → Counters) :
    (s.modCounters f).forwarding = s.forwarding := rfl
@[simp] theorem State.modCounters_parts (s : State) (f : Counters → Counters) :
    (s.modCounters f).parts = s.parts := rfl
@[simp] theorem State.modCounters_inputs (s : State) (f : Counters → Counters) :
    (s.modCounters f).inputs = s.inputs := rfl
@[simp] theorem State.modCounters_retests (s : State) (f : Counters → Counters) :
    (s.modCounters f).retests = s.retests := rfl
@[simp] theorem State.modCounters_siteGeometry (s : State) (f : Counters → Counters) :
    (s.modCounters f).siteGeometry = s.siteGeometry := rfl
@[simp] theorem State.modCounters_deck (s : State) (f : Counters → Counters) :
    (s.modCounters f).deck = s.deck := rfl
@[simp] theorem State.modCounters_nozzleTable (s : State) (f : Counters → Counters) :
    (s.modCounters f).nozzleTable = s.nozzleTable := rfl
@[simp] theorem State.modCounters_motion (s : State) (f : Counters → Counters) :
    (s.modCounters f).motion = s.motion := rfl
@[simp] theorem State.modCounters_sockets (s : State) (f : Counters → Counters) :
    (s.modCounters f).sockets = s.sockets := rfl
@[simp] theorem State.modCounters_groups (s : State) (f : Counters → Counters) :
    (s.modCounters f).groups = s.groups := rfl
@[simp] theorem State.modCounters_binMap (s : State) (f : Counters → Counters) :
    (s.modCounters f).binMap = s.binMap := rfl
@[simp] theorem State.modCounters_binPolicy (s : State) (f : Counters → Counters) :
    (s.modCounters f).binPolicy = s.binPolicy := rfl
@[simp] theorem State.modCounters_bins (s : State) (f : Counters → Counters) :
    (s.modCounters f).bins = s.bins := rfl
@[simp] theorem State.modCounters_heads (s : State) (f : Counters → Counters) :
    (s.modCounters f).heads = s.heads := rfl
@[simp] theorem State.modCounters_plans (s : State) (f : Counters → Counters) :
    (s.modCounters f).plans = s.plans := rfl
@[simp] theorem State.modCounters_planCount (s : State) (f : Counters → Counters) :
    (s.modCounters f).planCount = s.planCount := rfl
@[simp] theorem State.modCounters_points (s : State) (f : Counters → Counters) :
    (s.modCounters f).points = s.points := rfl
@[simp] theorem State.modCounters_timers (s : State) (f : Counters → Counters) :
    (s.modCounters f).timers = s.timers := rfl
@[simp] theorem State.modCounters_lotClock (s : State) (f : Counters → Counters) :
    (s.modCounters f).lotClock = s.lotClock := rfl
@[simp] theorem State.modCounters_timebase (s : State) (f : Counters → Counters) :
    (s.modCounters f).timebase = s.timebase := rfl
@[simp] theorem State.modCounters_tickFactors (s : State) (f : Counters → Counters) :
    (s.modCounters f).tickFactors = s.tickFactors := rfl
@[simp] theorem State.modCounters_prescaleCount (s : State) (f : Counters → Counters) :
    (s.modCounters f).prescaleCount = s.prescaleCount := rfl
@[simp] theorem State.modCounters_divideCount (s : State) (f : Counters → Counters) :
    (s.modCounters f).divideCount = s.divideCount := rfl
@[simp] theorem State.modCounters_lotState (s : State) (f : Counters → Counters) :
    (s.modCounters f).lotState = s.lotState := rfl
@[simp] theorem State.modCounters_remembered (s : State) (f : Counters → Counters) :
    (s.modCounters f).remembered = s.remembered := rfl
@[simp] theorem State.modCounters_completions (s : State) (f : Counters → Counters) :
    (s.modCounters f).completions = s.completions := rfl
@[simp] theorem State.modCounters_ticketCounter (s : State) (f : Counters → Counters) :
    (s.modCounters f).ticketCounter = s.ticketCounter := rfl
@[simp] theorem State.modCounters_slotWanted (s : State) (f : Counters → Counters) :
    (s.modCounters f).slotWanted = s.slotWanted := rfl
@[simp] theorem State.modCounters_cursors (s : State) (f : Counters → Counters) :
    (s.modCounters f).cursors = s.cursors := rfl
@[simp] theorem State.modCounters_lotTable (s : State) (f : Counters → Counters) :
    (s.modCounters f).lotTable = s.lotTable := rfl
@[simp] theorem State.modCounters_serviceList (s : State) (f : Counters → Counters) :
    (s.modCounters f).serviceList = s.serviceList := rfl
@[simp] theorem State.modCounters_events (s : State) (f : Counters → Counters) :
    (s.modCounters f).events = s.events := rfl
@[simp] theorem State.modCounters_eventMask (s : State) (f : Counters → Counters) :
    (s.modCounters f).eventMask = s.eventMask := rfl
@[simp] theorem State.modCounters_draws (s : State) (f : Counters → Counters) :
    (s.modCounters f).draws = s.draws := rfl
@[simp] theorem State.modCounters_pending (s : State) (f : Counters → Counters) :
    (s.modCounters f).pending = s.pending := rfl

/-! ## State.setTimer -/

@[simp] theorem State.setTimer_resetLow (s : State) (id : TimerId) (t : Timer) :
    (s.setTimer id t).resetLow = s.resetLow := by cases id <;> rfl
@[simp] theorem State.setTimer_ownAddress (s : State) (id : TimerId) (t : Timer) :
    (s.setTimer id t).ownAddress = s.ownAddress := by cases id <;> rfl
@[simp] theorem State.setTimer_upstream (s : State) (id : TimerId) (t : Timer) :
    (s.setTimer id t).upstream = s.upstream := by cases id <;> rfl
@[simp] theorem State.setTimer_downstream (s : State) (id : TimerId) (t : Timer) :
    (s.setTimer id t).downstream = s.downstream := by cases id <;> rfl
@[simp] theorem State.setTimer_node (s : State) (id : TimerId) (t : Timer) :
    (s.setTimer id t).node = s.node := by cases id <;> rfl
@[simp] theorem State.setTimer_forwarding (s : State) (id : TimerId) (t : Timer) :
    (s.setTimer id t).forwarding = s.forwarding := by cases id <;> rfl
@[simp] theorem State.setTimer_parts (s : State) (id : TimerId) (t : Timer) :
    (s.setTimer id t).parts = s.parts := by cases id <;> rfl
@[simp] theorem State.setTimer_inputs (s : State) (id : TimerId) (t : Timer) :
    (s.setTimer id t).inputs = s.inputs := by cases id <;> rfl
@[simp] theorem State.setTimer_retests (s : State) (id : TimerId) (t : Timer) :
    (s.setTimer id t).retests = s.retests := by cases id <;> rfl
@[simp] theorem State.setTimer_siteGeometry (s : State) (id : TimerId) (t : Timer) :
    (s.setTimer id t).siteGeometry = s.siteGeometry := by cases id <;> rfl
@[simp] theorem State.setTimer_deck (s : State) (id : TimerId) (t : Timer) :
    (s.setTimer id t).deck = s.deck := by cases id <;> rfl
@[simp] theorem State.setTimer_nozzleTable (s : State) (id : TimerId) (t : Timer) :
    (s.setTimer id t).nozzleTable = s.nozzleTable := by cases id <;> rfl
@[simp] theorem State.setTimer_motion (s : State) (id : TimerId) (t : Timer) :
    (s.setTimer id t).motion = s.motion := by cases id <;> rfl
@[simp] theorem State.setTimer_sockets (s : State) (id : TimerId) (t : Timer) :
    (s.setTimer id t).sockets = s.sockets := by cases id <;> rfl
@[simp] theorem State.setTimer_groups (s : State) (id : TimerId) (t : Timer) :
    (s.setTimer id t).groups = s.groups := by cases id <;> rfl
@[simp] theorem State.setTimer_binMap (s : State) (id : TimerId) (t : Timer) :
    (s.setTimer id t).binMap = s.binMap := by cases id <;> rfl
@[simp] theorem State.setTimer_binPolicy (s : State) (id : TimerId) (t : Timer) :
    (s.setTimer id t).binPolicy = s.binPolicy := by cases id <;> rfl
@[simp] theorem State.setTimer_bins (s : State) (id : TimerId) (t : Timer) :
    (s.setTimer id t).bins = s.bins := by cases id <;> rfl
@[simp] theorem State.setTimer_heads (s : State) (id : TimerId) (t : Timer) :
    (s.setTimer id t).heads = s.heads := by cases id <;> rfl
@[simp] theorem State.setTimer_plans (s : State) (id : TimerId) (t : Timer) :
    (s.setTimer id t).plans = s.plans := by cases id <;> rfl
@[simp] theorem State.setTimer_planCount (s : State) (id : TimerId) (t : Timer) :
    (s.setTimer id t).planCount = s.planCount := by cases id <;> rfl
@[simp] theorem State.setTimer_points (s : State) (id : TimerId) (t : Timer) :
    (s.setTimer id t).points = s.points := by cases id <;> rfl
@[simp] theorem State.setTimer_lotClock (s : State) (id : TimerId) (t : Timer) :
    (s.setTimer id t).lotClock = s.lotClock := by cases id <;> rfl
@[simp] theorem State.setTimer_timebase (s : State) (id : TimerId) (t : Timer) :
    (s.setTimer id t).timebase = s.timebase := by cases id <;> rfl
@[simp] theorem State.setTimer_tickFactors (s : State) (id : TimerId) (t : Timer) :
    (s.setTimer id t).tickFactors = s.tickFactors := by cases id <;> rfl
@[simp] theorem State.setTimer_prescaleCount (s : State) (id : TimerId) (t : Timer) :
    (s.setTimer id t).prescaleCount = s.prescaleCount := by cases id <;> rfl
@[simp] theorem State.setTimer_divideCount (s : State) (id : TimerId) (t : Timer) :
    (s.setTimer id t).divideCount = s.divideCount := by cases id <;> rfl
@[simp] theorem State.setTimer_lotState (s : State) (id : TimerId) (t : Timer) :
    (s.setTimer id t).lotState = s.lotState := by cases id <;> rfl
@[simp] theorem State.setTimer_remembered (s : State) (id : TimerId) (t : Timer) :
    (s.setTimer id t).remembered = s.remembered := by cases id <;> rfl
@[simp] theorem State.setTimer_completions (s : State) (id : TimerId) (t : Timer) :
    (s.setTimer id t).completions = s.completions := by cases id <;> rfl
@[simp] theorem State.setTimer_ticketCounter (s : State) (id : TimerId) (t : Timer) :
    (s.setTimer id t).ticketCounter = s.ticketCounter := by cases id <;> rfl
@[simp] theorem State.setTimer_slotWanted (s : State) (id : TimerId) (t : Timer) :
    (s.setTimer id t).slotWanted = s.slotWanted := by cases id <;> rfl
@[simp] theorem State.setTimer_cursors (s : State) (id : TimerId) (t : Timer) :
    (s.setTimer id t).cursors = s.cursors := by cases id <;> rfl
@[simp] theorem State.setTimer_lotTable (s : State) (id : TimerId) (t : Timer) :
    (s.setTimer id t).lotTable = s.lotTable := by cases id <;> rfl
@[simp] theorem State.setTimer_serviceList (s : State) (id : TimerId) (t : Timer) :
    (s.setTimer id t).serviceList = s.serviceList := by cases id <;> rfl
@[simp] theorem State.setTimer_events (s : State) (id : TimerId) (t : Timer) :
    (s.setTimer id t).events = s.events := by cases id <;> rfl
@[simp] theorem State.setTimer_eventMask (s : State) (id : TimerId) (t : Timer) :
    (s.setTimer id t).eventMask = s.eventMask := by cases id <;> rfl
@[simp] theorem State.setTimer_counters (s : State) (id : TimerId) (t : Timer) :
    (s.setTimer id t).counters = s.counters := by cases id <;> rfl
@[simp] theorem State.setTimer_draws (s : State) (id : TimerId) (t : Timer) :
    (s.setTimer id t).draws = s.draws := by cases id <;> rfl
@[simp] theorem State.setTimer_pending (s : State) (id : TimerId) (t : Timer) :
    (s.setTimer id t).pending = s.pending := by cases id <;> rfl

/-! ## startTimer -/

@[simp] theorem startTimer_resetLow (s : State) (id : TimerId) (n : Nat) :
    (startTimer id n s).resetLow = s.resetLow := by cases id <;> rfl
@[simp] theorem startTimer_ownAddress (s : State) (id : TimerId) (n : Nat) :
    (startTimer id n s).ownAddress = s.ownAddress := by cases id <;> rfl
@[simp] theorem startTimer_upstream (s : State) (id : TimerId) (n : Nat) :
    (startTimer id n s).upstream = s.upstream := by cases id <;> rfl
@[simp] theorem startTimer_downstream (s : State) (id : TimerId) (n : Nat) :
    (startTimer id n s).downstream = s.downstream := by cases id <;> rfl
@[simp] theorem startTimer_node (s : State) (id : TimerId) (n : Nat) :
    (startTimer id n s).node = s.node := by cases id <;> rfl
@[simp] theorem startTimer_forwarding (s : State) (id : TimerId) (n : Nat) :
    (startTimer id n s).forwarding = s.forwarding := by cases id <;> rfl
@[simp] theorem startTimer_parts (s : State) (id : TimerId) (n : Nat) :
    (startTimer id n s).parts = s.parts := by cases id <;> rfl
@[simp] theorem startTimer_inputs (s : State) (id : TimerId) (n : Nat) :
    (startTimer id n s).inputs = s.inputs := by cases id <;> rfl
@[simp] theorem startTimer_retests (s : State) (id : TimerId) (n : Nat) :
    (startTimer id n s).retests = s.retests := by cases id <;> rfl
@[simp] theorem startTimer_siteGeometry (s : State) (id : TimerId) (n : Nat) :
    (startTimer id n s).siteGeometry = s.siteGeometry := by cases id <;> rfl
@[simp] theorem startTimer_deck (s : State) (id : TimerId) (n : Nat) :
    (startTimer id n s).deck = s.deck := by cases id <;> rfl
@[simp] theorem startTimer_nozzleTable (s : State) (id : TimerId) (n : Nat) :
    (startTimer id n s).nozzleTable = s.nozzleTable := by cases id <;> rfl
@[simp] theorem startTimer_motion (s : State) (id : TimerId) (n : Nat) :
    (startTimer id n s).motion = s.motion := by cases id <;> rfl
@[simp] theorem startTimer_sockets (s : State) (id : TimerId) (n : Nat) :
    (startTimer id n s).sockets = s.sockets := by cases id <;> rfl
@[simp] theorem startTimer_groups (s : State) (id : TimerId) (n : Nat) :
    (startTimer id n s).groups = s.groups := by cases id <;> rfl
@[simp] theorem startTimer_binMap (s : State) (id : TimerId) (n : Nat) :
    (startTimer id n s).binMap = s.binMap := by cases id <;> rfl
@[simp] theorem startTimer_binPolicy (s : State) (id : TimerId) (n : Nat) :
    (startTimer id n s).binPolicy = s.binPolicy := by cases id <;> rfl
@[simp] theorem startTimer_bins (s : State) (id : TimerId) (n : Nat) :
    (startTimer id n s).bins = s.bins := by cases id <;> rfl
@[simp] theorem startTimer_heads (s : State) (id : TimerId) (n : Nat) :
    (startTimer id n s).heads = s.heads := by cases id <;> rfl
@[simp] theorem startTimer_plans (s : State) (id : TimerId) (n : Nat) :
    (startTimer id n s).plans = s.plans := by cases id <;> rfl
@[simp] theorem startTimer_planCount (s : State) (id : TimerId) (n : Nat) :
    (startTimer id n s).planCount = s.planCount := by cases id <;> rfl
@[simp] theorem startTimer_points (s : State) (id : TimerId) (n : Nat) :
    (startTimer id n s).points = s.points := by cases id <;> rfl
@[simp] theorem startTimer_lotClock (s : State) (id : TimerId) (n : Nat) :
    (startTimer id n s).lotClock = s.lotClock := by cases id <;> rfl
@[simp] theorem startTimer_timebase (s : State) (id : TimerId) (n : Nat) :
    (startTimer id n s).timebase = s.timebase := by cases id <;> rfl
@[simp] theorem startTimer_tickFactors (s : State) (id : TimerId) (n : Nat) :
    (startTimer id n s).tickFactors = s.tickFactors := by cases id <;> rfl
@[simp] theorem startTimer_prescaleCount (s : State) (id : TimerId) (n : Nat) :
    (startTimer id n s).prescaleCount = s.prescaleCount := by cases id <;> rfl
@[simp] theorem startTimer_divideCount (s : State) (id : TimerId) (n : Nat) :
    (startTimer id n s).divideCount = s.divideCount := by cases id <;> rfl
@[simp] theorem startTimer_lotState (s : State) (id : TimerId) (n : Nat) :
    (startTimer id n s).lotState = s.lotState := by cases id <;> rfl
@[simp] theorem startTimer_remembered (s : State) (id : TimerId) (n : Nat) :
    (startTimer id n s).remembered = s.remembered := by cases id <;> rfl
@[simp] theorem startTimer_completions (s : State) (id : TimerId) (n : Nat) :
    (startTimer id n s).completions = s.completions := by cases id <;> rfl
@[simp] theorem startTimer_ticketCounter (s : State) (id : TimerId) (n : Nat) :
    (startTimer id n s).ticketCounter = s.ticketCounter := by cases id <;> rfl
@[simp] theorem startTimer_slotWanted (s : State) (id : TimerId) (n : Nat) :
    (startTimer id n s).slotWanted = s.slotWanted := by cases id <;> rfl
@[simp] theorem startTimer_cursors (s : State) (id : TimerId) (n : Nat) :
    (startTimer id n s).cursors = s.cursors := by cases id <;> rfl
@[simp] theorem startTimer_lotTable (s : State) (id : TimerId) (n : Nat) :
    (startTimer id n s).lotTable = s.lotTable := by cases id <;> rfl
@[simp] theorem startTimer_serviceList (s : State) (id : TimerId) (n : Nat) :
    (startTimer id n s).serviceList = s.serviceList := by cases id <;> rfl
@[simp] theorem startTimer_events (s : State) (id : TimerId) (n : Nat) :
    (startTimer id n s).events = s.events := by cases id <;> rfl
@[simp] theorem startTimer_eventMask (s : State) (id : TimerId) (n : Nat) :
    (startTimer id n s).eventMask = s.eventMask := by cases id <;> rfl
@[simp] theorem startTimer_counters (s : State) (id : TimerId) (n : Nat) :
    (startTimer id n s).counters = s.counters := by cases id <;> rfl
@[simp] theorem startTimer_draws (s : State) (id : TimerId) (n : Nat) :
    (startTimer id n s).draws = s.draws := by cases id <;> rfl
@[simp] theorem startTimer_pending (s : State) (id : TimerId) (n : Nat) :
    (startTimer id n s).pending = s.pending := by cases id <;> rfl

/-! ## cancelTimer -/

@[simp] theorem cancelTimer_resetLow (s : State) (id : TimerId) :
    (cancelTimer id s).resetLow = s.resetLow := by cases id <;> rfl
@[simp] theorem cancelTimer_ownAddress (s : State) (id : TimerId) :
    (cancelTimer id s).ownAddress = s.ownAddress := by cases id <;> rfl
@[simp] theorem cancelTimer_upstream (s : State) (id : TimerId) :
    (cancelTimer id s).upstream = s.upstream := by cases id <;> rfl
@[simp] theorem cancelTimer_downstream (s : State) (id : TimerId) :
    (cancelTimer id s).downstream = s.downstream := by cases id <;> rfl
@[simp] theorem cancelTimer_node (s : State) (id : TimerId) :
    (cancelTimer id s).node = s.node := by cases id <;> rfl
@[simp] theorem cancelTimer_forwarding (s : State) (id : TimerId) :
    (cancelTimer id s).forwarding = s.forwarding := by cases id <;> rfl
@[simp] theorem cancelTimer_parts (s : State) (id : TimerId) :
    (cancelTimer id s).parts = s.parts := by cases id <;> rfl
@[simp] theorem cancelTimer_inputs (s : State) (id : TimerId) :
    (cancelTimer id s).inputs = s.inputs := by cases id <;> rfl
@[simp] theorem cancelTimer_retests (s : State) (id : TimerId) :
    (cancelTimer id s).retests = s.retests := by cases id <;> rfl
@[simp] theorem cancelTimer_siteGeometry (s : State) (id : TimerId) :
    (cancelTimer id s).siteGeometry = s.siteGeometry := by cases id <;> rfl
@[simp] theorem cancelTimer_deck (s : State) (id : TimerId) :
    (cancelTimer id s).deck = s.deck := by cases id <;> rfl
@[simp] theorem cancelTimer_nozzleTable (s : State) (id : TimerId) :
    (cancelTimer id s).nozzleTable = s.nozzleTable := by cases id <;> rfl
@[simp] theorem cancelTimer_motion (s : State) (id : TimerId) :
    (cancelTimer id s).motion = s.motion := by cases id <;> rfl
@[simp] theorem cancelTimer_sockets (s : State) (id : TimerId) :
    (cancelTimer id s).sockets = s.sockets := by cases id <;> rfl
@[simp] theorem cancelTimer_groups (s : State) (id : TimerId) :
    (cancelTimer id s).groups = s.groups := by cases id <;> rfl
@[simp] theorem cancelTimer_binMap (s : State) (id : TimerId) :
    (cancelTimer id s).binMap = s.binMap := by cases id <;> rfl
@[simp] theorem cancelTimer_binPolicy (s : State) (id : TimerId) :
    (cancelTimer id s).binPolicy = s.binPolicy := by cases id <;> rfl
@[simp] theorem cancelTimer_bins (s : State) (id : TimerId) :
    (cancelTimer id s).bins = s.bins := by cases id <;> rfl
@[simp] theorem cancelTimer_heads (s : State) (id : TimerId) :
    (cancelTimer id s).heads = s.heads := by cases id <;> rfl
@[simp] theorem cancelTimer_plans (s : State) (id : TimerId) :
    (cancelTimer id s).plans = s.plans := by cases id <;> rfl
@[simp] theorem cancelTimer_planCount (s : State) (id : TimerId) :
    (cancelTimer id s).planCount = s.planCount := by cases id <;> rfl
@[simp] theorem cancelTimer_points (s : State) (id : TimerId) :
    (cancelTimer id s).points = s.points := by cases id <;> rfl
@[simp] theorem cancelTimer_lotClock (s : State) (id : TimerId) :
    (cancelTimer id s).lotClock = s.lotClock := by cases id <;> rfl
@[simp] theorem cancelTimer_timebase (s : State) (id : TimerId) :
    (cancelTimer id s).timebase = s.timebase := by cases id <;> rfl
@[simp] theorem cancelTimer_tickFactors (s : State) (id : TimerId) :
    (cancelTimer id s).tickFactors = s.tickFactors := by cases id <;> rfl
@[simp] theorem cancelTimer_prescaleCount (s : State) (id : TimerId) :
    (cancelTimer id s).prescaleCount = s.prescaleCount := by cases id <;> rfl
@[simp] theorem cancelTimer_divideCount (s : State) (id : TimerId) :
    (cancelTimer id s).divideCount = s.divideCount := by cases id <;> rfl
@[simp] theorem cancelTimer_lotState (s : State) (id : TimerId) :
    (cancelTimer id s).lotState = s.lotState := by cases id <;> rfl
@[simp] theorem cancelTimer_remembered (s : State) (id : TimerId) :
    (cancelTimer id s).remembered = s.remembered := by cases id <;> rfl
@[simp] theorem cancelTimer_completions (s : State) (id : TimerId) :
    (cancelTimer id s).completions = s.completions := by cases id <;> rfl
@[simp] theorem cancelTimer_ticketCounter (s : State) (id : TimerId) :
    (cancelTimer id s).ticketCounter = s.ticketCounter := by cases id <;> rfl
@[simp] theorem cancelTimer_slotWanted (s : State) (id : TimerId) :
    (cancelTimer id s).slotWanted = s.slotWanted := by cases id <;> rfl
@[simp] theorem cancelTimer_cursors (s : State) (id : TimerId) :
    (cancelTimer id s).cursors = s.cursors := by cases id <;> rfl
@[simp] theorem cancelTimer_lotTable (s : State) (id : TimerId) :
    (cancelTimer id s).lotTable = s.lotTable := by cases id <;> rfl
@[simp] theorem cancelTimer_serviceList (s : State) (id : TimerId) :
    (cancelTimer id s).serviceList = s.serviceList := by cases id <;> rfl
@[simp] theorem cancelTimer_events (s : State) (id : TimerId) :
    (cancelTimer id s).events = s.events := by cases id <;> rfl
@[simp] theorem cancelTimer_eventMask (s : State) (id : TimerId) :
    (cancelTimer id s).eventMask = s.eventMask := by cases id <;> rfl
@[simp] theorem cancelTimer_counters (s : State) (id : TimerId) :
    (cancelTimer id s).counters = s.counters := by cases id <;> rfl
@[simp] theorem cancelTimer_draws (s : State) (id : TimerId) :
    (cancelTimer id s).draws = s.draws := by cases id <;> rfl
@[simp] theorem cancelTimer_pending (s : State) (id : TimerId) :
    (cancelTimer id s).pending = s.pending := by cases id <;> rfl

/-! ## changeLot -/

@[simp] theorem changeLot_resetLow (s : State) (l : LotState) :
    (changeLot l s).resetLow = s.resetLow := rfl
@[simp] theorem changeLot_ownAddress (s : State) (l : LotState) :
    (changeLot l s).ownAddress = s.ownAddress := rfl
@[simp] theorem changeLot_upstream (s : State) (l : LotState) :
    (changeLot l s).upstream = s.upstream := rfl
@[simp] theorem changeLot_downstream (s : State) (l : LotState) :
    (changeLot l s).downstream = s.downstream := rfl
@[simp] theorem changeLot_node (s : State) (l : LotState) :
    (changeLot l s).node = s.node := rfl
@[simp] theorem changeLot_forwarding (s : State) (l : LotState) :
    (changeLot l s).forwarding = s.forwarding := rfl
@[simp] theorem changeLot_parts (s : State) (l : LotState) :
    (changeLot l s).parts = s.parts := rfl
@[simp] theorem changeLot_inputs (s : State) (l : LotState) :
    (changeLot l s).inputs = s.inputs := rfl
@[simp] theorem changeLot_retests (s : State) (l : LotState) :
    (changeLot l s).retests = s.retests := rfl
@[simp] theorem changeLot_siteGeometry (s : State) (l : LotState) :
    (changeLot l s).siteGeometry = s.siteGeometry := rfl
@[simp] theorem changeLot_deck (s : State) (l : LotState) :
    (changeLot l s).deck = s.deck := rfl
@[simp] theorem changeLot_nozzleTable (s : State) (l : LotState) :
    (changeLot l s).nozzleTable = s.nozzleTable := rfl
@[simp] theorem changeLot_motion (s : State) (l : LotState) :
    (changeLot l s).motion = s.motion := rfl
@[simp] theorem changeLot_sockets (s : State) (l : LotState) :
    (changeLot l s).sockets = s.sockets := rfl
@[simp] theorem changeLot_groups (s : State) (l : LotState) :
    (changeLot l s).groups = s.groups := rfl
@[simp] theorem changeLot_binMap (s : State) (l : LotState) :
    (changeLot l s).binMap = s.binMap := rfl
@[simp] theorem changeLot_binPolicy (s : State) (l : LotState) :
    (changeLot l s).binPolicy = s.binPolicy := rfl
@[simp] theorem changeLot_bins (s : State) (l : LotState) :
    (changeLot l s).bins = s.bins := rfl
@[simp] theorem changeLot_heads (s : State) (l : LotState) :
    (changeLot l s).heads = s.heads := rfl
@[simp] theorem changeLot_plans (s : State) (l : LotState) :
    (changeLot l s).plans = s.plans := rfl
@[simp] theorem changeLot_planCount (s : State) (l : LotState) :
    (changeLot l s).planCount = s.planCount := rfl
@[simp] theorem changeLot_points (s : State) (l : LotState) :
    (changeLot l s).points = s.points := rfl
@[simp] theorem changeLot_lotClock (s : State) (l : LotState) :
    (changeLot l s).lotClock = s.lotClock := rfl
@[simp] theorem changeLot_timebase (s : State) (l : LotState) :
    (changeLot l s).timebase = s.timebase := rfl
@[simp] theorem changeLot_tickFactors (s : State) (l : LotState) :
    (changeLot l s).tickFactors = s.tickFactors := rfl
@[simp] theorem changeLot_prescaleCount (s : State) (l : LotState) :
    (changeLot l s).prescaleCount = s.prescaleCount := rfl
@[simp] theorem changeLot_divideCount (s : State) (l : LotState) :
    (changeLot l s).divideCount = s.divideCount := rfl
@[simp] theorem changeLot_remembered (s : State) (l : LotState) :
    (changeLot l s).remembered = s.remembered := rfl
@[simp] theorem changeLot_completions (s : State) (l : LotState) :
    (changeLot l s).completions = s.completions := rfl
@[simp] theorem changeLot_ticketCounter (s : State) (l : LotState) :
    (changeLot l s).ticketCounter = s.ticketCounter := rfl
@[simp] theorem changeLot_slotWanted (s : State) (l : LotState) :
    (changeLot l s).slotWanted = s.slotWanted := rfl
@[simp] theorem changeLot_cursors (s : State) (l : LotState) :
    (changeLot l s).cursors = s.cursors := rfl
@[simp] theorem changeLot_lotTable (s : State) (l : LotState) :
    (changeLot l s).lotTable = s.lotTable := rfl
@[simp] theorem changeLot_serviceList (s : State) (l : LotState) :
    (changeLot l s).serviceList = s.serviceList := rfl
@[simp] theorem changeLot_events (s : State) (l : LotState) :
    (changeLot l s).events = s.events := rfl
@[simp] theorem changeLot_eventMask (s : State) (l : LotState) :
    (changeLot l s).eventMask = s.eventMask := rfl
@[simp] theorem changeLot_counters (s : State) (l : LotState) :
    (changeLot l s).counters = s.counters := rfl
@[simp] theorem changeLot_draws (s : State) (l : LotState) :
    (changeLot l s).draws = s.draws := rfl
@[simp] theorem changeLot_pending (s : State) (l : LotState) :
    (changeLot l s).pending = s.pending := rfl

/-! ## noteEvent -/

@[simp] theorem noteEvent_resetLow (s : State) (k : EventKind) (d : Nat) :
    (noteEvent k d s).resetLow = s.resetLow := rfl
@[simp] theorem noteEvent_ownAddress (s : State) (k : EventKind) (d : Nat) :
    (noteEvent k d s).ownAddress = s.ownAddress := rfl
@[simp] theorem noteEvent_upstream (s : State) (k : EventKind) (d : Nat) :
    (noteEvent k d s).upstream = s.upstream := rfl
@[simp] theorem noteEvent_downstream (s : State) (k : EventKind) (d : Nat) :
    (noteEvent k d s).downstream = s.downstream := rfl
@[simp] theorem noteEvent_node (s : State) (k : EventKind) (d : Nat) :
    (noteEvent k d s).node = s.node := rfl
@[simp] theorem noteEvent_forwarding (s : State) (k : EventKind) (d : Nat) :
    (noteEvent k d s).forwarding = s.forwarding := rfl
@[simp] theorem noteEvent_parts (s : State) (k : EventKind) (d : Nat) :
    (noteEvent k d s).parts = s.parts := rfl
@[simp] theorem noteEvent_inputs (s : State) (k : EventKind) (d : Nat) :
    (noteEvent k d s).inputs = s.inputs := rfl
@[simp] theorem noteEvent_retests (s : State) (k : EventKind) (d : Nat) :
    (noteEvent k d s).retests = s.retests := rfl
@[simp] theorem noteEvent_siteGeometry (s : State) (k : EventKind) (d : Nat) :
    (noteEvent k d s).siteGeometry = s.siteGeometry := rfl
@[simp] theorem noteEvent_deck (s : State) (k : EventKind) (d : Nat) :
    (noteEvent k d s).deck = s.deck := rfl
@[simp] theorem noteEvent_nozzleTable (s : State) (k : EventKind) (d : Nat) :
    (noteEvent k d s).nozzleTable = s.nozzleTable := rfl
@[simp] theorem noteEvent_motion (s : State) (k : EventKind) (d : Nat) :
    (noteEvent k d s).motion = s.motion := rfl
@[simp] theorem noteEvent_sockets (s : State) (k : EventKind) (d : Nat) :
    (noteEvent k d s).sockets = s.sockets := rfl
@[simp] theorem noteEvent_groups (s : State) (k : EventKind) (d : Nat) :
    (noteEvent k d s).groups = s.groups := rfl
@[simp] theorem noteEvent_binMap (s : State) (k : EventKind) (d : Nat) :
    (noteEvent k d s).binMap = s.binMap := rfl
@[simp] theorem noteEvent_binPolicy (s : State) (k : EventKind) (d : Nat) :
    (noteEvent k d s).binPolicy = s.binPolicy := rfl
@[simp] theorem noteEvent_bins (s : State) (k : EventKind) (d : Nat) :
    (noteEvent k d s).bins = s.bins := rfl
@[simp] theorem noteEvent_heads (s : State) (k : EventKind) (d : Nat) :
    (noteEvent k d s).heads = s.heads := rfl
@[simp] theorem noteEvent_plans (s : State) (k : EventKind) (d : Nat) :
    (noteEvent k d s).plans = s.plans := rfl
@[simp] theorem noteEvent_planCount (s : State) (k : EventKind) (d : Nat) :
    (noteEvent k d s).planCount = s.planCount := rfl
@[simp] theorem noteEvent_points (s : State) (k : EventKind) (d : Nat) :
    (noteEvent k d s).points = s.points := rfl
@[simp] theorem noteEvent_timers (s : State) (k : EventKind) (d : Nat) :
    (noteEvent k d s).timers = s.timers := rfl
@[simp] theorem noteEvent_lotClock (s : State) (k : EventKind) (d : Nat) :
    (noteEvent k d s).lotClock = s.lotClock := rfl
@[simp] theorem noteEvent_timebase (s : State) (k : EventKind) (d : Nat) :
    (noteEvent k d s).timebase = s.timebase := rfl
@[simp] theorem noteEvent_tickFactors (s : State) (k : EventKind) (d : Nat) :
    (noteEvent k d s).tickFactors = s.tickFactors := rfl
@[simp] theorem noteEvent_prescaleCount (s : State) (k : EventKind) (d : Nat) :
    (noteEvent k d s).prescaleCount = s.prescaleCount := rfl
@[simp] theorem noteEvent_divideCount (s : State) (k : EventKind) (d : Nat) :
    (noteEvent k d s).divideCount = s.divideCount := rfl
@[simp] theorem noteEvent_lotState (s : State) (k : EventKind) (d : Nat) :
    (noteEvent k d s).lotState = s.lotState := rfl
@[simp] theorem noteEvent_remembered (s : State) (k : EventKind) (d : Nat) :
    (noteEvent k d s).remembered = s.remembered := rfl
@[simp] theorem noteEvent_completions (s : State) (k : EventKind) (d : Nat) :
    (noteEvent k d s).completions = s.completions := rfl
@[simp] theorem noteEvent_ticketCounter (s : State) (k : EventKind) (d : Nat) :
    (noteEvent k d s).ticketCounter = s.ticketCounter := rfl
@[simp] theorem noteEvent_slotWanted (s : State) (k : EventKind) (d : Nat) :
    (noteEvent k d s).slotWanted = s.slotWanted := rfl
@[simp] theorem noteEvent_cursors (s : State) (k : EventKind) (d : Nat) :
    (noteEvent k d s).cursors = s.cursors := rfl
@[simp] theorem noteEvent_lotTable (s : State) (k : EventKind) (d : Nat) :
    (noteEvent k d s).lotTable = s.lotTable := rfl
@[simp] theorem noteEvent_serviceList (s : State) (k : EventKind) (d : Nat) :
    (noteEvent k d s).serviceList = s.serviceList := rfl
@[simp] theorem noteEvent_eventMask (s : State) (k : EventKind) (d : Nat) :
    (noteEvent k d s).eventMask = s.eventMask := rfl
@[simp] theorem noteEvent_counters (s : State) (k : EventKind) (d : Nat) :
    (noteEvent k d s).counters = s.counters := rfl
@[simp] theorem noteEvent_draws (s : State) (k : EventKind) (d : Nat) :
    (noteEvent k d s).draws = s.draws := rfl
@[simp] theorem noteEvent_pending (s : State) (k : EventKind) (d : Nat) :
    (noteEvent k d s).pending = s.pending := rfl

/-! ## grantPoint, yieldCheck, tellOther -/

@[simp] theorem grantPoint_resetLow (h : Head) (s : State) : (grantPoint h s).resetLow = s.resetLow := rfl
@[simp] theorem grantPoint_ownAddress (h : Head) (s : State) : (grantPoint h s).ownAddress = s.ownAddress := rfl
@[simp] theorem grantPoint_upstream (h : Head) (s : State) : (grantPoint h s).upstream = s.upstream := rfl
@[simp] theorem grantPoint_downstream (h : Head) (s : State) : (grantPoint h s).downstream = s.downstream := rfl
@[simp] theorem grantPoint_node (h : Head) (s : State) : (grantPoint h s).node = s.node := rfl
@[simp] theorem grantPoint_forwarding (h : Head) (s : State) : (grantPoint h s).forwarding = s.forwarding := rfl
@[simp] theorem grantPoint_parts (h : Head) (s : State) : (grantPoint h s).parts = s.parts := rfl
@[simp] theorem grantPoint_inputs (h : Head) (s : State) : (grantPoint h s).inputs = s.inputs := rfl
@[simp] theorem grantPoint_retests (h : Head) (s : State) : (grantPoint h s).retests = s.retests := rfl
@[simp] theorem grantPoint_siteGeometry (h : Head) (s : State) : (grantPoint h s).siteGeometry = s.siteGeometry := rfl
@[simp] theorem grantPoint_deck (h : Head) (s : State) : (grantPoint h s).deck = s.deck := rfl
@[simp] theorem grantPoint_nozzleTable (h : Head) (s : State) : (grantPoint h s).nozzleTable = s.nozzleTable := rfl
@[simp] theorem grantPoint_motion (h : Head) (s : State) : (grantPoint h s).motion = s.motion := rfl
@[simp] theorem grantPoint_sockets (h : Head) (s : State) : (grantPoint h s).sockets = s.sockets := rfl
@[simp] theorem grantPoint_groups (h : Head) (s : State) : (grantPoint h s).groups = s.groups := rfl
@[simp] theorem grantPoint_binMap (h : Head) (s : State) : (grantPoint h s).binMap = s.binMap := rfl
@[simp] theorem grantPoint_binPolicy (h : Head) (s : State) : (grantPoint h s).binPolicy = s.binPolicy := rfl
@[simp] theorem grantPoint_bins (h : Head) (s : State) : (grantPoint h s).bins = s.bins := rfl
@[simp] theorem grantPoint_heads (h : Head) (s : State) : (grantPoint h s).heads = s.heads := rfl
@[simp] theorem grantPoint_plans (h : Head) (s : State) : (grantPoint h s).plans = s.plans := rfl
@[simp] theorem grantPoint_planCount (h : Head) (s : State) : (grantPoint h s).planCount = s.planCount := rfl
@[simp] theorem grantPoint_timers (h : Head) (s : State) : (grantPoint h s).timers = s.timers := rfl
@[simp] theorem grantPoint_lotClock (h : Head) (s : State) : (grantPoint h s).lotClock = s.lotClock := rfl
@[simp] theorem grantPoint_timebase (h : Head) (s : State) : (grantPoint h s).timebase = s.timebase := rfl
@[simp] theorem grantPoint_tickFactors (h : Head) (s : State) : (grantPoint h s).tickFactors = s.tickFactors := rfl
@[simp] theorem grantPoint_prescaleCount (h : Head) (s : State) : (grantPoint h s).prescaleCount = s.prescaleCount := rfl
@[simp] theorem grantPoint_divideCount (h : Head) (s : State) : (grantPoint h s).divideCount = s.divideCount := rfl
@[simp] theorem grantPoint_lotState (h : Head) (s : State) : (grantPoint h s).lotState = s.lotState := rfl
@[simp] theorem grantPoint_remembered (h : Head) (s : State) : (grantPoint h s).remembered = s.remembered := rfl
@[simp] theorem grantPoint_completions (h : Head) (s : State) : (grantPoint h s).completions = s.completions := rfl
@[simp] theorem grantPoint_ticketCounter (h : Head) (s : State) : (grantPoint h s).ticketCounter = s.ticketCounter := rfl
@[simp] theorem grantPoint_slotWanted (h : Head) (s : State) : (grantPoint h s).slotWanted = s.slotWanted := rfl
@[simp] theorem grantPoint_cursors (h : Head) (s : State) : (grantPoint h s).cursors = s.cursors := rfl
@[simp] theorem grantPoint_lotTable (h : Head) (s : State) : (grantPoint h s).lotTable = s.lotTable := rfl
@[simp] theorem grantPoint_serviceList (h : Head) (s : State) : (grantPoint h s).serviceList = s.serviceList := rfl
@[simp] theorem grantPoint_events (h : Head) (s : State) : (grantPoint h s).events = s.events := rfl
@[simp] theorem grantPoint_eventMask (h : Head) (s : State) : (grantPoint h s).eventMask = s.eventMask := rfl
@[simp] theorem grantPoint_counters (h : Head) (s : State) : (grantPoint h s).counters = s.counters := rfl
@[simp] theorem grantPoint_draws (h : Head) (s : State) : (grantPoint h s).draws = s.draws := rfl
@[simp] theorem grantPoint_pending (h : Head) (s : State) : (grantPoint h s).pending = s.pending := rfl

@[simp] theorem yieldCheck_resetLow (h : Head) (s : State) : (yieldCheck h s).resetLow = s.resetLow := rfl
@[simp] theorem yieldCheck_ownAddress (h : Head) (s : State) : (yieldCheck h s).ownAddress = s.ownAddress := rfl
@[simp] theorem yieldCheck_upstream (h : Head) (s : State) : (yieldCheck h s).upstream = s.upstream := rfl
@[simp] theorem yieldCheck_downstream (h : Head) (s : State) : (yieldCheck h s).downstream = s.downstream := rfl
@[simp] theorem yieldCheck_node (h : Head) (s : State) : (yieldCheck h s).node = s.node := rfl
@[simp] theorem yieldCheck_forwarding (h : Head) (s : State) : (yieldCheck h s).forwarding = s.forwarding := rfl
@[simp] theorem yieldCheck_parts (h : Head) (s : State) : (yieldCheck h s).parts = s.parts := rfl
@[simp] theorem yieldCheck_inputs (h : Head) (s : State) : (yieldCheck h s).inputs = s.inputs := rfl
@[simp] theorem yieldCheck_retests (h : Head) (s : State) : (yieldCheck h s).retests = s.retests := rfl
@[simp] theorem yieldCheck_siteGeometry (h : Head) (s : State) : (yieldCheck h s).siteGeometry = s.siteGeometry := rfl
@[simp] theorem yieldCheck_deck (h : Head) (s : State) : (yieldCheck h s).deck = s.deck := rfl
@[simp] theorem yieldCheck_nozzleTable (h : Head) (s : State) : (yieldCheck h s).nozzleTable = s.nozzleTable := rfl
@[simp] theorem yieldCheck_motion (h : Head) (s : State) : (yieldCheck h s).motion = s.motion := rfl
@[simp] theorem yieldCheck_sockets (h : Head) (s : State) : (yieldCheck h s).sockets = s.sockets := rfl
@[simp] theorem yieldCheck_groups (h : Head) (s : State) : (yieldCheck h s).groups = s.groups := rfl
@[simp] theorem yieldCheck_binMap (h : Head) (s : State) : (yieldCheck h s).binMap = s.binMap := rfl
@[simp] theorem yieldCheck_binPolicy (h : Head) (s : State) : (yieldCheck h s).binPolicy = s.binPolicy := rfl
@[simp] theorem yieldCheck_bins (h : Head) (s : State) : (yieldCheck h s).bins = s.bins := rfl
@[simp] theorem yieldCheck_heads (h : Head) (s : State) : (yieldCheck h s).heads = s.heads := rfl
@[simp] theorem yieldCheck_plans (h : Head) (s : State) : (yieldCheck h s).plans = s.plans := rfl
@[simp] theorem yieldCheck_planCount (h : Head) (s : State) : (yieldCheck h s).planCount = s.planCount := rfl
@[simp] theorem yieldCheck_timers (h : Head) (s : State) : (yieldCheck h s).timers = s.timers := rfl
@[simp] theorem yieldCheck_lotClock (h : Head) (s : State) : (yieldCheck h s).lotClock = s.lotClock := rfl
@[simp] theorem yieldCheck_timebase (h : Head) (s : State) : (yieldCheck h s).timebase = s.timebase := rfl
@[simp] theorem yieldCheck_tickFactors (h : Head) (s : State) : (yieldCheck h s).tickFactors = s.tickFactors := rfl
@[simp] theorem yieldCheck_prescaleCount (h : Head) (s : State) : (yieldCheck h s).prescaleCount = s.prescaleCount := rfl
@[simp] theorem yieldCheck_divideCount (h : Head) (s : State) : (yieldCheck h s).divideCount = s.divideCount := rfl
@[simp] theorem yieldCheck_lotState (h : Head) (s : State) : (yieldCheck h s).lotState = s.lotState := rfl
@[simp] theorem yieldCheck_remembered (h : Head) (s : State) : (yieldCheck h s).remembered = s.remembered := rfl
@[simp] theorem yieldCheck_completions (h : Head) (s : State) : (yieldCheck h s).completions = s.completions := rfl
@[simp] theorem yieldCheck_ticketCounter (h : Head) (s : State) : (yieldCheck h s).ticketCounter = s.ticketCounter := rfl
@[simp] theorem yieldCheck_slotWanted (h : Head) (s : State) : (yieldCheck h s).slotWanted = s.slotWanted := rfl
@[simp] theorem yieldCheck_cursors (h : Head) (s : State) : (yieldCheck h s).cursors = s.cursors := rfl
@[simp] theorem yieldCheck_lotTable (h : Head) (s : State) : (yieldCheck h s).lotTable = s.lotTable := rfl
@[simp] theorem yieldCheck_serviceList (h : Head) (s : State) : (yieldCheck h s).serviceList = s.serviceList := rfl
@[simp] theorem yieldCheck_events (h : Head) (s : State) : (yieldCheck h s).events = s.events := rfl
@[simp] theorem yieldCheck_eventMask (h : Head) (s : State) : (yieldCheck h s).eventMask = s.eventMask := rfl
@[simp] theorem yieldCheck_counters (h : Head) (s : State) : (yieldCheck h s).counters = s.counters := rfl
@[simp] theorem yieldCheck_draws (h : Head) (s : State) : (yieldCheck h s).draws = s.draws := rfl
@[simp] theorem yieldCheck_pending (h : Head) (s : State) : (yieldCheck h s).pending = s.pending := rfl

@[simp] theorem tellOther_resetLow (h : Head) (old : Span) (s : State) : (tellOther h old s).resetLow = s.resetLow := by
  unfold tellOther; dsimp only; split <;> rfl
@[simp] theorem tellOther_ownAddress (h : Head) (old : Span) (s : State) : (tellOther h old s).ownAddress = s.ownAddress := by
  unfold tellOther; dsimp only; split <;> rfl
@[simp] theorem tellOther_upstream (h : Head) (old : Span) (s : State) : (tellOther h old s).upstream = s.upstream := by
  unfold tellOther; dsimp only; split <;> rfl
@[simp] theorem tellOther_downstream (h : Head) (old : Span) (s : State) : (tellOther h old s).downstream = s.downstream := by
  unfold tellOther; dsimp only; split <;> rfl
@[simp] theorem tellOther_node (h : Head) (old : Span) (s : State) : (tellOther h old s).node = s.node := by
  unfold tellOther; dsimp only; split <;> rfl
@[simp] theorem tellOther_forwarding (h : Head) (old : Span) (s : State) : (tellOther h old s).forwarding = s.forwarding := by
  unfold tellOther; dsimp only; split <;> rfl
@[simp] theorem tellOther_parts (h : Head) (old : Span) (s : State) : (tellOther h old s).parts = s.parts := by
  unfold tellOther; dsimp only; split <;> rfl
@[simp] theorem tellOther_inputs (h : Head) (old : Span) (s : State) : (tellOther h old s).inputs = s.inputs := by
  unfold tellOther; dsimp only; split <;> rfl
@[simp] theorem tellOther_retests (h : Head) (old : Span) (s : State) : (tellOther h old s).retests = s.retests := by
  unfold tellOther; dsimp only; split <;> rfl
@[simp] theorem tellOther_siteGeometry (h : Head) (old : Span) (s : State) : (tellOther h old s).siteGeometry = s.siteGeometry := by
  unfold tellOther; dsimp only; split <;> rfl
@[simp] theorem tellOther_deck (h : Head) (old : Span) (s : State) : (tellOther h old s).deck = s.deck := by
  unfold tellOther; dsimp only; split <;> rfl
@[simp] theorem tellOther_nozzleTable (h : Head) (old : Span) (s : State) : (tellOther h old s).nozzleTable = s.nozzleTable := by
  unfold tellOther; dsimp only; split <;> rfl
@[simp] theorem tellOther_motion (h : Head) (old : Span) (s : State) : (tellOther h old s).motion = s.motion := by
  unfold tellOther; dsimp only; split <;> rfl
@[simp] theorem tellOther_sockets (h : Head) (old : Span) (s : State) : (tellOther h old s).sockets = s.sockets := by
  unfold tellOther; dsimp only; split <;> rfl
@[simp] theorem tellOther_groups (h : Head) (old : Span) (s : State) : (tellOther h old s).groups = s.groups := by
  unfold tellOther; dsimp only; split <;> rfl
@[simp] theorem tellOther_binMap (h : Head) (old : Span) (s : State) : (tellOther h old s).binMap = s.binMap := by
  unfold tellOther; dsimp only; split <;> rfl
@[simp] theorem tellOther_binPolicy (h : Head) (old : Span) (s : State) : (tellOther h old s).binPolicy = s.binPolicy := by
  unfold tellOther; dsimp only; split <;> rfl
@[simp] theorem tellOther_bins (h : Head) (old : Span) (s : State) : (tellOther h old s).bins = s.bins := by
  unfold tellOther; dsimp only; split <;> rfl
@[simp] theorem tellOther_heads (h : Head) (old : Span) (s : State) : (tellOther h old s).heads = s.heads := by
  unfold tellOther; dsimp only; split <;> rfl
@[simp] theorem tellOther_plans (h : Head) (old : Span) (s : State) : (tellOther h old s).plans = s.plans := by
  unfold tellOther; dsimp only; split <;> rfl
@[simp] theorem tellOther_planCount (h : Head) (old : Span) (s : State) : (tellOther h old s).planCount = s.planCount := by
  unfold tellOther; dsimp only; split <;> rfl
@[simp] theorem tellOther_timers (h : Head) (old : Span) (s : State) : (tellOther h old s).timers = s.timers := by
  unfold tellOther; dsimp only; split <;> rfl
@[simp] theorem tellOther_lotClock (h : Head) (old : Span) (s : State) : (tellOther h old s).lotClock = s.lotClock := by
  unfold tellOther; dsimp only; split <;> rfl
@[simp] theorem tellOther_timebase (h : Head) (old : Span) (s : State) : (tellOther h old s).timebase = s.timebase := by
  unfold tellOther; dsimp only; split <;> rfl
@[simp] theorem tellOther_tickFactors (h : Head) (old : Span) (s : State) : (tellOther h old s).tickFactors = s.tickFactors := by
  unfold tellOther; dsimp only; split <;> rfl
@[simp] theorem tellOther_prescaleCount (h : Head) (old : Span) (s : State) : (tellOther h old s).prescaleCount = s.prescaleCount := by
  unfold tellOther; dsimp only; split <;> rfl
@[simp] theorem tellOther_divideCount (h : Head) (old : Span) (s : State) : (tellOther h old s).divideCount = s.divideCount := by
  unfold tellOther; dsimp only; split <;> rfl
@[simp] theorem tellOther_lotState (h : Head) (old : Span) (s : State) : (tellOther h old s).lotState = s.lotState := by
  unfold tellOther; dsimp only; split <;> rfl
@[simp] theorem tellOther_remembered (h : Head) (old : Span) (s : State) : (tellOther h old s).remembered = s.remembered := by
  unfold tellOther; dsimp only; split <;> rfl
@[simp] theorem tellOther_completions (h : Head) (old : Span) (s : State) : (tellOther h old s).completions = s.completions := by
  unfold tellOther; dsimp only; split <;> rfl
@[simp] theorem tellOther_ticketCounter (h : Head) (old : Span) (s : State) : (tellOther h old s).ticketCounter = s.ticketCounter := by
  unfold tellOther; dsimp only; split <;> rfl
@[simp] theorem tellOther_slotWanted (h : Head) (old : Span) (s : State) : (tellOther h old s).slotWanted = s.slotWanted := by
  unfold tellOther; dsimp only; split <;> rfl
@[simp] theorem tellOther_cursors (h : Head) (old : Span) (s : State) : (tellOther h old s).cursors = s.cursors := by
  unfold tellOther; dsimp only; split <;> rfl
@[simp] theorem tellOther_lotTable (h : Head) (old : Span) (s : State) : (tellOther h old s).lotTable = s.lotTable := by
  unfold tellOther; dsimp only; split <;> rfl
@[simp] theorem tellOther_serviceList (h : Head) (old : Span) (s : State) : (tellOther h old s).serviceList = s.serviceList := by
  unfold tellOther; dsimp only; split <;> rfl
@[simp] theorem tellOther_events (h : Head) (old : Span) (s : State) : (tellOther h old s).events = s.events := by
  unfold tellOther; dsimp only; split <;> rfl
@[simp] theorem tellOther_eventMask (h : Head) (old : Span) (s : State) : (tellOther h old s).eventMask = s.eventMask := by
  unfold tellOther; dsimp only; split <;> rfl
@[simp] theorem tellOther_counters (h : Head) (old : Span) (s : State) : (tellOther h old s).counters = s.counters := by
  unfold tellOther; dsimp only; split <;> rfl
@[simp] theorem tellOther_draws (h : Head) (old : Span) (s : State) : (tellOther h old s).draws = s.draws := by
  unfold tellOther; dsimp only; split <;> rfl
@[simp] theorem tellOther_pending (h : Head) (old : Span) (s : State) : (tellOther h old s).pending = s.pending := by
  unfold tellOther; dsimp only; split <;> rfl

/-! ## The place an update touches -/

@[simp] theorem PerHead.get_set_self (p : PerHead α) (h : Head) (x : α) : (p.set h x).get h = x := by cases h <;> rfl

@[simp] theorem PerHead.get_set_other (p : PerHead α) (h : Head) (x : α) : (p.set h x).get h.other = p.get h.other := by
  cases h <;> rfl

theorem PerHead.get_set (p : PerHead α) (h k : Head) (x : α) :
    (p.set h x).get k = if h = k then x else p.get k := by cases h <;> cases k <;> rfl

@[simp] theorem State.port_setPort_self (s : State) (p : Port) (x : PortState) : (s.setPort p x).port p = x := by
  cases p <;> rfl

@[simp] theorem State.port_setPort_other (s : State) (p : Port) (x : PortState) :
    (s.setPort p x).port p.other = s.port p.other := by cases p <;> rfl

theorem State.port_setPort (s : State) (p q : Port) (x : PortState) :
    (s.setPort p x).port q = if p = q then x else s.port q := by cases p <;> cases q <;> rfl

@[simp] theorem State.head_setHead_self (s : State) (h : Head) (x : HeadRecord) : (s.setHead h x).head h = x := by
  cases h <;> rfl

@[simp] theorem State.head_setHead_other (s : State) (h : Head) (x : HeadRecord) :
    (s.setHead h x).head h.other = s.head h.other := by cases h <;> rfl

@[simp] theorem State.head_modHead_self (s : State) (h : Head) (f : HeadRecord → HeadRecord) :
    (s.modHead h f).head h = f (s.head h) := by cases h <;> rfl

@[simp] theorem State.head_modHead_other (s : State) (h : Head) (f : HeadRecord → HeadRecord) :
    (s.modHead h f).head h.other = s.head h.other := by cases h <;> rfl

theorem State.head_modHead (s : State) (h k : Head) (f : HeadRecord → HeadRecord) :
    (s.modHead h f).head k = if h = k then f (s.head h) else s.head k := by cases h <;> cases k <;> rfl

theorem State.socket_modSocket (s : State) (i j : Fin 64) (f : Socket → Socket) :
    (s.modSocket i f).sockets[j] = if i = j then f s.sockets[i] else s.sockets[j] := by
  simp [State.modSocket, Vector.getElem_set, Fin.ext_iff]

theorem State.socket_modSocket_self (s : State) (i : Fin 64) (f : Socket → Socket) :
    (s.modSocket i f).sockets[i] = f s.sockets[i] := (s.socket_modSocket i i f).trans (if_pos rfl)

theorem State.input_modInput (s : State) (i j : Fin 8) (f : InputSlot → InputSlot) :
    (s.modInput i f).inputs[j] = if i = j then f s.inputs[i] else s.inputs[j] := by
  simp [State.modInput, Vector.getElem_set, Fin.ext_iff]

theorem State.retest_modRetest (s : State) (i j : Fin 8) (f : RetestSlot → RetestSlot) :
    (s.modRetest i f).retests[j] = if i = j then f s.retests[i] else s.retests[j] := by
  simp [State.modRetest, Vector.getElem_set, Fin.ext_iff]

theorem State.part_setPart (s : State) (i j : Fin 96) (r : Option PartRecord) :
    (s.setPart i r).parts[j] = if i = j then r else s.parts[j] := by
  simp [State.setPart, Vector.getElem_set, Fin.ext_iff]

theorem State.part_modPart (s : State) (i j : Fin 96) (f : PartRecord → PartRecord) :
    (s.modPart i f).parts[j] = if i = j then s.parts[i].map f else s.parts[j] := s.part_setPart i j _

theorem State.bin_modBin (s : State) (i j : Fin 16) (f : Bin → Bin) :
    (s.modBin i f).bins[j] = if i = j then f s.bins[i] else s.bins[j] := by
  simp [State.modBin, Vector.getElem_set, Fin.ext_iff]

@[simp] theorem Bin.tray_setTray_self (b : Bin) (t : TrayId) (x : TrayRecord) : (b.setTray t x).tray t = x := by
  cases t <;> rfl

@[simp] theorem Bin.tray_setTray_other (b : Bin) (t : TrayId) (x : TrayRecord) :
    (b.setTray t x).tray t.other = b.tray t.other := by cases t <;> rfl

theorem event_noteEvent (s : State) (k : EventKind) (d : Nat) (j : Fin 21) :
    (noteEvent k d s).events[j] = if k.num = j then s.events[k.num].occur d else s.events[j] := by
  simp [noteEvent, Vector.getElem_set, Fin.ext_iff]

/-! ## Timers -/

theorem State.timer_setTimer (s : State) (a b : TimerId) (t : Timer) :
    (s.setTimer a t).timer b = if a = b then t else s.timer b := by
  cases a <;> cases b <;>
    simp [State.setTimer, State.timer, Vector.getElem_set, PerHead.get_set, Fin.ext_iff]

@[simp] theorem timer_cancelTimer (s : State) (a b : TimerId) :
    (cancelTimer a s).timer b = if a = b then .clear else s.timer b := State.timer_setTimer s a b .clear

theorem timer_startTimer (s : State) (a b : TimerId) (n : Nat) :
    (startTimer a n s).timer b =
      if a = b then Timer.start (!a.gated || s.lotState.active) n else s.timer b := State.timer_setTimer s a b _

@[simp] theorem mapVec_getElem (f : α → β) (v : Vector α n) (i : Nat) (h : i < n) : (mapVec f v)[i] = f v[i] := by
  simp [mapVec]

theorem State.timer_mapAll (s : State) (f : Timer → Timer) (id : TimerId) :
    ({ s with timers := s.timers.mapAll f } : State).timer id = f (s.timer id) := by
  cases id with
  | order h => cases h <;> rfl
  | yield h => cases h <;> rfl
  | recover h => cases h <;> rfl
  | _ => simp [State.timer, Timers.mapAll]

theorem State.timer_mapGated (s : State) (f : Timer → Timer) (id : TimerId) :
    ({ s with timers := s.timers.mapGated f } : State).timer id = if id.gated then f (s.timer id) else s.timer id := by
  cases id with
  | order h => cases h <;> rfl
  | yield h => cases h <;> rfl
  | recover h => cases h <;> rfl
  | _ => simp [State.timer, Timers.mapGated, TimerId.gated]

@[simp] theorem changeLot_lotState (s : State) (l : LotState) : (changeLot l s).lotState = l := rfl

/-- R152: what a change of lot state does to a timer. -/
theorem timer_changeLot (s : State) (l : LotState) (id : TimerId) :
    (changeLot l s).timer id =
      if id.gated then
        if s.lotState.active && !l.active then (s.timer id).hold
        else if !s.lotState.active && l.active then (s.timer id).resume
        else s.timer id
      else s.timer id := by
  have key : (changeLot l s).timer id =
      ({ s with timers :=
          if s.lotState.active && !l.active then s.timers.mapGated Timer.hold
          else if !s.lotState.active && l.active then s.timers.mapGated Timer.resume
          else s.timers } : State).timer id := by cases id <;> rfl
  rw [key]
  cases s.lotState.active <;> cases l.active <;> simp [State.timer_mapGated]

/-! ## Expiries that are due (R149, R150) -/

theorem mem_allTimers (id : TimerId) : id ∈ allTimers := by
  cases id with
  | order h => cases h <;> simp [allTimers]
  | yield h => cases h <;> simp [allTimers]
  | recover h => cases h <;> simp [allTimers]
  | _ => simp [allTimers]

theorem Timer.due_iff (t : Timer) : t.due = true ↔ t = .expired ∨ t = .atOnce := by cases t <;> simp [Timer.due]

/-- The timers that are due are those with an expiry to take. -/
theorem mem_dueTimers (s : State) (id : TimerId) : id ∈ dueTimers s ↔ (s.timer id).due = true := by
  simp [dueTimers, mem_allTimers]

theorem dueTimers_nil (s : State) : dueTimers s = [] ↔ ∀ id, (s.timer id).due = false := by
  simp [List.eq_nil_iff_forall_not_mem, mem_dueTimers]

/-- With no expiry due nothing is taken. -/
@[simp] theorem takeDue_of_none {s : State} (h : dueTimers s = []) : takeDue s = s := by
  unfold takeDue takeDueLoop
  rw [h]
  split <;> rfl

/-- While RESET_N is low no expiry is taken. -/
@[simp] theorem takeDue_of_resetLow {s : State} (h : s.resetLow = true) : takeDue s = s := by
  simp [takeDue, h]

theorem takeExpiry_of_not_due {s : State} {id : TimerId} (h : (s.timer id).due = false) : takeExpiry id s = s := by
  simp [takeExpiry, h]

/-! ## A yield delay of 0 (R149) -/

theorem atOnceYields_nil (s : State) : atOnceYields s = [] ↔ ∀ h, s.timer (.yield h) ≠ .atOnce := by
  simp only [atOnceYields, List.filter_eq_nil_iff, List.mem_cons, List.not_mem_nil, or_false, beq_iff_eq]
  exact ⟨fun a h => a h (by cases h <;> simp), fun a h _ => a h⟩

/-- With no yield timer started with 0 a command ends with its event. -/
theorem finish_of_none {s : State} (h : ∀ x, (endEvent s).timer (.yield x) ≠ .atOnce) : finish s = endEvent s := by
  unfold finish takeAtOnce atOnceLoop
  rw [(atOnceYields_nil _).2 h]

end Sys2Proof.Machine
end

