-- ==== Sys2Proof/Laws/Closure.lean ====
section
/-! SUPPORT. An induction over the whole part, packaged once. A law of the ports, the event records, the completion list
and the timers that the few primitive changes to them keep is kept by every command, `Closed.exec`, and by every step,
`Closed.step`. -/

namespace Sys2Proof.Machine

/-- Two states with the same ports, event records, completion list, timers and lot state. -/
structure SameLaws (s t : State) : Prop where
  upstream : t.upstream = s.upstream
  downstream : t.downstream = s.downstream
  events : t.events = s.events
  completions : t.completions = s.completions
  ticketCounter : t.ticketCounter = s.ticketCounter
  timers : t.timers = s.timers
  lotState : t.lotState = s.lotState

/-- A property of states that every primitive change to the link, the events, the completion list and the timers
keeps, but for a new ticket and the resets. -/
structure Kept (P : State → Prop) : Prop where
  same : ∀ {s t}, P s → SameLaws s t → P t
  start : ∀ id n {s}, P s → P (startTimer id n s)
  cancel : ∀ id {s}, P s → P (cancelTimer id s)
  lot : ∀ l {s}, P s → P (changeLot l s)
  note : ∀ k d {s}, P s → P (noteEvent k d s)
  forget : ∀ set {s}, P s → P (clearEvents set s)
  number : ∀ p {s}, P s → P (advanceSequence p s)
  own : ∀ p f {s}, ownFull p s = false → P s → P (joinOwn p f s)
  through : ∀ p f {s}, throughFull p s = false → P s → P (joinThrough p f s)
  sent : ∀ p {s}, P s → P (endTransmission p s)
  done : ∀ t {s}, P s → P { s with completions := s.completions.filter fun d => !(d.ticket == t) }
  ticked : ∀ {s}, P s → P (endTick s)

/-- A property that a new ticket and the resets keep as well. -/
structure Closed (P : State → Prop) : Prop extends Kept P where
  ticket : ∀ code subject {s}, completionsFull s = false → P s → P (takeTicket code subject s)
  soft : ∀ {s}, P s → P (softReset s)
  power : ∀ a q n, P { State.reset with ownAddress := a, pending := q, draws := n }
  silent : ∀ {s}, P s → P { s with
    resetLow := true
    upstream := { s.upstream with sending := none }
    downstream := { s.downstream with sending := none }
    prescaleCount := 0
    divideCount := 0 }

variable {P : State → Prop} {s : State}

theorem foldl_keeps {α : Type} {f : State → α → State} (hf : ∀ s a, P s → P (f s a)) :
    ∀ (l : List α) {s}, P s → P (l.foldl f s)
  | [], _, hs => hs
  | a :: l, s, hs => foldl_keeps hf l (hf s a hs)

namespace Kept

/-! ## Records of the deck -/

theorem modHead (c : Kept P) (h : Head) (f : HeadRecord → HeadRecord) (hs : P s) : P (s.modHead h f) :=
  c.same hs ⟨rfl, rfl, rfl, rfl, rfl, rfl, rfl⟩

theorem modNozzle (c : Kept P) (h : Head) (n : Fin 4) (f : Nozzle → Nozzle) (hs : P s) : P (s.modNozzle h n f) :=
  c.same hs ⟨rfl, rfl, rfl, rfl, rfl, rfl, rfl⟩

theorem modSocket (c : Kept P) (i : Fin 64) (f : Socket → Socket) (hs : P s) : P (s.modSocket i f) :=
  c.same hs ⟨rfl, rfl, rfl, rfl, rfl, rfl, rfl⟩

theorem modInput (c : Kept P) (i : Fin 8) (f : InputSlot → InputSlot) (hs : P s) : P (s.modInput i f) :=
  c.same hs ⟨rfl, rfl, rfl, rfl, rfl, rfl, rfl⟩

theorem modRetest (c : Kept P) (i : Fin 8) (f : RetestSlot → RetestSlot) (hs : P s) : P (s.modRetest i f) :=
  c.same hs ⟨rfl, rfl, rfl, rfl, rfl, rfl, rfl⟩

theorem setPart (c : Kept P) (i : Fin 96) (r : Option PartRecord) (hs : P s) : P (s.setPart i r) :=
  c.same hs ⟨rfl, rfl, rfl, rfl, rfl, rfl, rfl⟩

theorem modPart (c : Kept P) (i : Fin 96) (f : PartRecord → PartRecord) (hs : P s) : P (s.modPart i f) :=
  c.same hs ⟨rfl, rfl, rfl, rfl, rfl, rfl, rfl⟩

theorem modBin (c : Kept P) (i : Fin 16) (f : Bin → Bin) (hs : P s) : P (s.modBin i f) :=
  c.same hs ⟨rfl, rfl, rfl, rfl, rfl, rfl, rfl⟩

theorem modTray (c : Kept P) (i : Fin 16) (t : TrayId) (f : TrayRecord → TrayRecord) (hs : P s) :
    P (s.modTray i t f) := c.same hs ⟨rfl, rfl, rfl, rfl, rfl, rfl, rfl⟩

theorem modCounters (c : Kept P) (f : Counters → Counters) (hs : P s) : P (s.modCounters f) :=
  c.same hs ⟨rfl, rfl, rfl, rfl, rfl, rfl, rfl⟩

/-! ## Grant points and yield checks -/

theorem grantPoint (c : Kept P) (h : Head) (hs : P s) : P (grantPoint h s) := c.same hs ⟨rfl, rfl, rfl, rfl, rfl, rfl, rfl⟩

theorem yieldCheck (c : Kept P) (h : Head) (hs : P s) : P (yieldCheck h s) := c.same hs ⟨rfl, rfl, rfl, rfl, rfl, rfl, rfl⟩

theorem noPoints (c : Kept P) (x : Points) (hs : P s) : P { s with points := x } := c.same hs ⟨rfl, rfl, rfl, rfl, rfl, rfl, rfl⟩

theorem draw (c : Kept P) (n : Nat) (hs : P s) : P { s with draws := n } := c.same hs ⟨rfl, rfl, rfl, rfl, rfl, rfl, rfl⟩

theorem tellOther (c : Kept P) (h : Head) (old : Span) (hs : P s) : P (tellOther h old s) := by
  have h1 := c.yieldCheck h.other hs
  unfold Machine.tellOther
  dsimp only
  split
  · exact c.grantPoint _ h1
  · exact h1

theorem recomputeHoldings (c : Kept P) (h : Head) (hs : P s) : P (recomputeHoldings h s) :=
  c.tellOther _ _ (c.modHead _ _ hs)

theorem widenHoldings (c : Kept P) (h : Head) (hs : P s) : P (widenHoldings h s) := c.tellOther _ _ (c.modHead _ _ hs)

/-! ## Frames and events -/

theorem joinOwnOrDrop (c : Kept P) (p : Port) (f : Frame) (hs : P s) : P (joinOwnOrDrop p f s) := by
  unfold Machine.joinOwnOrDrop
  split
  · exact hs
  · exact c.own p f (Bool.eq_false_of_not_eq_true ‹¬ _›) hs

theorem produceNotice (c : Kept P) (k : EventKind) (hs : P s) : P (produceNotice k s) :=
  c.joinOwnOrDrop _ _ (c.number _ hs)

theorem raiseCongestion (c : Kept P) (d : Nat) (hs : P s) : P (raiseCongestion d s) := by
  have hn := c.note .linkCongestion d hs
  unfold Machine.raiseCongestion
  dsimp only
  split
  · split
    · exact c.note _ _ (c.produceNotice _ hn)
    · exact c.produceNotice _ hn
  · exact hn

theorem raiseEvent (c : Kept P) (k : EventKind) (d : Nat) (hs : P s) : P (raiseEvent k d s) := by
  have hn := c.note k d hs
  unfold Machine.raiseEvent
  dsimp only
  split
  · split
    · exact c.raiseCongestion _ (c.produceNotice _ hn)
    · exact c.produceNotice _ hn
  · exact hn

theorem queueOwn (c : Kept P) (p : Port) (f : Frame) (hs : P s) : P (queueOwn p f s) := by
  unfold Machine.queueOwn
  split
  · exact c.raiseCongestion _ hs
  · exact c.own p f (Bool.eq_false_of_not_eq_true ‹¬ _›) hs

theorem produce (c : Kept P) (p : Port) (d k : Byte) (pl : List Byte) (hs : P s) : P (produce p d k pl s) :=
  c.queueOwn _ _ (c.number _ hs)

theorem respondWith (c : Kept P) (r : Request) (code : ResultCode) (t : Nat) (fs : List Byte) (hs : P s) :
    P (respondWith r code t fs s) := c.queueOwn _ _ hs

theorem respond (c : Kept P) (r : Request) (code : ResultCode) (hs : P s) : P (respond r code s) :=
  c.respondWith _ _ _ _ hs

theorem respondOk (c : Kept P) (r : Request) (fs : List Byte) (hs : P s) : P (respondOk r fs s) :=
  c.respondWith _ _ _ _ hs

theorem respondRange (c : Kept P) (r : Request) (i : Nat) (hs : P s) : P (respondRange r i s) :=
  c.respondWith _ _ _ _ hs

theorem respondTicket (c : Kept P) (r : Request) (t : Nat) (hs : P s) : P (respondTicket r t s) :=
  c.respondWith _ _ _ _ hs

theorem respondListFull (c : Kept P) (r : Request) (hs : P s) : P (respondListFull r s) :=
  c.respond _ _ (c.same hs ⟨rfl, rfl, rfl, rfl, rfl, rfl, rfl⟩)

theorem takeRequest (c : Kept P) (r : Request) (a b : Bool) {act : State → State} (ha : ∀ {s}, P s → P (act s))
    (hs : P s) : P (takeRequest r a b act s) := by
  unfold Machine.takeRequest
  split
  · split
    · exact ha hs
    · exact c.respond _ _ hs
  · exact c.respond _ _ hs

theorem requestArrives (c : Kept P) (r : Request) {act : Request → State → State}
    (ha : ∀ {s}, P s → P (act r s)) (hs : P s) : P (requestArrives r act s) := by
  unfold Machine.requestArrives
  split
  · exact hs
  · split
    · exact hs
    · split
      · exact c.raiseEvent _ _ hs
      · exact ha hs

theorem slotFreed (c : Kept P) (t : Nat) (hs : P s) : P (slotFreed t s) := by
  unfold Machine.slotFreed
  split
  · exact c.raiseEvent _ _ (c.same hs ⟨rfl, rfl, rfl, rfl, rfl, rfl, rfl⟩)
  · exact hs

theorem produceCompletion (c : Kept P) (x : Completion) (f : FinalCode) (hs : P s) : P (produceCompletion x f s) :=
  c.produce _ _ _ _ hs

theorem complete (c : Kept P) (code : Byte) (subject : Subject) (f : FinalCode) (hs : P s) :
    P (complete code subject f s) := by
  unfold Machine.complete
  split
  · exact hs
  · exact c.slotFreed _ (c.produceCompletion _ _ (c.done _ hs))

/-! ## Places and trays -/

theorem opportunity (c : Kept P) (h : Head) (hs : P s) : P (opportunity h s) := by
  unfold Machine.opportunity
  split
  · exact c.modHead _ _ hs
  · exact hs

theorem opportunityBoth (c : Kept P) (hs : P s) : P (opportunityBoth s) := c.opportunity _ (c.opportunity _ hs)

theorem opportunityServing (c : Kept P) (i : Fin 64) (hs : P s) : P (opportunityServing i s) := by
  unfold Machine.opportunityServing
  dsimp only
  split <;> split <;> first | exact c.opportunity _ (c.opportunity _ hs) | exact c.opportunity _ hs | exact hs

theorem setRecordAt (c : Kept P) (p : Place) (r : Option (Fin 96)) (hs : P s) : P (s.setRecordAt p r) := by
  unfold State.setRecordAt
  split
  · exact c.modSocket _ _ hs
  · exact c.modNozzle _ _ _ hs
  · exact c.modInput _ _ hs
  · exact c.modRetest _ _ hs

theorem moveRecord (c : Kept P) (a b : Place) (hs : P s) : P (moveRecord a b s) := by
  unfold Machine.moveRecord
  split
  · exact hs
  · exact c.modPart _ _ (c.setRecordAt _ _ (c.setRecordAt _ _ hs))

theorem releaseAt (c : Kept P) (p : Place) (hs : P s) : P (releaseAt p s) := by
  unfold Machine.releaseAt
  split
  · exact hs
  · exact c.setPart _ _ (c.setRecordAt _ _ hs)

theorem countRemoved (c : Kept P) (hs : P s) : P (countRemoved s) := c.modCounters _ hs

theorem uncountRemoved (c : Kept P) (hs : P s) : P (uncountRemoved s) := c.modCounters _ hs

theorem fillTray (c : Kept P) (b : Fin 16) (t : TrayId) (hs : P s) : P (fillTray b t s) := by
  unfold Machine.fillTray
  dsimp only
  split
  · exact c.raiseEvent _ _ (c.modTray _ _ _ hs)
  · exact hs

theorem holePocket (c : Kept P) (b : Fin 16) (t : TrayId) (hs : P s) : P (holePocket b t s) :=
  c.fillTray _ _ (c.modTray _ _ _ hs)

theorem placePocket (c : Kept P) (b : Fin 16) (t : TrayId) (hs : P s) : P (placePocket b t s) :=
  c.fillTray _ _ (c.modCounters _ (c.modTray _ _ _ hs))

theorem moveActive (c : Kept P) (b : Fin 16) (t : TrayId) (hs : P s) : P (moveActive b t s) := by
  unfold Machine.moveActive
  split
  · exact c.opportunityBoth (c.modBin _ _ (c.modTray _ _ _ hs))
  · exact c.modBin _ _ hs

theorem takePocket (c : Kept P) (b : Fin 16) (t : TrayId) (hs : P s) : P (takePocket b t s).1 := by
  unfold Machine.takePocket
  dsimp only
  split
  · exact c.moveActive _ _ (c.modTray _ _ _ (c.modTray _ _ _ hs))
  · exact c.modTray _ _ _ hs

theorem askPocket (c : Kept P) (b : Fin 16) (hs : P s) : P (askPocket b s).1 := by
  unfold Machine.askPocket
  split
  · dsimp only
    exact c.modBin _ _ (c.takePocket _ _ hs)
  · dsimp only
    split
    · exact c.modBin _ _ hs
    · exact c.raiseEvent _ _ (c.modBin _ _ hs)

/-! ## Queues and plans -/

theorem enqueue (c : Kept P) (h : Head) (o : Order) (hs : P s) : P (enqueue h o s) := c.modHead _ _ hs

theorem joinQueue (c : Kept P) (h : Head) (o : Order) (hs : P s) : P (joinQueue h o s) :=
  c.grantPoint _ (c.enqueue _ _ hs)

theorem insertPark (c : Kept P) (h : Head) (hs : P s) : P (insertPark h s) := c.grantPoint _ (c.modHead _ _ hs)

theorem modOrder (c : Kept P) (h : Head) (t : Nat) (f : Order → Order) (hs : P s) : P (modOrder h t f s) :=
  c.modHead _ _ hs

theorem leaveQueue (c : Kept P) (h : Head) (t : Nat) (hs : P s) : P (leaveQueue h t s) := c.modHead _ _ hs

theorem dropPlan (c : Kept P) (p : Nat) (hs : P s) : P (dropPlan p s) :=
  c.opportunityBoth (c.same hs ⟨rfl, rfl, rfl, rfl, rfl, rfl, rfl⟩)

theorem endPlan (c : Kept P) (h : Head) (p : Option Nat) (hs : P s) : P (endPlan h p s) := by
  unfold Machine.endPlan
  split
  · exact hs
  · split
    · exact hs
    · exact c.dropPlan _ hs

theorem holeOf (c : Kept P) (o : Order) (hs : P s) : P (holeOf o s) := by
  unfold Machine.holeOf
  split
  · exact c.holePocket _ _ hs
  · exact hs

theorem cancelPoint (c : Kept P) (h : Head) (o : Order) (hs : P s) : P (cancelPoint h o s) := by
  unfold Machine.cancelPoint
  split
  · exact c.grantPoint _ hs
  · exact hs

theorem cancelPending (c : Kept P) (h : Head) (o : Order) (hs : P s) : P (cancelPending h o s) :=
  c.opportunity _ (c.endPlan _ _ (c.holeOf _ (c.leaveQueue _ _ (c.cancelPoint _ _ hs))))

theorem cancelWhere (c : Kept P) (h : Head) (test : Order → Bool) (hs : P s) : P (cancelWhere h test s) :=
  foldl_keeps (fun _ o hs => c.cancelPending h o hs) _ hs

theorem cancelPlacesInto (c : Kept P) (i : Fin 64) (hs : P s) : P (cancelPlacesInto i s) :=
  c.cancelWhere _ _ (c.cancelWhere _ _ hs)

theorem cancelCarrying (c : Kept P) (i : Fin 96) (p : Option Nat) (hs : P s) : P (cancelCarrying i p s) := by
  unfold Machine.cancelCarrying
  split
  · exact hs
  · exact c.cancelWhere _ _ (c.cancelWhere _ _ hs)

theorem carriedOpportunity (c : Kept P) (i : Fin 96) (hs : P s) : P (carriedOpportunity i s) := by
  unfold Machine.carriedOpportunity
  split
  · split
    · exact hs
    · exact c.opportunity _ hs
  · exact hs

theorem convert (c : Kept P) (i : Fin 96) (hs : P s) : P (convert i s) := by
  unfold Machine.convert
  split
  · split
    · refine c.carriedOpportunity _ (c.cancelCarrying _ _ ?_)
      split
      · exact c.raiseEvent _ _ (c.modPart _ _ hs)
      · exact c.modPart _ _ hs
    · exact hs
  · exact hs

theorem reexamine (c : Kept P) (hs : P s) : P (reexamine s) :=
  foldl_keeps
    (fun s i hs => by
      split
      · split
        · exact c.convert _ hs
        · exact hs
      · exact hs) _ hs

theorem convertAll (c : Kept P) (hs : P s) : P (convertAll s) := foldl_keeps (fun _ i hs => c.convert i hs) _ hs

/-! ## Sockets and groups -/

theorem beginTest (c : Kept P) (i : Fin 64) (hs : P s) : P (beginTest s i) :=
  c.start _ _ (c.modCounters _ (c.modSocket _ _ hs))

theorem startGroup (c : Kept P) (g : Fin 16) (hs : P s) : P (startGroup g s) := by
  have h1 (d k : Byte) (pl : List Byte) (l : List (Fin 64)) :
      P (cancelTimer (.fill g) (l.foldl Machine.beginTest (Machine.produce .downstream d k pl s))) :=
    c.cancel _ (foldl_keeps (fun _ i hs => c.beginTest i hs) _ (c.produce _ _ _ _ hs))
  exact c.same (h1 _ _ _ _) ⟨rfl, rfl, rfl, rfl, rfl, rfl, rfl⟩

theorem fillUpdate (c : Kept P) (g : Fin 16) (hs : P s) : P (fillUpdate g s) := by
  unfold Machine.fillUpdate
  split
  · split
    · exact c.start _ _ hs
    · exact hs
  · exact c.cancel _ hs

theorem groupUpdate (c : Kept P) (g : Fin 16) (hs : P s) : P (groupUpdate g s) := by
  unfold Machine.groupUpdate
  split
  · exact c.startGroup _ hs
  · exact c.fillUpdate _ hs

theorem updateGroupOf (c : Kept P) (i : Fin 64) (hs : P s) : P (updateGroupOf i s) := by
  unfold Machine.updateGroupOf
  split
  · exact c.groupUpdate _ hs
  · exact hs

theorem updateGroups (c : Kept P) (hs : P s) : P (updateGroups s) :=
  foldl_keeps (fun _ g hs => c.groupUpdate g hs) _ hs

theorem completeDisable (c : Kept P) (i : Fin 64) (hs : P s) : P (completeDisable i s) := c.complete _ _ _ hs

theorem afterOff (c : Kept P) (i : Fin 64) (hs : P s) : P (afterOff i s) :=
  c.updateGroupOf _ (c.reexamine (c.opportunityServing _ hs))

theorem goOff (c : Kept P) (i : Fin 64) (hs : P s) : P (goOff i s) := by
  unfold Machine.goOff
  dsimp only
  refine c.afterOff _ ?_
  split
  · exact c.raiseEvent _ _ (c.completeDisable _ (c.modSocket _ _ hs))
  · exact c.completeDisable _ (c.modSocket _ _ hs)

theorem enterEmpty (c : Kept P) (i : Fin 64) (hs : P s) : P (enterEmpty i s) := by
  have h := c.opportunityServing i (c.modSocket i (fun x => { x with state := .empty }) hs)
  unfold Machine.enterEmpty
  dsimp only
  split
  · exact c.goOff _ h
  · exact h

theorem enterTested (c : Kept P) (i : Fin 64) (hs : P s) : P (enterTested i s) :=
  c.opportunityServing _ (c.modSocket _ _ hs)

theorem setPendingDisable (c : Kept P) (i : Fin 64) (k : DisableCause) (hs : P s) : P (setPendingDisable i k s) := by
  have h := c.updateGroupOf i (c.reexamine (c.cancelPlacesInto i
    (c.modSocket i (fun x => { x with pendingDisable := some k }) hs)))
  unfold Machine.setPendingDisable
  dsimp only
  split
  · exact c.goOff _ h
  · exact h

theorem checkThreshold (c : Kept P) (i : Fin 64) (hs : P s) : P (checkThreshold i s) := by
  unfold Machine.checkThreshold
  dsimp only
  split
  · exact c.setPendingDisable _ _ hs
  · exact hs

theorem noteFault (c : Kept P) (i : Fin 64) (k : FaultKind) (hs : P s) : P (noteFault i k s) :=
  c.checkThreshold _ (c.modSocket _ _ hs)

theorem becomeReady (c : Kept P) (i : Fin 64) (hs : P s) : P (becomeReady i s) :=
  c.updateGroupOf _ (c.modSocket _ _ hs)

theorem clearPartFaults (c : Kept P) (i : Fin 64) (hs : P s) : P (clearPartFaults i s) := by
  unfold Machine.clearPartFaults
  split
  · exact c.modSocket _ _ hs
  · exact hs

theorem beginSoak (c : Kept P) (i : Fin 64) (hs : P s) : P (beginSoak i s) := by
  unfold Machine.beginSoak
  dsimp only
  split
  · exact c.becomeReady _ (c.clearPartFaults _ hs)
  · exact c.start _ _ (c.modSocket _ _ (c.clearPartFaults _ hs))

theorem setDisposition (c : Kept P) (i : Fin 64) (code : Byte) (hs : P s) : P (setDisposition i code s) := by
  unfold Machine.setDisposition
  split
  · exact hs
  · dsimp only
    split <;> split <;>
      first
      | exact c.raiseEvent _ _ (c.modCounters _ (c.modPart _ _ hs))
      | exact c.modCounters _ (c.modPart _ _ hs)
      | exact c.raiseEvent _ _ (c.modPart _ _ hs)
      | exact c.modPart _ _ hs

theorem recordAttempt (c : Kept P) (i : Fin 64) (code : Byte) (t : Nat) (hs : P s) : P (recordAttempt i code t s) := by
  unfold Machine.recordAttempt
  dsimp only
  split
  · exact c.modPart _ _ (c.modSocket _ _ hs)
  · exact c.modSocket _ _ hs

theorem finishTest (c : Kept P) (i : Fin 64) (hs : P s) : P (finishTest i s) :=
  c.updateGroupOf _ (c.enterTested _ hs)

theorem decideResult (c : Kept P) (i : Fin 64) (code : Byte) (t : Nat) (hs : P s) : P (decideResult i code t s) :=
  c.setDisposition _ _ (c.recordAttempt _ _ _ (c.cancel _ hs))

theorem takeResult (c : Kept P) (i : Fin 64) (code : Byte) (t : Nat) (hs : P s) : P (takeResult i code t s) := by
  have h := c.decideResult i code t hs
  unfold Machine.takeResult
  dsimp only
  refine c.finishTest _ ?_
  split
  · exact c.noteFault _ _ h
  · exact c.modSocket _ _ h

theorem takeTimeout (c : Kept P) (i : Fin 64) (hs : P s) : P (takeTimeout i s) := by
  have h (code : Byte) (t : Nat) := c.noteFault i .timeout (c.decideResult i code t hs)
  unfold Machine.takeTimeout
  dsimp only
  refine c.modCounters _ (c.raiseEvent _ _ (c.finishTest _ ?_))
  split
  · exact c.noteFault _ _ (h _ _)
  · exact h _ _

/-! ## Grants -/

theorem issueOrder (c : Kept P) (h : Head) (x : Order × Resolved) (hs : P s) : P (issueOrder h x s) :=
  c.produce _ _ _ _ (c.modOrder _ _ _ hs)

theorem grantSocket (c : Kept P) (o : Order) (hs : P s) : P (grantSocket o s) := by
  unfold Machine.grantSocket
  split
  · exact c.modSocket _ _ hs
  · exact c.modSocket _ _ hs
  · exact hs

theorem joinHoldings (c : Kept P) (h : Head) (claim : Span) (hs : P s) : P (joinHoldings h claim s) :=
  c.tellOther _ _ (c.modHead _ _ hs)

theorem grantClaim (c : Kept P) (h : Head) (claim : List (Order × Resolved)) (hs : P s) :
    P (grantClaim h claim s) := by
  have h1 := foldl_keeps (fun _ x hs => c.issueOrder h x hs) claim hs
  have h2 := foldl_keeps (f := fun s (x : Order × Resolved) => Machine.grantSocket x.1 s)
    (fun _ x hs => c.grantSocket x.1 hs) claim h1
  unfold Machine.grantClaim
  dsimp only
  refine c.opportunity _ ?_
  split
  · split
    · exact c.start _ _ (c.joinHoldings _ _ h2)
    · exact c.joinHoldings _ _ h2
  · exact c.joinHoldings _ _ h2

theorem syncYield (c : Kept P) (h : Head) (hs : P s) : P (syncYield h s) := by
  unfold Machine.syncYield
  dsimp only
  split
  · exact c.modHead _ _ hs
  · exact c.modHead _ _ (c.cancel _ (c.modHead _ _ hs))

theorem markWaiting (c : Kept P) (h : Head) (hs : P s) : P (markWaiting h s) := by
  unfold Machine.markWaiting
  split
  · exact hs
  · split
    · exact c.start _ _ (c.modOrder _ _ _ hs)
    · exact hs

theorem considerFront (c : Kept P) (h : Head) : ∀ (k : Nat) {s}, P s → P (considerFront h k s)
  | 0, _, hs => hs
  | k + 1, s, hs => by
    unfold Machine.considerFront
    split
    · exact c.considerFront h k (c.syncYield _ (c.grantClaim _ _ hs))
    · exact c.markWaiting _ hs

theorem takeGrantPoint (c : Kept P) (h : Head) (hs : P s) : P (takeGrantPoint h s) :=
  c.considerFront _ _ (c.noPoints _ hs)

theorem makeYieldPark (c : Kept P) (h : Head) (hs : P s) : P (makeYieldPark h s) :=
  c.takeGrantPoint _ (c.raiseEvent _ _ (c.syncYield _ (c.insertPark _ (c.modHead _ _ hs))))

theorem takeYieldCheck (c : Kept P) (h : Head) (hs : P s) : P (takeYieldCheck h s) := by
  unfold Machine.takeYieldCheck
  dsimp only
  split
  · exact c.makeYieldPark _ (c.noPoints _ hs)
  · exact c.noPoints _ hs

theorem takeMove (c : Kept P) (m : Move) (hs : P s) : P (takeMove m s) := by
  unfold Machine.takeMove
  split
  · exact c.takeGrantPoint _ hs
  · exact c.takeYieldCheck _ hs

theorem settleLoop (c : Kept P) : ∀ (k : Nat) {s}, P s → P (settleLoop k s)
  | 0, _, hs => hs
  | k + 1, s, hs => by
    unfold Machine.settleLoop
    split
    · exact hs
    · exact c.settleLoop k (c.takeMove _ hs)
    · exact c.settleLoop k (c.takeMove _ (c.same hs ⟨rfl, rfl, rfl, rfl, rfl, rfl, rfl⟩))

theorem settle (c : Kept P) (hs : P s) : P (settle s) :=
  c.noPoints _ (c.settleLoop _ (c.syncYield _ (c.syncYield _ hs)))

theorem checkDrain (c : Kept P) (hs : P s) : P (checkDrain s) := by
  unfold Machine.checkDrain
  split
  · exact c.complete _ _ _ hs
  · exact hs

theorem endEvent (c : Kept P) (hs : P s) : P (endEvent s) := c.checkDrain (c.settle hs)

theorem yieldFalls (c : Kept P) (h : Head) (hs : P s) : P (yieldFalls h s) := c.yieldCheck _ (c.modHead _ _ hs)

theorem yieldAtOnce (c : Kept P) (h : Head) (hs : P s) : P (yieldAtOnce h s) :=
  c.endEvent (c.yieldFalls _ (c.cancel _ hs))

theorem atOnceLoop (c : Kept P) : ∀ (k : Nat) {s}, P s → P (atOnceLoop k s)
  | 0, _, hs => hs
  | k + 1, s, hs => by
    unfold Machine.atOnceLoop
    split
    · exact hs
    · exact c.atOnceLoop k (c.yieldAtOnce _ hs)
    · exact c.atOnceLoop k (c.yieldAtOnce _ (c.same hs ⟨rfl, rfl, rfl, rfl, rfl, rfl, rfl⟩))

theorem takeAtOnce (c : Kept P) (hs : P s) : P (takeAtOnce s) := c.atOnceLoop _ hs

theorem finish (c : Kept P) (hs : P s) : P (finish s) := c.takeAtOnce (c.endEvent hs)

/-! ## Heads -/

theorem retime (c : Kept P) (h : Head) (hs : P s) : P (retime h s) := by
  unfold Machine.retime
  split
  · exact c.start _ _ hs
  · exact c.cancel _ hs

theorem clearSlot (c : Kept P) (i : Fin 8) (t : Nat) (hs : P s) : P (clearSlot i t s) :=
  c.produce _ _ _ _ (c.opportunityBoth (c.modInput _ _ hs))

theorem socketPicked (c : Kept P) (h : Head) (o : Order) (i : Fin 64) (hs : P s) : P (socketPicked h o i s) := by
  unfold Machine.socketPicked
  split
  · exact c.modSocket _ _ hs
  · exact c.enterEmpty _ hs

theorem doneEffect (c : Kept P) (h : Head) (o : Order) (hs : P s) : P (doneEffect h o s) := by
  unfold Machine.doneEffect
  split
  · exact c.socketPicked _ _ _ (c.moveRecord _ _ hs)
  · exact c.clearSlot _ _ (c.moveRecord _ _ hs)
  · exact c.opportunityBoth (c.moveRecord _ _ hs)
  · split
    · exact c.beginSoak _ (c.moveRecord _ _ hs)
    · exact c.enterEmpty _ (c.clearPartFaults _ hs)
  · exact c.opportunityBoth (c.moveRecord _ _ hs)
  · split
    · exact c.releaseAt _ (c.placePocket _ _ hs)
    · exact c.uncountRemoved (c.placePocket _ _ hs)
  · exact hs

theorem resolveDone (c : Kept P) (h : Head) (o : Order) (hs : P s) : P (resolveDone h o s) :=
  c.grantPoint _ (c.opportunity _ (c.endPlan _ _ (c.retime _ (c.recomputeHoldings _ (c.modHead _ _
    (c.doneEffect _ _ (c.modHead _ _ (c.leaveQueue _ _ hs))))))))

theorem notDoneEffect (c : Kept P) (o : Order) (hs : P s) : P (notDoneEffect o s) := by
  unfold Machine.notDoneEffect
  split
  · split
    · exact c.enterTested _ hs
    · exact hs
  · split
    · exact c.enterEmpty _ hs
    · exact hs
  · exact c.holeOf _ hs

theorem resolveNotDone (c : Kept P) (h : Head) (o : Order) (hs : P s) : P (resolveNotDone h o s) :=
  c.grantPoint _ (c.opportunity _ (c.endPlan _ _ (c.recomputeHoldings _ (c.notDoneEffect _ (c.leaveQueue _ _ hs)))))

theorem revertSocket (c : Kept P) (o : Order) (hs : P s) : P (revertSocket o s) := by
  unfold Machine.revertSocket
  split
  · split
    · exact c.enterTested _ hs
    · exact hs
  · rename_i i _ _
    dsimp only
    have h1 : P (if s.sockets[i].state = .filling then
        Machine.opportunityServing i (s.modSocket i fun x => { x with state := .empty }) else s) := by
      split
      · exact c.opportunityServing _ (c.modSocket _ _ hs)
      · exact hs
    revert h1
    generalize (if s.sockets[i].state = .filling then
        Machine.opportunityServing i (s.modSocket i fun x => { x with state := .empty }) else s) = t
    intro h1
    split
    · split
      · exact c.goOff _ (c.cancelPlacesInto _ h1)
      · exact c.cancelPlacesInto _ h1
    · exact h1
  · exact hs

theorem returnForRetry (c : Kept P) (h : Head) (f : Option Nat) (hs : P s) : P (returnForRetry h f s) :=
  c.grantPoint _ (c.opportunity _ (c.recomputeHoldings _ (c.cancel _
    (foldl_keeps (fun _ o hs => c.revertSocket o hs) _ (c.modHead _ _ hs)))))

theorem lostFrom (c : Kept P) (o : Order) (hs : P s) : P (lostFrom o s) := by
  unfold Machine.lostFrom
  split
  · exact c.afterOff _ (c.completeDisable _ (c.raiseEvent _ _ (c.noteFault _ _
      (c.modSocket _ _ (c.countRemoved (c.releaseAt _ hs))))))
  · exact c.clearSlot _ _ (c.countRemoved (c.releaseAt _ hs))
  · exact c.opportunityBoth (c.countRemoved (c.releaseAt _ hs))
  · exact hs

theorem failPlanMates (c : Kept P) (h : Head) (o : Order) (hs : P s) : P (failPlanMates h o s) :=
  foldl_keeps (fun _ q hs => c.resolveNotDone h q hs) _ hs

theorem finalMiss (c : Kept P) (h : Head) (o : Order) (hs : P s) : P (finalMiss h o s) :=
  c.grantPoint _ (c.opportunity _ (c.raiseEvent _ _ (c.endPlan _ _ (c.lostFrom _
    (c.failPlanMates _ _ (c.leaveQueue _ _ hs))))))

theorem stuckAt (c : Kept P) (o : Order) (hs : P s) : P (stuckAt o s) := by
  unfold Machine.stuckAt
  split
  · dsimp only
    refine c.noteFault _ _ ?_
    split
    · exact c.enterEmpty _ (c.modSocket _ _ hs)
    · exact c.modSocket _ _ hs
  · exact c.modRetest _ _ hs
  · exact c.holeOf _ hs

theorem raiseStuck (c : Kept P) (tag : Option Nat) (hs : P s) : P (raiseStuck tag s) := by
  unfold Machine.raiseStuck
  split
  · exact c.raiseEvent _ _ hs
  · exact c.raiseEvent _ _ (c.draw _ hs)

theorem finalStuck (c : Kept P) (h : Head) (o : Order) (hs : P s) : P (finalStuck h o s) :=
  c.grantPoint _ (c.opportunity _ (c.raiseStuck _ (c.endPlan _ _ (c.stuckAt _ (c.leaveQueue _ _ hs)))))

theorem stopQueue (c : Kept P) (h : Head) (hs : P s) : P (stopQueue h s) :=
  c.cancelWhere _ _ (c.cancel _ (c.yieldCheck _ (c.modHead _ _ hs)))

theorem makeUnknown (c : Kept P) (h : Head) (hs : P s) : P (makeUnknown h s) := c.modHead _ _ hs

theorem failGranted (c : Kept P) (h : Head) (hs : P s) : P (failGranted h s) :=
  foldl_keeps (fun _ o hs => c.resolveNotDone h o hs) _ hs

theorem stopTimeout (c : Kept P) (h : Head) (hs : P s) : P (stopTimeout h s) :=
  c.raiseEvent _ _ (c.raiseEvent _ _ (c.makeUnknown _ (c.stopQueue _ hs)))

theorem resolveByPresence (c : Kept P) (h : Head) (pr : Byte) :
    ∀ (l : List Order) (b : Bool) {s}, P s → P (resolveByPresence h pr l b s)
  | [], _, _, hs => hs
  | o :: l, b, s, hs => by
    unfold Machine.resolveByPresence
    split
    · split
      · exact c.resolveByPresence h pr l _ (c.resolveDone _ _ hs)
      · exact c.resolveByPresence h pr l _ (c.resolveNotDone _ _ hs)
    · split
      · exact c.resolveByPresence h pr l _ (c.resolveDone _ _ hs)
      · exact c.resolveByPresence h pr l _ (c.resolveNotDone _ _ hs)
    · exact c.resolveByPresence h pr l _ (c.resolveNotDone _ _ hs)

theorem removeFromNozzle (c : Kept P) (h : Head) (n : Fin 4) (hs : P s) : P (removeFromNozzle h n s) := by
  unfold Machine.removeFromNozzle
  split
  · exact c.countRemoved (c.releaseAt _ hs)
  · exact hs

theorem clearNozzle (c : Kept P) (h : Head) (n : Fin 4) (hs : P s) : P (clearNozzle h n s) :=
  c.modNozzle _ _ _ (c.removeFromNozzle _ _ hs)

theorem compareNozzle (c : Kept P) (h : Head) (pr : Byte) (n : Fin 4) (hs : P s) : P (compareNozzle h pr s n) := by
  unfold Machine.compareNozzle
  split
  · split
    · exact c.modNozzle _ _ _ hs
    · exact hs
  · exact c.clearNozzle _ _ hs

theorem reconcile (c : Kept P) (h : Head) (pr : Byte) (hs : P s) : P (reconcile h pr s) := by
  have h1 := c.resolveByPresence h pr ((s.head h).queue.filter fun o => o.state == .unknown) false hs
  have h2 := foldl_keeps (fun _ n hs => c.compareNozzle h pr n hs) (List.finRange 4) h1
  show P (compareNozzles h pr _)
  unfold compareNozzles
  dsimp only
  split
  · exact c.raiseEvent _ _ h2
  · exact h2

theorem standAt (c : Kept P) (h : Head) (p : Pos) (hs : P s) : P (standAt h p s) := by
  unfold Machine.standAt
  dsimp only
  split
  · exact c.tellOther _ _ (c.modHead _ _ hs)
  · exact c.raiseEvent _ _ (c.tellOther _ _ (c.modHead _ _ hs))

theorem recoverReady (c : Kept P) (h : Head) (pr : Byte) (p : Pos) (hs : P s) : P (recoverReady h pr p s) := by
  have h1 := c.standAt h p (c.modHead h (fun x => { x with state := .ready })
    (c.modHead h (fun x => { x with known := some p }) (c.reconcile h pr (c.cancel (.recover h) hs))))
  unfold Machine.recoverReady
  dsimp only
  refine c.grantPoint _ (c.opportunity _ ?_)
  split
  · exact c.complete _ _ _ (c.modHead _ _ h1)
  · exact h1

theorem restartReady (c : Kept P) (h : Head) (pr : Byte) (p : Pos) (hs : P s) : P (restartReady h pr p s) :=
  c.grantPoint _ (c.opportunity _ (c.standAt _ _ (c.modHead _ _ (c.reconcile _ _ (c.makeUnknown _ (c.cancel _
    (c.raiseEvent _ _ hs)))))))

theorem orderStatus (c : Kept P) (h : Head) (x : HeadOutcome) (t : Nat) (hs : P s) : P (orderStatus h x t s) := by
  unfold Machine.orderStatus
  split
  · split
    · split
      · unfold takeOutcome
        split
        · exact c.resolveDone _ _ hs
        · split
          · exact c.returnForRetry _ _ hs
          · exact c.returnForRetry _ _ (c.finalMiss _ _ hs)
        · split
          · exact c.returnForRetry _ _ hs
          · exact c.raiseEvent _ _ (c.failGranted _ (c.stopQueue _ (c.finalStuck _ _ hs)))
        · exact hs
      · unfold takeLate
        split
        · exact c.resolveDone _ _ hs
        · refine c.failGranted _ ?_
          split
          · exact c.resolveNotDone _ _ hs
          · exact c.finalMiss _ _ hs
        · refine c.failGranted _ ?_
          split
          · exact c.resolveNotDone _ _ hs
          · exact c.finalStuck _ _ hs
        · exact hs
    · exact c.raiseEvent _ _ hs
  · exact c.raiseEvent _ _ hs

theorem takeHeadStatus (c : Kept P) (h : Head) (pl : List Byte) (hs : P s) : P (takeHeadStatus h pl s) := by
  unfold Machine.takeHeadStatus
  dsimp only
  split
  · split
    · exact c.raiseEvent _ _ hs
    · split
      · exact c.restartReady _ _ _ hs
      · exact c.recoverReady _ _ _ hs
    · split
      · exact c.raiseEvent _ _ (c.modHead _ _ (c.makeUnknown _ (c.stopQueue _ hs)))
      · exact c.modHead _ _ hs
    · exact c.orderStatus _ _ _ hs
  · exact c.raiseEvent _ _ hs

/-! ## Expiries -/

theorem partialStart (c : Kept P) (g : Fin 16) (hs : P s) : P (partialStart g s) :=
  c.raiseEvent _ _ (c.modCounters _ (c.startGroup _ hs))


theorem recoverTimeout (c : Kept P) (h : Head) (hs : P s) : P (recoverTimeout h s) :=
  c.complete _ _ _ (c.widenHoldings _ (c.modHead _ _ hs))

theorem ownerActs (c : Kept P) (id : TimerId) (hs : P s) : P (ownerActs id s) := by
  cases id
  · exact c.becomeReady _ hs
  · exact c.takeTimeout _ hs
  · exact c.partialStart _ hs
  · exact c.stopTimeout _ hs
  · exact c.yieldFalls _ hs
  · exact c.recoverTimeout _ hs

theorem takeExpiry (c : Kept P) (id : TimerId) (hs : P s) : P (takeExpiry id s) := by
  unfold Machine.takeExpiry
  split
  · exact c.finish (c.ownerActs _ (c.cancel _ hs))
  · exact hs

theorem takeDueLoop (c : Kept P) : ∀ (k : Nat) {s}, P s → P (takeDueLoop k s)
  | 0, _, hs => hs
  | k + 1, s, hs => by
    unfold Machine.takeDueLoop
    split
    · exact hs
    · exact c.takeDueLoop k (c.takeExpiry _ hs)
    · exact c.takeDueLoop k (c.takeExpiry _ (c.draw _ hs))

theorem takeDue (c : Kept P) (hs : P s) : P (takeDue s) := by
  unfold Machine.takeDue
  split
  · exact hs
  · exact c.takeDueLoop _ hs

theorem countCycle (c : Kept P) (hs : P s) : P (countCycle s) := by
  unfold Machine.countCycle
  split
  · exact c.same hs ⟨rfl, rfl, rfl, rfl, rfl, rfl, rfl⟩
  · split
    · exact c.same hs ⟨rfl, rfl, rfl, rfl, rfl, rfl, rfl⟩
    · exact c.ticked hs

theorem refclkCycle (c : Kept P) (hs : P s) : P (refclkCycle s) := by
  unfold Machine.refclkCycle
  split
  · exact hs
  · exact c.countCycle (c.takeDue hs)

/-! ## Custody -/

theorem register (c : Kept P) (i : Fin 8) (t : Nat) (hs : P s) : P (register i t s) := by
  unfold Machine.register
  split
  · exact hs
  · exact c.opportunityBoth (c.modCounters _ (c.modInput _ _ (c.setPart _ _ hs)))

theorem takeIn (c : Kept P) (i : Fin 8) (t : Nat) (hs : P s) : P (takeIn i t s) := by
  unfold Machine.takeIn
  split
  · exact c.raiseEvent _ _ hs
  · exact c.register _ _ hs

theorem emptySlot (c : Kept P) (i : Fin 8) (hs : P s) : P (emptySlot i s) := c.opportunityBoth (c.modInput _ _ hs)

theorem takeShuttleReport (c : Kept P) (pl : List Byte) (hs : P s) : P (takeShuttleReport pl s) := by
  unfold Machine.takeShuttleReport
  dsimp only
  split
  · exact c.raiseEvent _ _ hs
  · split
    · unfold reportHeld
      split
      · split
        · exact hs
        · exact c.raiseEvent _ _ hs
      · split
        · exact hs
        · exact c.raiseEvent _ _ hs
    · unfold reportVacant
      split
      · split
        · exact hs
        · exact c.takeIn _ _ hs
      · split
        · exact c.emptySlot _ hs
        · split
          · exact hs
          · exact c.takeIn _ _ (c.emptySlot _ hs)

/-! ## The planner -/

theorem openPlan (c : Kept P) (h : Head) (k : PlanKind) (hs : P s) : P (openPlan h k s) :=
  c.same hs ⟨rfl, rfl, rfl, rfl, rfl, rfl, rfl⟩

theorem reservePart (c : Kept P) (p : Nat) (k : Option (Fin 96)) (hs : P s) : P (reservePart p k s) := by
  unfold Machine.reservePart
  split
  · exact c.modPart _ _ hs
  · exact hs

theorem orderPick (c : Kept P) (h : Head) (p : Nat) (l : Location) (k : Option (Fin 96)) (n : Fin 4) (hs : P s) :
    P (orderPick h p l k n s) := c.joinQueue _ _ (c.modNozzle _ _ _ (c.reservePart _ _ hs))

theorem orderPlace (c : Kept P) (h : Head) (p : Nat) (l : Location) (k : Fin 96) (n : Fin 4) (hs : P s) :
    P (orderPlace h p l k n s) := c.joinQueue _ _ (c.modNozzle _ _ _ (c.reservePart _ _ hs))

theorem tryUnload (c : Kept P) (h : Head) (hs : P s) : ∀ t, tryUnload h s = some t → P t := by
  intro t ht
  unfold Machine.tryUnload at ht
  split at ht
  · cases ht
  · split at ht
    · cases ht
    · have h1 (k : PlanKind) (i : Fin 64) (pos p : Nat) :=
        c.modSocket i (fun x => { x with plan := some p }) (c.modHead h (fun x =>
          { x with pointer := (pos + 1) % (Machine.openPlan h k s).serviceList.length }) (c.openPlan h k hs))
      dsimp only at ht
      split at ht
      · cases ht
        exact c.orderPick _ _ _ _ _ (h1 _ _ _ _)
      · cases ht
        exact c.orderPlace _ _ _ _ _ (c.orderPick _ _ _ _ _ (h1 _ _ _ _))

theorem tryLoad (c : Kept P) (h : Head) (hs : P s) : ∀ t, tryLoad h s = some t → P t := by
  intro t ht
  unfold Machine.tryLoad at ht
  split at ht
  · cases ht
  · split at ht
    · cases ht
    · split at ht
      · cases ht
      · cases ht
        exact c.orderPlace _ _ _ _ _ (c.modSocket _ _ (c.modHead _ _ (c.openPlan _ _ hs)))

theorem checkStarved (c : Kept P) (h : Head) (hs : P s) : P (checkStarved h s) := by
  unfold Machine.checkStarved
  split
  · exact hs
  · split
    · exact hs
    · split
      · exact hs
      · exact c.raiseEvent _ _ hs

theorem stowPlan (c : Kept P) (h : Head) (l : Location) (k : Fin 96) (n : Fin 4) (hs : P s) :
    P (stowPlan h l k n s) := by
  unfold Machine.stowPlan
  dsimp only
  refine c.orderPlace _ _ _ _ _ ?_
  split
  · exact c.modRetest _ _ (c.openPlan _ _ hs)
  · exact c.openPlan _ _ hs

theorem stowFirst (c : Kept P) (h : Head) :
    ∀ (l : List (Fin 4 × Fin 96 × PartRecord)) {s}, P s → P (stowFirst h l s).1
  | [], _, hs => hs
  | x :: l, s, hs => by
    unfold Machine.stowFirst
    split
    · exact c.stowFirst h l hs
    · rename_i b _
      have h1 := c.askPocket b hs
      split <;> rename_i heq <;> rw [heq] at h1
      · exact c.stowPlan _ _ _ _ h1
      · exact c.stowFirst h l h1

theorem stowRetest (c : Kept P) (h : Head) (hs : P s) : P (stowRetest h s).1 := by
  unfold Machine.stowRetest
  split
  · split
    · exact hs
    · split
      · dsimp only
        exact c.stowPlan _ _ _ _ hs
      · dsimp only
        have h1 (k : Fin 96) (t : Nat) : P (overflow k t s) := c.raiseEvent _ _ (c.convert _ hs)
        split
        · exact c.stowFirst h _ (h1 _ _)
        · exact h1 _ _
  · exact hs

theorem tryStow (c : Kept P) (h : Head) (hs : P s) : P (tryStow h s).1 := by
  have h1 := c.stowFirst h (carried s h) hs
  unfold Machine.tryStow
  split <;> rename_i heq <;> rw [heq] at h1
  · exact h1
  · exact c.stowRetest h h1

theorem tryFetch (c : Kept P) (h : Head) (hs : P s) : ∀ t, tryFetch h s = some t → P t := by
  intro t ht
  unfold Machine.tryFetch at ht
  split at ht
  · dsimp only at ht
    split at ht
    · cases ht
      exact c.orderPick _ _ _ _ _ (c.modRetest _ _ (c.openPlan _ _ hs))
    · split at ht
      · cases ht
      · split at ht
        · cases ht
          exact c.orderPick _ _ _ _ _ (c.modInput _ _ (c.openPlan _ _ hs))
        · cases ht
  · cases ht

theorem onePass (c : Kept P) (h : Head) (hs : P s) : P (onePass h s).1 := by
  unfold Machine.onePass
  split
  · exact c.tryUnload h hs _ ‹_›
  · split
    · exact c.tryLoad h hs _ ‹_›
    · have h1 := c.tryStow h (c.checkStarved h hs)
      split <;> rename_i heq <;> rw [heq] at h1
      · exact h1
      · split
        · exact c.tryFetch h h1 _ ‹_›
        · exact h1

theorem passes (c : Kept P) (h : Head) : ∀ (k : Nat) {s}, P s → P (passes h k s)
  | 0, _, hs => hs
  | k + 1, s, hs => by
    have h1 := c.onePass h hs
    unfold Machine.passes
    split
    · split <;> rename_i heq <;> rw [heq] at h1
      · exact c.passes h k h1
      · exact h1
    · exact hs

theorem planningPass (c : Kept P) (h : Head) (hs : P s) : P (planningPass h s) := by
  unfold Machine.planningPass
  split
  · exact hs
  · exact c.finish (c.passes _ _ (c.modHead _ _ hs))

end Kept

end Sys2Proof.Machine
end

