-- ==== Sys2Proof/Laws/Commands.lean ====
section
/-! SUPPORT. The induction of Laws/Closure.lean carried to the commands: `Closed.exec` and `Closed.step`. -/

namespace Sys2Proof.Machine

variable {P : State → Prop} {s : State}

namespace Kept

/-! ## Lot requests -/

theorem enterActive (c : Kept P) (l : LotState) (hs : P s) : P (enterActive l s) :=
  c.noPoints _ (c.opportunityBoth (c.updateGroups (c.lot _ hs)))

theorem lotStart (c : Kept P) (r : Request) (hs : P s) : P (lotStartRequest r s) := by
  refine c.takeRequest r _ _ (fun {s} hs => ?_) hs
  split
  · exact c.respondWith _ _ _ _ hs
  · exact c.finish (c.respondOk _ _ (c.enterActive _ (c.same hs ⟨rfl, rfl, rfl, rfl, rfl, rfl, rfl⟩)))

theorem lotPause (c : Kept P) (r : Request) (hs : P s) : P (lotPauseRequest r s) := by
  refine c.takeRequest r _ _ (fun {s} hs => ?_) hs
  split
  · exact c.respondOk _ _ hs
  · exact c.respondOk _ _ (c.lot _ (c.same hs ⟨rfl, rfl, rfl, rfl, rfl, rfl, rfl⟩))

theorem lotResume (c : Kept P) (r : Request) (hs : P s) : P (lotResumeRequest r s) :=
  c.takeRequest r _ _
    (fun hs => c.finish (c.respondOk _ _ (c.enterActive _ (c.same hs ⟨rfl, rfl, rfl, rfl, rfl, rfl, rfl⟩)))) hs

theorem returnSlot (c : Kept P) (i : Fin 8) (hs : P s) : P (returnSlot s i) := by
  unfold Machine.returnSlot
  refine c.modInput _ _ ?_
  split
  · exact c.modCounters _ (c.releaseAt _ hs)
  · exact hs

theorem removeFromNozzles (c : Kept P) (h : Head) (hs : P s) : P (removeFromNozzles h s) :=
  foldl_keeps (fun _ n hs => c.removeFromNozzle h n hs) _ hs

theorem emptyCustody (c : Kept P) (hs : P s) : P (emptyCustody s) :=
  c.removeFromNozzles _ (c.removeFromNozzles _ (foldl_keeps (fun _ i hs => c.returnSlot i hs) _ hs))

theorem parkHead (c : Kept P) (h : Head) (hs : P s) : P (parkHead h s) := by
  unfold Machine.parkHead
  split
  · exact c.modHead _ _ (c.leaveQueue _ _ (c.issueOrder _ _ (c.enqueue _ _ hs)))
  · exact hs

theorem holdPark (c : Kept P) (h : Head) (z : Nat) (hs : P s) : P (holdPark h z s) := by
  unfold Machine.holdPark
  split
  · exact c.modHead _ _ hs
  · exact hs

theorem lotEnd (c : Kept P) (r : Request) (hs : P s) : P (lotEndRequest r s) :=
  c.takeRequest r _ _
    (fun hs => c.respondOk _ _ (c.lot _ (c.holdPark _ _ (c.holdPark _ _ (c.parkHead _ (c.parkHead _
      (c.emptyCustody hs))))))) hs

theorem bypassEnter (c : Kept P) (r : Request) (hs : P s) : P (bypassEnterRequest r s) :=
  c.takeRequest r _ _ (fun hs => c.respondOk _ _ (c.lot _ hs)) hs

theorem bypassExit (c : Kept P) (r : Request) (hs : P s) : P (bypassExitRequest r s) :=
  c.takeRequest r _ _ (fun hs => c.respondOk _ _ (c.lot _ hs)) hs

/-! ## Tables, status and events -/

theorem dropUnfitted (c : Kept P) (i : Fin 64) (hs : P s) : P (dropUnfitted s i) := by
  unfold Machine.dropUnfitted
  split
  · exact c.afterOff _ (c.modSocket _ _ hs)
  · exact hs

theorem siteGeometry (c : Kept P) (v : Vector (Option (Option SiteGeometry)) 64) (hs : P s) :
    P { s with siteGeometry := v } := c.same hs ⟨rfl, rfl, rfl, rfl, rfl, rfl, rfl⟩

theorem writeTable (c : Kept P) (t : TableId) (n : Nat) (es : List (List Byte)) (hs : P s) :
    ∀ u, writeTable t n es s = .ok u → P u := by
  intro u hu
  unfold Machine.writeTable at hu
  split at hu
  · dsimp only at hu
    split at hu
    · cases hu
    · cases hu
      exact c.same hs ⟨rfl, rfl, rfl, rfl, rfl, rfl, rfl⟩
  · cases he : readEntries (fun _ => checkSite s) n es <;> rw [he] at hu <;>
      simp only [Except.map, Except.ok.injEq, reduceCtorEq] at hu
    subst hu
    refine foldl_keeps (fun _ i hs => c.dropUnfitted i hs) _ ?_
    exact c.siteGeometry _ hs
  · cases he : readEntries (checkDeck s) n es <;> rw [he] at hu <;> cases hu
    exact c.same hs ⟨rfl, rfl, rfl, rfl, rfl, rfl, rfl⟩
  · cases he : readEntries (checkNozzle s) n es <;> rw [he] at hu <;> cases hu
    exact c.same hs ⟨rfl, rfl, rfl, rfl, rfl, rfl, rfl⟩
  · cases he : readEntries (fun _ => readMotion) n es <;> rw [he] at hu <;> cases hu
    exact c.same hs ⟨rfl, rfl, rfl, rfl, rfl, rfl, rfl⟩
  · cases he : readEntries (fun _ => readLot) n es <;> rw [he] at hu <;> cases hu
    exact c.same hs ⟨rfl, rfl, rfl, rfl, rfl, rfl, rfl⟩
  · cases he : readEntries (fun _ => readBinEntry) n es <;> rw [he] at hu <;> cases hu
    exact c.same hs ⟨rfl, rfl, rfl, rfl, rfl, rfl, rfl⟩
  · cases he : readEntries readPolicy n es <;> rw [he] at hu <;> cases hu
    exact c.same hs ⟨rfl, rfl, rfl, rfl, rfl, rfl, rfl⟩
  · cases hu
    exact hs
  · cases he : readEntries (fun _ => readForward) n es <;> rw [he] at hu <;> cases hu
    exact c.same hs ⟨rfl, rfl, rfl, rfl, rfl, rfl, rfl⟩
  · cases he : readEntries (fun _ => readTimeBase) n es <;> rw [he] at hu <;> cases hu
    exact c.same hs ⟨rfl, rfl, rfl, rfl, rfl, rfl, rfl⟩

theorem setCursor (c : Kept P) (t : TableId) (n : Nat) (hs : P s) : P (setCursor t n s) :=
  c.same hs ⟨rfl, rfl, rfl, rfl, rfl, rfl, rfl⟩

theorem answerServiceList (c : Kept P) (r : Request) (hs : P s) : P (answerServiceList r s) :=
  c.respondOk _ _ (c.setCursor _ _ hs)

theorem zeroPointers (c : Kept P) (hs : P s) : P (zeroPointers s) := c.modHead _ _ (c.modHead _ _ hs)

theorem writeServiceList (c : Kept P) (r : Request) (m : Nat) (bs : List Byte) (hs : P s) :
    P (writeServiceList r m bs s) := by
  unfold Machine.writeServiceList
  split
  · exact c.answerServiceList _ hs
  · extract_lets fresh start
    split
    · exact c.respondRange _ _ hs
    · split
      · exact c.respondRange _ _ hs
      · refine c.opportunityBoth (c.answerServiceList _ ?_)
        split
        · exact c.zeroPointers (c.same hs ⟨rfl, rfl, rfl, rfl, rfl, rfl, rfl⟩)
        · exact c.same hs ⟨rfl, rfl, rfl, rfl, rfl, rfl, rfl⟩

theorem writeRequest (c : Kept P) (r : Request) (hs : P s) : P (writeRequest r s) := by
  unfold Machine.writeRequest
  extract_lets mode
  split
  · exact c.respond _ _ hs
  · split
    · exact c.respondRange _ _ hs
    · exact c.writeServiceList _ _ _ hs
  · split
    · exact c.respondRange _ _ hs
    · split
      · exact c.respond _ _ (c.raiseEvent _ _ hs)
      · extract_lets start entries
        split
        · exact c.respondRange _ _ hs
        · split
          · exact c.respondRange _ _ hs
          · rename_i he
            exact c.respondOk _ _ (c.setCursor _ _ (c.writeTable _ _ _ hs _ he))

theorem tableWrite (c : Kept P) (r : Request) (hs : P s) : P (tableWriteRequest r s) :=
  c.takeRequest r _ _ (c.writeRequest r) hs

theorem tableRead (c : Kept P) (r : Request) (hs : P s) : P (tableReadRequest r s) := by
  refine c.takeRequest r _ _ (fun {s} hs => ?_) hs
  unfold readRequest
  dsimp only
  split
  · exact c.respond _ _ hs
  · split
    · exact c.respondRange _ _ hs
    · split
      · exact c.respondRange _ _ hs
      · split
        · exact c.respondRange _ _ hs
        · exact c.respondOk _ _ hs

theorem cursorReset (c : Kept P) (r : Request) (hs : P s) : P (cursorResetRequest r s) := by
  refine c.takeRequest r _ _ (fun {s} hs => ?_) hs
  unfold cursorRequest
  split
  · exact c.respond _ _ hs
  · exact c.respondOk _ _ (c.setCursor _ _ hs)

theorem statusRead (c : Kept P) (r : Request) (hs : P s) : P (statusReadRequest r s) := by
  refine c.takeRequest r _ _ (fun {s} hs => ?_) hs
  unfold statusRequest
  dsimp only
  split
  · exact c.respondRange _ _ hs
  · split
    · exact c.respondOk _ _ hs
    · exact c.respondRange _ _ hs

theorem eventAck (c : Kept P) (r : Request) (hs : P s) : P (eventAckRequest r s) := by
  refine c.takeRequest r _ _ (fun {s} hs => ?_) hs
  unfold ackEvents
  split
  · exact c.respondRange _ _ hs
  · exact c.respondOk _ _ (c.forget _ hs)

theorem announce (c : Kept P) (k : EventKind) (hs : P s) : P (announce s k) := by
  unfold Machine.announce
  dsimp only
  split
  · exact c.raiseCongestion _ (c.produceNotice _ hs)
  · exact c.produceNotice _ hs

theorem eventMask (c : Kept P) (r : Request) (hs : P s) : P (eventMaskRequest r s) := by
  refine c.takeRequest r _ _ (fun {s} hs => ?_) hs
  unfold maskEvents
  split
  · exact c.respondRange _ _ hs
  · exact foldl_keeps (fun _ k hs => c.announce k hs) _
      (c.respondOk _ _ (c.same hs ⟨rfl, rfl, rfl, rfl, rfl, rfl, rfl⟩))

/-! ## Requests on the deck that take no ticket -/

theorem withSocket (c : Kept P) (r : Request) {act : Fin 64 → State → State} (ha : ∀ i {s}, P s → P (act i s))
    (hs : P s) : P (withSocket r act s) := by
  unfold Machine.withSocket
  split
  · exact c.respondRange _ _ hs
  · exact ha _ hs

theorem socketEnable (c : Kept P) (r : Request) (hs : P s) : P (socketEnableRequest r s) := by
  refine c.takeRequest r _ _ (c.withSocket r (fun i {s} hs => ?_)) hs
  unfold enableSocket
  split
  · split
    · exact c.respondOk _ _ (c.enterEmpty _ hs)
    · exact c.respond _ _ hs
  · split
    · exact c.respond _ _ hs
    · exact c.respondOk _ _ hs

theorem requestDisable (c : Kept P) (i : Fin 64) (hs : P s) : P (requestDisable i s) := by
  unfold Machine.requestDisable
  split
  · exact hs
  · exact c.setPendingDisable _ _ hs

theorem socketClear (c : Kept P) (r : Request) (hs : P s) : P (socketClearRequest r s) :=
  c.takeRequest r _ _ (c.withSocket r fun _ {_} hs => c.respondOk _ _ (c.modSocket _ _ hs)) hs

theorem withTray (c : Kept P) (r : Request) {act : Fin 16 → TrayId → State → State}
    (ha : ∀ b t {s}, P s → P (act b t s)) (hs : P s) : P (withTray r act s) := by
  unfold Machine.withTray
  split
  · exact ha _ _ hs
  · exact c.respondRange _ _ hs

theorem activateTray (c : Kept P) (b : Fin 16) (t : TrayId) (hs : P s) : P (activateTray b t s) := by
  unfold Machine.activateTray
  split
  · exact c.opportunityBoth (c.modBin _ _ (c.modTray _ _ _ hs))
  · exact hs

theorem trayReady (c : Kept P) (r : Request) (hs : P s) : P (trayReadyRequest r s) := by
  refine c.takeRequest r _ _ (c.withTray r (fun b t {s} hs => ?_)) hs
  unfold declareTray
  dsimp only
  split
  · split
    · exact c.respondRange _ _ hs
    · split
      · exact c.respondRange _ _ hs
      · exact c.respondOk _ _ (c.activateTray _ _ (c.modTray _ _ _ hs))
  · exact c.respond _ _ hs

theorem trayWithdraw (c : Kept P) (r : Request) (hs : P s) : P (trayWithdrawRequest r s) := by
  refine c.takeRequest r _ _ (c.withTray r (fun b t {s} hs => ?_)) hs
  unfold withdrawTray
  dsimp only
  split
  · exact c.respond _ _ hs
  · exact c.respondOk _ _ (c.modTray _ _ _ hs)
  · exact c.respondOk _ _ (c.modTray _ _ _ hs)
  · split
    · exact c.respondOk _ _ (c.moveActive _ _ (c.modTray _ _ _ hs))
    · exact c.respond _ _ hs
  · exact c.respond _ _ hs

theorem purgedPlace (c : Kept P) (p : Place) (hs : P s) : P (purgedPlace p s) := by
  unfold Machine.purgedPlace
  split
  · rename_i i
    have h1 : P (Machine.enterEmpty i (if s.sockets[i].state = .soaking then cancelTimer (.soak i) s else s)) := by
      refine c.enterEmpty _ ?_
      split
      · exact c.cancel _ hs
      · exact hs
    unfold purgedSocket
    dsimp only
    split
    · split
      · exact c.fillUpdate _ h1
      · exact h1
    · exact h1
  · exact hs
  · exact c.opportunityBoth hs
  · exact c.opportunityBoth hs

theorem partPurge (c : Kept P) (r : Request) (hs : P s) : P (partPurgeRequest r s) := by
  refine c.takeRequest r _ _ (fun {s} hs => ?_) hs
  unfold purgeSelected
  split
  · exact c.respondRange _ _ hs
  · split
    · exact c.respond _ _ hs
    · split
      · exact c.respond _ _ hs
      · unfold purgeRecord
        split
        · exact c.respond _ _ hs
        · split
          · exact c.respond _ _ hs
          · exact c.finish (c.respondOk _ _ (c.purgedPlace _ (c.countRemoved (c.releaseAt _ hs))))

theorem locate (c : Kept P) (r : Request) (hs : P s) : P (locateHandler r s) := by
  refine c.takeRequest r _ _ (fun {s} hs => ?_) hs
  unfold locateRequest
  split
  · exact c.respondRange _ _ hs
  · split
    · exact c.respond _ _ hs
    · split
      · exact c.respond _ _ hs
      · exact c.respondOk _ _ hs

/-! ## Arrivals -/

theorem failFrame (c : Kept P) (p : Port) (hs : P s) : P (failFrame p s) := c.raiseEvent _ _ hs

theorem forward (c : Kept P) (p : Port) (f : Frame) (hs : P s) : P (forward p f s) := by
  unfold Machine.forward
  split
  · exact c.raiseCongestion _ hs
  · exact c.through _ _ (Bool.eq_false_of_not_eq_true ‹_›) hs

theorem offer (c : Kept P) (p : Port) (f : Frame) (hs : P s) : P (offer p f s) := by
  unfold Machine.offer
  split
  · exact c.forward _ _ hs
  · exact hs

theorem deliver (c : Kept P) (o : Owner) (f : Frame) (hs : P s) : P (deliver o f s).1 := by
  cases o
  · show P (siteDelivery f s).1
    unfold siteDelivery
    split
    · exact c.raiseEvent _ _ hs
    · split
      · dsimp only
        exact c.takeResult _ _ _ hs
      · exact c.raiseEvent _ _ hs
  · exact c.takeHeadStatus _ _ hs
  · exact c.takeShuttleReport _ hs

theorem carry (c : Kept P) (p : Port) (f : Frame) (hs : P s) : P (carry p f s) := by
  unfold Machine.carry
  split
  · exact c.offer _ _ hs
  · split
    · exact c.offer _ _ (c.finish (c.deliver _ _ hs))
    · exact c.failFrame _ hs

end Kept

/-! ## A free place of the completion list stays free -/

theorem arbitrate_completions (p : Port) (s : State) : (arbitrate p s).completions = s.completions := by
  unfold arbitrate startSending
  dsimp only
  split
  · rfl
  · split <;> (try split) <;> (try split) <;> simp

/-- No change but a new ticket adds an entry to the completion list. -/
theorem kept_completions (n : Nat) : Kept fun s => s.completions.length ≤ n where
  same hs h := by rw [h.completions]; exact hs
  start _ _ _ hs := by simpa using hs
  cancel _ _ hs := by simpa using hs
  lot _ _ hs := hs
  note _ _ _ hs := hs
  forget _ _ hs := hs
  number p _ hs := by simpa [advanceSequence] using hs
  own p f s _ hs := by simpa [joinOwn, arbitrate_completions] using hs
  through p f s _ hs := by simpa [joinThrough, arbitrate_completions] using hs
  sent p s hs := by
    unfold endTransmission
    split
    · exact hs
    · simpa [arbitrate_completions] using hs
  done t s hs := le_trans (List.length_filter_le _ _) hs
  ticked hs := hs

theorem completionsFull_iff (s : State) : completionsFull s = false ↔ s.completions.length ≤ 3 := by
  rw [completionsFull, decide_eq_false_iff_not]
  unfold Config.completionCapacity
  omega

/-- A change that keeps every such property leaves a list that was not full not full. -/
theorem roomy {f : State → State} (hf : ∀ {P : State → Prop}, Kept P → ∀ {s}, P s → P (f s))
    (h : completionsFull s = false) : completionsFull (f s) = false :=
  (completionsFull_iff _).2 (hf (kept_completions 3) ((completionsFull_iff _).1 h))

namespace Closed

/-! ## Requests that may take a ticket, and RESET -/

theorem drainTicket (c : Closed P) (r : Request) (hf : completionsFull s = false) (hs : P s) : P (drainTicket r s) :=
  c.respondTicket _ _ (c.ticket _ _ hf hs)

theorem lotDrain (c : Closed P) (r : Request) (hs : P s) : P (lotDrainRequest r s) := by
  refine c.takeRequest r _ _ (fun {s} hs => ?_) hs
  split
  · unfold drainFromRun
    split
    · exact c.respondListFull _ hs
    · have hk {Q : State → Prop} (k : Kept Q) {s : State} (h : Q s) :
          Q (settle (enterActive .drain (convertAll s))) := k.settle (k.enterActive _ (k.convertAll h))
      have hf := roomy (f := fun s => settle (enterActive .drain (convertAll s))) hk
        (Bool.eq_false_of_not_eq_true ‹_›)
      dsimp only
      split
      · exact c.respondOk _ _ (hk c.toKept hs)
      · exact c.toKept.takeAtOnce (c.drainTicket _ hf (hk c.toKept hs))
  · unfold drainAgain
    split
    · exact c.respondTicket _ _ hs
    · split
      · exact c.respondOk _ _ hs
      · split
        · exact c.respondListFull _ hs
        · exact c.drainTicket _ (Bool.eq_false_of_not_eq_true ‹_›) hs

theorem reset (c : Closed P) (r : Request) (hs : P s) : P (resetRequest r s) := by
  refine c.takeRequest r _ _ (fun {s} hs => ?_) hs
  exact foldl_keeps (fun _ x hs => c.produceCompletion x _ hs) _ (c.respondOk _ _ (c.soft hs))

theorem socketDisable (c : Closed P) (r : Request) (hs : P s) : P (socketDisableRequest r s) := by
  refine c.takeRequest r _ _ (c.withSocket r (fun i {s} hs => ?_)) hs
  unfold disableSocket
  split
  · exact c.respondOk _ _ hs
  · split
    · exact c.finish (c.respondOk _ _ (c.setPendingDisable _ _ hs))
    · split
      · exact c.respondTicket _ _ hs
      · split
        · exact c.respondListFull _ hs
        · exact c.finish (c.respondTicket _ _ (c.requestDisable _
            (c.ticket _ _ (Bool.eq_false_of_not_eq_true ‹_›) hs)))

theorem headRecover (c : Closed P) (r : Request) (hs : P s) : P (headRecoverRequest r s) := by
  refine c.takeRequest r _ _ (fun {s} hs => ?_) hs
  unfold recoverChecked
  split
  · exact c.respondRange _ _ hs
  · split
    · exact c.respondRange _ _ hs
    · rename_i h _ _
      unfold recoverHead
      split
      · exact c.respond _ _ hs
      · exact c.respondTicket _ _ hs
      · split
        · exact c.respondListFull _ hs
        · refine c.finish (c.respondTicket _ _ ?_)
          unfold beginRecovery
          dsimp only
          have hk {Q : State → Prop} (k : Kept Q) {s : State} (x : Nat) (d : Byte) (pl : List Byte) (hs : Q s) :
              Q (startTimer (.recover h) Config.recoverTicks (widenHoldings h
                ((produce .downstream d kindHeadControl pl s).modHead h fun y =>
                  { y with state := .recovering, ticket := some x }))) :=
            k.start _ _ (k.widenHoldings _ (k.modHead _ _ (k.produce _ _ _ _ hs)))
          refine c.ticket _ _ ?_ (hk c.toKept _ _ _ hs)
          exact roomy (f := fun s => startTimer (.recover h) Config.recoverTicks (widenHoldings h
                ((produce .downstream _ kindHeadControl _ s).modHead h fun y =>
                  { y with state := .recovering, ticket := some _ }))) (fun {_} k {_} hs => hk k _ _ _ hs)
            (Bool.eq_false_of_not_eq_true ‹_›)

/-! ## Arrivals -/

theorem either {q : Prop} [Decidable q] {a b : State} (ha : P a) (hb : P b) : P (if q then a else b) := by
  split <;> assumption

theorem requestByCode (c : Closed P) (code : Byte) (r : Request) (hs : P s) : P (requestByCode code r s) := by
  unfold Machine.requestByCode
  refine either (c.lotStart r hs) ?_
  refine either (c.lotPause r hs) ?_
  refine either (c.lotResume r hs) ?_
  refine either (c.lotDrain r hs) ?_
  refine either (c.lotEnd r hs) ?_
  refine either (c.bypassEnter r hs) ?_
  refine either (c.bypassExit r hs) ?_
  refine either (c.reset r hs) ?_
  refine either (c.tableWrite r hs) ?_
  refine either (c.tableRead r hs) ?_
  refine either (c.cursorReset r hs) ?_
  refine either (c.statusRead r hs) ?_
  refine either (c.eventAck r hs) ?_
  refine either (c.eventMask r hs) ?_
  refine either (c.socketEnable r hs) ?_
  refine either (c.socketDisable r hs) ?_
  refine either (c.socketClear r hs) ?_
  refine either (c.trayReady r hs) ?_
  refine either (c.trayWithdraw r hs) ?_
  refine either (c.headRecover r hs) ?_
  refine either (c.partPurge r hs) ?_
  refine either (c.locate r hs) ?_
  exact c.respond _ _ hs

theorem classify (c : Closed P) (p : Port) (f : Frame) (hs : P s) : P (classify p f s) := by
  unfold Machine.classify
  split
  · unfold consume
    split
    · split
      · exact hs
      · split
        · exact c.requestByCode _ _ hs
        · exact c.failFrame _ hs
    · split
      · exact hs
      · split
        · exact c.finish (c.deliver _ _ hs)
        · exact c.failFrame _ hs
  · split
    · exact c.forward _ _ hs
    · exact c.carry _ _ hs

theorem arrive (c : Closed P) (p : Port) (bytes : List Byte) (hs : P s) : P (arrive p bytes s) := by
  unfold Machine.arrive
  split
  · exact hs
  · split
    · exact c.failFrame _ hs
    · split
      · exact c.classify _ _ hs
      · exact c.failFrame _ hs

/-! ## Every command and every step -/

/-- A closed property that holds before a command holds after it. -/
theorem exec (c : Closed P) (i : Instr) (hs : P s) : ∀ t, exec i s = .next t → P t := by
  intro t ht
  cases i <;> cases ht
  case powerOn straps => exact c.power _ _ _
  case resetNAssertion => exact c.silent hs
  case tick =>
    split
    · exact hs
    · exact c.ticked (c.takeDue hs)
  case planningPass h => exact c.planningPass _ (c.takeDue hs)
  case frameArrival => exact c.arrive _ _ (c.takeDue hs)
  case siteReport => exact c.arrive _ _ (c.takeDue hs)
  case headStatus => exact c.arrive _ _ (c.takeDue hs)
  case shuttleReport => exact c.arrive _ _ (c.takeDue hs)
  case transmissionEnd => exact c.sent _ (c.takeDue hs)
  case soakExpiry => exact c.takeExpiry _ hs
  case watchdogExpiry => exact c.takeExpiry _ hs
  case fillWaitExpiry => exact c.takeExpiry _ hs
  case orderTimerExpiry => exact c.takeExpiry _ hs
  case yieldTimerExpiry => exact c.takeExpiry _ hs
  case recoverTimerExpiry => exact c.takeExpiry _ hs
  case lotStart => exact c.requestArrives _ (c.lotStart _) (c.takeDue hs)
  case lotPause => exact c.requestArrives _ (c.lotPause _) (c.takeDue hs)
  case lotResume => exact c.requestArrives _ (c.lotResume _) (c.takeDue hs)
  case lotDrain => exact c.requestArrives _ (c.lotDrain _) (c.takeDue hs)
  case lotEnd => exact c.requestArrives _ (c.lotEnd _) (c.takeDue hs)
  case bypassEnter => exact c.requestArrives _ (c.bypassEnter _) (c.takeDue hs)
  case bypassExit => exact c.requestArrives _ (c.bypassExit _) (c.takeDue hs)
  case reset => exact c.requestArrives _ (c.reset _) (c.takeDue hs)
  case tableWrite => exact c.requestArrives _ (c.tableWrite _) (c.takeDue hs)
  case tableRead => exact c.requestArrives _ (c.tableRead _) (c.takeDue hs)
  case cursorReset => exact c.requestArrives _ (c.cursorReset _) (c.takeDue hs)
  case statusRead => exact c.requestArrives _ (c.statusRead _) (c.takeDue hs)
  case eventAck => exact c.requestArrives _ (c.eventAck _) (c.takeDue hs)
  case eventMask => exact c.requestArrives _ (c.eventMask _) (c.takeDue hs)
  case socketEnable => exact c.requestArrives _ (c.socketEnable _) (c.takeDue hs)
  case socketDisable => exact c.requestArrives _ (c.socketDisable _) (c.takeDue hs)
  case socketClear => exact c.requestArrives _ (c.socketClear _) (c.takeDue hs)
  case trayReady => exact c.requestArrives _ (c.trayReady _) (c.takeDue hs)
  case trayWithdraw => exact c.requestArrives _ (c.trayWithdraw _) (c.takeDue hs)
  case headRecover => exact c.requestArrives _ (c.headRecover _) (c.takeDue hs)
  case partPurge => exact c.requestArrives _ (c.partPurge _) (c.takeDue hs)
  case locate => exact c.requestArrives _ (c.locate _) (c.takeDue hs)

/-- A closed property that holds before a step holds after it. -/
theorem step (c : Closed P) (hs : P s) : ∀ t, step s = .next t → P t := by
  intro t ht
  unfold Machine.step at ht
  split at ht
  · cases ht
    exact c.refclkCycle hs
  · rename_i cmd rest _
    have h1 : P { s with pending := rest } := c.same hs ⟨rfl, rfl, rfl, rfl, rfl, rfl, rfl⟩
    exact c.exec cmd h1 t ht

end Closed

end Sys2Proof.Machine
end

