-- ==== Sys2Proof/Laws/Link.lean ====
section
/-! SUPPORT. What producing a frame, raising an event, and finishing a command leave as it was: `offLink` and
`offGrant`. -/

namespace Sys2Proof.Machine

variable {s t : State}

/-! ## Fields that `offLink` and `offGrant` hold -/

theorem offLink_resetLow (h : t.offLink = s.offLink) : t.resetLow = s.resetLow :=
  have e := congrArg State.resetLow h
  e

theorem offLink_ownAddress (h : t.offLink = s.offLink) : t.ownAddress = s.ownAddress :=
  have e := congrArg State.ownAddress h
  e

theorem offLink_node (h : t.offLink = s.offLink) : t.node = s.node :=
  have e := congrArg State.node h
  e

theorem offLink_forwarding (h : t.offLink = s.offLink) : t.forwarding = s.forwarding :=
  have e := congrArg State.forwarding h
  e

theorem offLink_parts (h : t.offLink = s.offLink) : t.parts = s.parts :=
  have e := congrArg State.parts h
  e

theorem offLink_inputs (h : t.offLink = s.offLink) : t.inputs = s.inputs :=
  have e := congrArg State.inputs h
  e

theorem offLink_retests (h : t.offLink = s.offLink) : t.retests = s.retests :=
  have e := congrArg State.retests h
  e

theorem offLink_siteGeometry (h : t.offLink = s.offLink) : t.siteGeometry = s.siteGeometry :=
  have e := congrArg State.siteGeometry h
  e

theorem offLink_deck (h : t.offLink = s.offLink) : t.deck = s.deck :=
  have e := congrArg State.deck h
  e

theorem offLink_nozzleTable (h : t.offLink = s.offLink) : t.nozzleTable = s.nozzleTable :=
  have e := congrArg State.nozzleTable h
  e

theorem offLink_motion (h : t.offLink = s.offLink) : t.motion = s.motion :=
  have e := congrArg State.motion h
  e

theorem offLink_sockets (h : t.offLink = s.offLink) : t.sockets = s.sockets :=
  have e := congrArg State.sockets h
  e

theorem offLink_groups (h : t.offLink = s.offLink) : t.groups = s.groups :=
  have e := congrArg State.groups h
  e

theorem offLink_binMap (h : t.offLink = s.offLink) : t.binMap = s.binMap :=
  have e := congrArg State.binMap h
  e

theorem offLink_binPolicy (h : t.offLink = s.offLink) : t.binPolicy = s.binPolicy :=
  have e := congrArg State.binPolicy h
  e

theorem offLink_bins (h : t.offLink = s.offLink) : t.bins = s.bins :=
  have e := congrArg State.bins h
  e

theorem offLink_heads (h : t.offLink = s.offLink) : t.heads = s.heads :=
  have e := congrArg State.heads h
  e

theorem offLink_plans (h : t.offLink = s.offLink) : t.plans = s.plans :=
  have e := congrArg State.plans h
  e

theorem offLink_planCount (h : t.offLink = s.offLink) : t.planCount = s.planCount :=
  have e := congrArg State.planCount h
  e

theorem offLink_points (h : t.offLink = s.offLink) : t.points = s.points :=
  have e := congrArg State.points h
  e

theorem offLink_timers (h : t.offLink = s.offLink) : t.timers = s.timers :=
  have e := congrArg State.timers h
  e

theorem offLink_lotClock (h : t.offLink = s.offLink) : t.lotClock = s.lotClock :=
  have e := congrArg State.lotClock h
  e

theorem offLink_timebase (h : t.offLink = s.offLink) : t.timebase = s.timebase :=
  have e := congrArg State.timebase h
  e

theorem offLink_tickFactors (h : t.offLink = s.offLink) : t.tickFactors = s.tickFactors :=
  have e := congrArg State.tickFactors h
  e

theorem offLink_prescaleCount (h : t.offLink = s.offLink) : t.prescaleCount = s.prescaleCount :=
  have e := congrArg State.prescaleCount h
  e

theorem offLink_divideCount (h : t.offLink = s.offLink) : t.divideCount = s.divideCount :=
  have e := congrArg State.divideCount h
  e

theorem offLink_lotState (h : t.offLink = s.offLink) : t.lotState = s.lotState :=
  have e := congrArg State.lotState h
  e

theorem offLink_remembered (h : t.offLink = s.offLink) : t.remembered = s.remembered :=
  have e := congrArg State.remembered h
  e

theorem offLink_completions (h : t.offLink = s.offLink) : t.completions = s.completions :=
  have e := congrArg State.completions h
  e

theorem offLink_ticketCounter (h : t.offLink = s.offLink) : t.ticketCounter = s.ticketCounter :=
  have e := congrArg State.ticketCounter h
  e

theorem offLink_slotWanted (h : t.offLink = s.offLink) : t.slotWanted = s.slotWanted :=
  have e := congrArg State.slotWanted h
  e

theorem offLink_cursors (h : t.offLink = s.offLink) : t.cursors = s.cursors :=
  have e := congrArg State.cursors h
  e

theorem offLink_lotTable (h : t.offLink = s.offLink) : t.lotTable = s.lotTable :=
  have e := congrArg State.lotTable h
  e

theorem offLink_serviceList (h : t.offLink = s.offLink) : t.serviceList = s.serviceList :=
  have e := congrArg State.serviceList h
  e

theorem offLink_eventMask (h : t.offLink = s.offLink) : t.eventMask = s.eventMask :=
  have e := congrArg State.eventMask h
  e

theorem offLink_counters (h : t.offLink = s.offLink) : t.counters = s.counters :=
  have e := congrArg State.counters h
  e

theorem offLink_pending (h : t.offLink = s.offLink) : t.pending = s.pending :=
  have e := congrArg State.pending h
  e

theorem offGrant_resetLow (h : t.offGrant = s.offGrant) : t.resetLow = s.resetLow :=
  have e := congrArg State.resetLow h
  e

theorem offGrant_ownAddress (h : t.offGrant = s.offGrant) : t.ownAddress = s.ownAddress :=
  have e := congrArg State.ownAddress h
  e

theorem offGrant_node (h : t.offGrant = s.offGrant) : t.node = s.node :=
  have e := congrArg State.node h
  e

theorem offGrant_forwarding (h : t.offGrant = s.offGrant) : t.forwarding = s.forwarding :=
  have e := congrArg State.forwarding h
  e

theorem offGrant_parts (h : t.offGrant = s.offGrant) : t.parts = s.parts :=
  have e := congrArg State.parts h
  e

theorem offGrant_inputs (h : t.offGrant = s.offGrant) : t.inputs = s.inputs :=
  have e := congrArg State.inputs h
  e

theorem offGrant_retests (h : t.offGrant = s.offGrant) : t.retests = s.retests :=
  have e := congrArg State.retests h
  e

theorem offGrant_siteGeometry (h : t.offGrant = s.offGrant) : t.siteGeometry = s.siteGeometry :=
  have e := congrArg State.siteGeometry h
  e

theorem offGrant_deck (h : t.offGrant = s.offGrant) : t.deck = s.deck :=
  have e := congrArg State.deck h
  e

theorem offGrant_nozzleTable (h : t.offGrant = s.offGrant) : t.nozzleTable = s.nozzleTable :=
  have e := congrArg State.nozzleTable h
  e

theorem offGrant_motion (h : t.offGrant = s.offGrant) : t.motion = s.motion :=
  have e := congrArg State.motion h
  e

theorem offGrant_groups (h : t.offGrant = s.offGrant) : t.groups = s.groups :=
  have e := congrArg State.groups h
  e

theorem offGrant_binMap (h : t.offGrant = s.offGrant) : t.binMap = s.binMap :=
  have e := congrArg State.binMap h
  e

theorem offGrant_binPolicy (h : t.offGrant = s.offGrant) : t.binPolicy = s.binPolicy :=
  have e := congrArg State.binPolicy h
  e

theorem offGrant_bins (h : t.offGrant = s.offGrant) : t.bins = s.bins :=
  have e := congrArg State.bins h
  e

theorem offGrant_plans (h : t.offGrant = s.offGrant) : t.plans = s.plans :=
  have e := congrArg State.plans h
  e

theorem offGrant_planCount (h : t.offGrant = s.offGrant) : t.planCount = s.planCount :=
  have e := congrArg State.planCount h
  e

theorem offGrant_lotClock (h : t.offGrant = s.offGrant) : t.lotClock = s.lotClock :=
  have e := congrArg State.lotClock h
  e

theorem offGrant_timebase (h : t.offGrant = s.offGrant) : t.timebase = s.timebase :=
  have e := congrArg State.timebase h
  e

theorem offGrant_tickFactors (h : t.offGrant = s.offGrant) : t.tickFactors = s.tickFactors :=
  have e := congrArg State.tickFactors h
  e

theorem offGrant_prescaleCount (h : t.offGrant = s.offGrant) : t.prescaleCount = s.prescaleCount :=
  have e := congrArg State.prescaleCount h
  e

theorem offGrant_divideCount (h : t.offGrant = s.offGrant) : t.divideCount = s.divideCount :=
  have e := congrArg State.divideCount h
  e

theorem offGrant_lotState (h : t.offGrant = s.offGrant) : t.lotState = s.lotState :=
  have e := congrArg State.lotState h
  e

theorem offGrant_remembered (h : t.offGrant = s.offGrant) : t.remembered = s.remembered :=
  have e := congrArg State.remembered h
  e

theorem offGrant_ticketCounter (h : t.offGrant = s.offGrant) : t.ticketCounter = s.ticketCounter :=
  have e := congrArg State.ticketCounter h
  e

theorem offGrant_cursors (h : t.offGrant = s.offGrant) : t.cursors = s.cursors :=
  have e := congrArg State.cursors h
  e

theorem offGrant_lotTable (h : t.offGrant = s.offGrant) : t.lotTable = s.lotTable :=
  have e := congrArg State.lotTable h
  e

theorem offGrant_serviceList (h : t.offGrant = s.offGrant) : t.serviceList = s.serviceList :=
  have e := congrArg State.serviceList h
  e

theorem offGrant_eventMask (h : t.offGrant = s.offGrant) : t.eventMask = s.eventMask :=
  have e := congrArg State.eventMask h
  e

theorem offGrant_counters (h : t.offGrant = s.offGrant) : t.counters = s.counters :=
  have e := congrArg State.counters h
  e

theorem offGrant_pending (h : t.offGrant = s.offGrant) : t.pending = s.pending :=
  have e := congrArg State.pending h
  e

/-- What leaves everything but the link as it was leaves everything but the grants as it was. -/
theorem offGrant_of_offLink (h : t.offLink = s.offLink) : t.offGrant = s.offGrant := by
  unfold State.offGrant
  rw [h]

/-! ## The link -/

@[simp] theorem offLink_setPort (s : State) (p : Port) (x : PortState) : (s.setPort p x).offLink = s.offLink := by
  cases p <;> rfl

@[simp] theorem offLink_noteEvent (k : EventKind) (d : Nat) (s : State) : (noteEvent k d s).offLink = s.offLink := rfl

@[simp] theorem offLink_advanceSequence (p : Port) (s : State) : (advanceSequence p s).offLink = s.offLink :=
  offLink_setPort _ _ _

theorem offLink_draws (s : State) (n : Nat) : ({ s with draws := n } : State).offLink = s.offLink := rfl

@[simp] theorem offLink_startSending (p : Port) (q : QueueKind) (s : State) :
    (startSending p q s).offLink = s.offLink := by
  unfold startSending
  dsimp only
  split <;> split <;> simp [offLink_draws]

@[simp] theorem offLink_arbitrate (p : Port) (s : State) : (arbitrate p s).offLink = s.offLink := by
  unfold arbitrate
  dsimp only
  split
  · rfl
  · split <;> simp

@[simp] theorem offLink_joinOwn (p : Port) (f : Frame) (s : State) : (joinOwn p f s).offLink = s.offLink := by
  simp [joinOwn]

@[simp] theorem offLink_joinThrough (p : Port) (f : Frame) (s : State) : (joinThrough p f s).offLink = s.offLink := by
  simp [joinThrough]

@[simp] theorem offLink_joinOwnOrDrop (p : Port) (f : Frame) (s : State) :
    (joinOwnOrDrop p f s).offLink = s.offLink := by
  unfold joinOwnOrDrop
  split <;> simp

@[simp] theorem offLink_produceNotice (k : EventKind) (s : State) : (produceNotice k s).offLink = s.offLink := by
  simp [produceNotice]

/-- Raising LINK_CONGESTION changes only the link. -/
@[simp] theorem offLink_raiseCongestion (d : Nat) (s : State) : (raiseCongestion d s).offLink = s.offLink := by
  unfold raiseCongestion
  dsimp only
  split
  · split <;> simp
  · simp

/-- Raising an event changes only the link. -/
@[simp] theorem offLink_raiseEvent (k : EventKind) (d : Nat) (s : State) : (raiseEvent k d s).offLink = s.offLink := by
  unfold raiseEvent
  dsimp only
  split
  · split <;> simp
  · simp

/-- Queueing an own frame changes only the link. -/
@[simp] theorem offLink_queueOwn (p : Port) (f : Frame) (s : State) : (queueOwn p f s).offLink = s.offLink := by
  unfold queueOwn
  split <;> simp

/-- Producing an own frame changes only the link. -/
@[simp] theorem offLink_produce (p : Port) (d k : Byte) (pl : List Byte) (s : State) :
    (produce p d k pl s).offLink = s.offLink := by simp [produce]

/-- Answering a request changes only the link. -/
@[simp] theorem offLink_respondWith (r : Request) (c : ResultCode) (n : Nat) (fs : List Byte) (s : State) :
    (respondWith r c n fs s).offLink = s.offLink := offLink_queueOwn _ _ _

@[simp] theorem offLink_respond (r : Request) (c : ResultCode) (s : State) : (respond r c s).offLink = s.offLink :=
  offLink_respondWith _ _ _ _ _

@[simp] theorem offLink_respondOk (r : Request) (fs : List Byte) (s : State) : (respondOk r fs s).offLink = s.offLink :=
  offLink_respondWith _ _ _ _ _

@[simp] theorem offLink_respondRange (r : Request) (i : Nat) (s : State) : (respondRange r i s).offLink = s.offLink :=
  offLink_respondWith _ _ _ _ _

@[simp] theorem offLink_respondTicket (r : Request) (n : Nat) (s : State) : (respondTicket r n s).offLink = s.offLink :=
  offLink_respondWith _ _ _ _ _

@[simp] theorem offLink_produceCompletion (c : Completion) (f : FinalCode) (s : State) :
    (produceCompletion c f s).offLink = s.offLink := offLink_produce _ _ _ _ _

/-- Forwarding a frame changes only the link. -/
@[simp] theorem offLink_forward (p : Port) (f : Frame) (s : State) : (forward p f s).offLink = s.offLink := by
  unfold forward
  split <;> simp

/-- Offering a frame for forwarding changes only the link. -/
@[simp] theorem offLink_offer (p : Port) (f : Frame) (s : State) : (offer p f s).offLink = s.offLink := by
  unfold offer
  split <;> simp

@[simp] theorem offLink_failFrame (p : Port) (s : State) : (failFrame p s).offLink = s.offLink := offLink_raiseEvent _ _ _

/-! ## Granting and finishing -/

@[simp] theorem offGrant_modHead (h : Head) (f : HeadRecord → HeadRecord) (s : State) :
    (s.modHead h f).offGrant = s.offGrant := rfl

@[simp] theorem offGrant_modSocket (i : Fin 64) (f : Socket → Socket) (s : State) :
    (s.modSocket i f).offGrant = s.offGrant := rfl

@[simp] theorem offGrant_grantPoint (h : Head) (s : State) : (grantPoint h s).offGrant = s.offGrant := rfl

@[simp] theorem offGrant_tellOther (h : Head) (old : Span) (s : State) : (tellOther h old s).offGrant = s.offGrant := by
  unfold tellOther
  dsimp only
  split <;> rfl

@[simp] theorem offGrant_joinHoldings (h : Head) (claim : Span) (s : State) :
    (joinHoldings h claim s).offGrant = s.offGrant := offGrant_tellOther _ _ _

@[simp] theorem offGrant_startTimer (id : TimerId) (n : Nat) (s : State) : (startTimer id n s).offGrant = s.offGrant := by
  cases id <;> rfl

@[simp] theorem offGrant_cancelTimer (id : TimerId) (s : State) : (cancelTimer id s).offGrant = s.offGrant := by
  cases id <;> rfl

@[simp] theorem offGrant_opportunity (h : Head) (s : State) : (opportunity h s).offGrant = s.offGrant := by
  unfold opportunity
  split <;> rfl

@[simp] theorem offGrant_raiseEvent (k : EventKind) (d : Nat) (s : State) : (raiseEvent k d s).offGrant = s.offGrant :=
  offGrant_of_offLink (offLink_raiseEvent _ _ _)

@[simp] theorem offGrant_produce (p : Port) (d k : Byte) (pl : List Byte) (s : State) :
    (produce p d k pl s).offGrant = s.offGrant := offGrant_of_offLink (offLink_produce _ _ _ _ _)

theorem foldl_offGrant {α : Type} {f : State → α → State} (hf : ∀ s a, (f s a).offGrant = s.offGrant) :
    ∀ (l : List α) (s : State), (l.foldl f s).offGrant = s.offGrant
  | [], _ => rfl
  | a :: l, s => (foldl_offGrant hf l (f s a)).trans (hf s a)

@[simp] theorem offGrant_issueOrder (h : Head) (c : Order × Resolved) (s : State) :
    (issueOrder h c s).offGrant = s.offGrant := by
  unfold issueOrder
  dsimp only
  rw [offGrant_produce]
  rfl

@[simp] theorem offGrant_grantSocket (o : Order) (s : State) : (grantSocket o s).offGrant = s.offGrant := by
  unfold grantSocket
  split <;> rfl

@[simp] theorem offGrant_grantClaim (h : Head) (claim : List (Order × Resolved)) (s : State) :
    (grantClaim h claim s).offGrant = s.offGrant := by
  have h1 := foldl_offGrant (fun s (c : Order × Resolved) => offGrant_issueOrder h c s) claim s
  have h2 := foldl_offGrant (f := fun s (c : Order × Resolved) => grantSocket c.1 s)
    (fun s c => offGrant_grantSocket c.1 s) claim (claim.foldl (fun s c => issueOrder h c s) s)
  have h3 := (offGrant_joinHoldings h (claimSpan claim) _).trans (h2.trans h1)
  unfold grantClaim
  dsimp only
  rw [offGrant_opportunity]
  split
  · split
    · exact (offGrant_startTimer _ _ _).trans h3
    · exact h3
  · exact h3

@[simp] theorem offGrant_syncYield (h : Head) (s : State) : (syncYield h s).offGrant = s.offGrant := by
  unfold syncYield
  dsimp only
  split <;> simp

@[simp] theorem offGrant_markWaiting (h : Head) (s : State) : (markWaiting h s).offGrant = s.offGrant := by
  unfold markWaiting
  split
  · rfl
  · split <;> simp [modOrder]

@[simp] theorem offGrant_considerFront (h : Head) (k : Nat) (s : State) :
    (considerFront h k s).offGrant = s.offGrant := by
  induction k generalizing s with
  | zero => rfl
  | succ k ih =>
    unfold considerFront
    split
    · rw [ih, offGrant_syncYield, offGrant_grantClaim]
    · exact offGrant_markWaiting _ _

theorem offGrant_points (s : State) (x : Points) : ({ s with points := x } : State).offGrant = s.offGrant := rfl

@[simp] theorem offGrant_takeGrantPoint (h : Head) (s : State) : (takeGrantPoint h s).offGrant = s.offGrant := by
  simp [takeGrantPoint, offGrant_points]

@[simp] theorem offGrant_makeYieldPark (h : Head) (s : State) : (makeYieldPark h s).offGrant = s.offGrant := by
  simp [makeYieldPark, insertPark]

@[simp] theorem offGrant_takeYieldCheck (h : Head) (s : State) : (takeYieldCheck h s).offGrant = s.offGrant := by
  unfold takeYieldCheck
  dsimp only
  split <;> simp [offGrant_points]

@[simp] theorem offGrant_takeMove (m : Move) (s : State) : (takeMove m s).offGrant = s.offGrant := by
  unfold takeMove
  split <;> simp

@[simp] theorem offGrant_settleLoop (k : Nat) (s : State) : (settleLoop k s).offGrant = s.offGrant := by
  induction k generalizing s with
  | zero => rfl
  | succ k ih =>
    unfold settleLoop
    split
    · rfl
    · rw [ih, offGrant_takeMove]
    · rw [ih, offGrant_takeMove]
      rfl

/-- Taking the grant points changes only the link, heads, sockets, timers, the completion list and what is open. -/
@[simp] theorem offGrant_settle (s : State) : (settle s).offGrant = s.offGrant := by
  simp [settle, offGrant_points]

@[simp] theorem offGrant_slotFreed (t : Nat) (s : State) : (slotFreed t s).offGrant = s.offGrant := by
  unfold slotFreed
  split
  · rw [offGrant_raiseEvent]
    rfl
  · rfl

@[simp] theorem offGrant_complete (code : Byte) (x : Subject) (f : FinalCode) (s : State) :
    (complete code x f s).offGrant = s.offGrant := by
  unfold complete
  split
  · rfl
  · rw [offGrant_slotFreed, offGrant_of_offLink (offLink_produceCompletion _ _ _)]
    rfl

@[simp] theorem offGrant_endEvent (s : State) : (endEvent s).offGrant = s.offGrant := by
  unfold endEvent checkDrain
  split <;> simp

@[simp] theorem offGrant_yieldFalls (h : Head) (s : State) : (yieldFalls h s).offGrant = s.offGrant :=
  offGrant_modHead h (fun x => { x with yieldDue := true }) s

@[simp] theorem offGrant_yieldAtOnce (h : Head) (s : State) : (yieldAtOnce h s).offGrant = s.offGrant := by
  rw [yieldAtOnce, offGrant_endEvent, offGrant_yieldFalls, offGrant_cancelTimer]

@[simp] theorem offGrant_atOnceLoop (k : Nat) (s : State) : (atOnceLoop k s).offGrant = s.offGrant := by
  induction k generalizing s with
  | zero => rfl
  | succ k ih =>
    unfold atOnceLoop
    split
    · rfl
    · rw [ih, offGrant_yieldAtOnce]
    · rw [ih, offGrant_yieldAtOnce]
      rfl

/-- The expiries at a start with 0 change only the link, heads, sockets, timers and the completion list. -/
@[simp] theorem offGrant_takeAtOnce (s : State) : (takeAtOnce s).offGrant = s.offGrant := offGrant_atOnceLoop _ _

/-- The end of a command changes only the link, heads, sockets, timers and the completion list. -/
@[simp] theorem offGrant_finish (s : State) : (finish s).offGrant = s.offGrant := by simp [finish]

end Sys2Proof.Machine
end

