-- ==== Sys2Proof/Laws/Custody.lean ====
section
/-! SUPPORT. Where the devices are. Of all operations only moving, releasing, registering and clearing a record change which
place holds which record, the tags, places and attempts of the records, and the counters of R32; every other operation keeps
this custody view, one lemma for each. -/

namespace Sys2Proof.Machine

/-- The custody view: the record at each place, the tag, place and attempts of each record, and the counters of the devices
that have come and gone (R21, R32). -/
structure Custody where
  recordAt : Place → Option (Fin 96)
  part : Fin 96 → Option (Nat × Place × List (Fin 64 × Byte))
  registered : Nat
  binned : Vector Nat 16
  returned : Nat
  removed : Nat

/-- What custody keeps of a part record. -/
def PartRecord.seat (r : PartRecord) : Nat × Place × List (Fin 64 × Byte) := (r.tag, r.place, r.attempts)

/-- The custody view of a state. -/
def State.custody (s : State) : Custody where
  recordAt := s.recordAt
  part k := s.parts[k].map PartRecord.seat
  registered := s.counters.registered
  binned := s.counters.binned
  returned := s.counters.returned
  removed := s.counters.removed

variable {s t : State}

theorem custody_ext (p : ∀ x, t.recordAt x = s.recordAt x)
    (r : ∀ k : Fin 96, t.parts[k].map PartRecord.seat = s.parts[k].map PartRecord.seat) (c : t.counters = s.counters) :
    t.custody = s.custody := by
  unfold State.custody
  rw [c, funext p]
  congr 1
  exact funext r

theorem custody_recordAt (h : t.custody = s.custody) (p : Place) : t.recordAt p = s.recordAt p :=
  congrFun (congrArg Custody.recordAt h) p

theorem custody_part (h : t.custody = s.custody) (k : Fin 96) :
    t.parts[k].map PartRecord.seat = s.parts[k].map PartRecord.seat := congrFun (congrArg Custody.part h) k

theorem custody_registered (h : t.custody = s.custody) : t.counters.registered = s.counters.registered :=
  congrArg Custody.registered h

theorem custody_binned (h : t.custody = s.custody) : t.counters.binned = s.counters.binned := congrArg Custody.binned h

theorem custody_returned (h : t.custody = s.custody) : t.counters.returned = s.counters.returned :=
  congrArg Custody.returned h

theorem custody_removed (h : t.custody = s.custody) : t.counters.removed = s.counters.removed :=
  congrArg Custody.removed h

/-- A record in use stays in use, with its tag, place and attempts. -/
theorem custody_record (h : t.custody = s.custody) {k : Fin 96} {r : PartRecord} (hr : s.parts[k] = some r) :
    ∃ y, t.parts[k] = some y ∧ y.tag = r.tag ∧ y.place = r.place ∧ y.attempts = r.attempts := by
  have e := custody_part h k
  rw [hr] at e
  cases y : t.parts[k] with
  | none => simp [y] at e
  | some x => exact ⟨x, rfl, by simp_all [PartRecord.seat]⟩

/-- A free record stays free. -/
theorem custody_free (h : t.custody = s.custody) {k : Fin 96} (hr : s.parts[k] = none) : t.parts[k] = none := by
  have e := custody_part h k
  rw [hr] at e
  simpa using e

/-- What leaves everything but the link as it was keeps the custody view. -/
theorem custody_of_offLink (h : t.offLink = s.offLink) : t.custody = s.custody := by
  refine custody_ext (fun x => ?_) (fun k => by rw [offLink_parts h]) (offLink_counters h)
  cases x <;>
    simp only [State.recordAt, State.head, offLink_sockets h, offLink_heads h, offLink_inputs h, offLink_retests h]

/-! ## Records of the state -/

theorem custody_modHead (h : Head) (f : HeadRecord → HeadRecord)
    (hf : ∀ n : Fin 4, ((f (s.head h)).nozzles[n]).record = ((s.head h).nozzles[n]).record) :
    (s.modHead h f).custody = s.custody := by
  refine custody_ext (fun x => ?_) (fun _ => rfl) rfl
  cases x with
  | nozzle k n =>
    simp only [State.recordAt, State.modHead, State.setHead, State.head, PerHead.get_set]
    split
    · next e => subst e; exact hf n
    · rfl
  | _ => rfl

/-- A change of a head that leaves its nozzles. -/
theorem custody_modHead_rest (h : Head) (f : HeadRecord → HeadRecord) (hf : ∀ x, (f x).nozzles = x.nozzles) (s : State) :
    (s.modHead h f).custody = s.custody := custody_modHead h f fun n => by rw [hf]

theorem custody_modNozzle (h : Head) (n : Fin 4) (f : Nozzle → Nozzle) (hf : ∀ x, (f x).record = x.record) (s : State) :
    (s.modNozzle h n f).custody = s.custody := by
  refine custody_modHead h _ fun m => ?_
  simp only [Fin.getElem_fin, Vector.getElem_set]
  split
  · next e => simp [hf, e]
  · rfl

theorem custody_modSocket (i : Fin 64) (f : Socket → Socket) (hf : ∀ x, (f x).record = x.record) (s : State) :
    (s.modSocket i f).custody = s.custody := by
  refine custody_ext (fun x => ?_) (fun _ => rfl) rfl
  cases x with
  | socket j =>
    simp only [State.recordAt, State.socket_modSocket]
    split
    · next e => subst e; exact hf _
    · rfl
  | _ => rfl

theorem custody_modInput (i : Fin 8) (f : InputSlot → InputSlot) (hf : ∀ x, (f x).record = x.record) (s : State) :
    (s.modInput i f).custody = s.custody := by
  refine custody_ext (fun x => ?_) (fun _ => rfl) rfl
  cases x with
  | input j =>
    simp only [State.recordAt, State.input_modInput]
    split
    · next e => subst e; exact hf _
    · rfl
  | _ => rfl

theorem custody_modRetest (i : Fin 8) (f : RetestSlot → RetestSlot) (hf : ∀ x, (f x).record = x.record) (s : State) :
    (s.modRetest i f).custody = s.custody := by
  refine custody_ext (fun x => ?_) (fun _ => rfl) rfl
  cases x with
  | retest j =>
    simp only [State.recordAt, State.retest_modRetest]
    split
    · next e => subst e; exact hf _
    · rfl
  | _ => rfl

theorem custody_modPart (i : Fin 96) (f : PartRecord → PartRecord) (hf : ∀ r, (f r).seat = r.seat) (s : State) :
    (s.modPart i f).custody = s.custody := by
  refine custody_ext (fun x => by cases x <;> rfl) (fun k => ?_) rfl
  rw [State.part_modPart]
  split
  · next e =>
    subst e
    cases s.parts[i] <;> simp [hf]
  · rfl

@[simp] theorem custody_modBin (i : Fin 16) (f : Bin → Bin) (s : State) : (s.modBin i f).custody = s.custody :=
  custody_ext (fun x => by cases x <;> rfl) (fun _ => rfl) rfl

@[simp] theorem custody_modTray (i : Fin 16) (y : TrayId) (f : TrayRecord → TrayRecord) (s : State) :
    (s.modTray i y f).custody = s.custody := custody_modBin _ _ _

@[simp] theorem custody_setTimer (id : TimerId) (x : Timer) (s : State) : (s.setTimer id x).custody = s.custody := by
  refine custody_ext (fun p => ?_) (fun _ => ?_) ?_
  · cases id <;> cases p <;> rfl
  · cases id <;> rfl
  · cases id <;> rfl

@[simp] theorem custody_startTimer (id : TimerId) (n : Nat) (s : State) : (startTimer id n s).custody = s.custody :=
  custody_setTimer _ _ _

@[simp] theorem custody_cancelTimer (id : TimerId) (s : State) : (cancelTimer id s).custody = s.custody :=
  custody_setTimer _ _ _

@[simp] theorem custody_changeLot (l : LotState) (s : State) : (changeLot l s).custody = s.custody :=
  custody_ext (fun x => by cases x <;> rfl) (fun _ => rfl) rfl

@[simp] theorem custody_grantPoint (h : Head) (s : State) : (grantPoint h s).custody = s.custody :=
  custody_ext (fun x => by cases x <;> rfl) (fun _ => rfl) rfl

@[simp] theorem custody_yieldCheck (h : Head) (s : State) : (yieldCheck h s).custody = s.custody :=
  custody_ext (fun x => by cases x <;> rfl) (fun _ => rfl) rfl

theorem custody_points (x : Points) (s : State) : ({ s with points := x } : State).custody = s.custody :=
  custody_ext (fun x => by cases x <;> rfl) (fun _ => rfl) rfl

theorem custody_draws (n : Nat) (s : State) : ({ s with draws := n } : State).custody = s.custody :=
  custody_ext (fun x => by cases x <;> rfl) (fun _ => rfl) rfl

theorem custody_foldl {α : Type} {f : State → α → State} (hf : ∀ s a, (f s a).custody = s.custody) :
    ∀ (l : List α) (s : State), (l.foldl f s).custody = s.custody
  | [], _ => rfl
  | a :: l, s => (custody_foldl hf l (f s a)).trans (hf s a)

/-! ## The link, events and responses -/

@[simp] theorem custody_raiseEvent (k : EventKind) (d : Nat) (s : State) : (raiseEvent k d s).custody = s.custody :=
  custody_of_offLink (offLink_raiseEvent _ _ _)

@[simp] theorem custody_produce (p : Port) (d k : Byte) (pl : List Byte) (s : State) :
    (produce p d k pl s).custody = s.custody := custody_of_offLink (offLink_produce _ _ _ _ _)

@[simp] theorem custody_respondWith (r : Request) (c : ResultCode) (n : Nat) (fs : List Byte) (s : State) :
    (respondWith r c n fs s).custody = s.custody := custody_of_offLink (offLink_respondWith _ _ _ _ _)

@[simp] theorem custody_respond (r : Request) (c : ResultCode) (s : State) : (respond r c s).custody = s.custody :=
  custody_of_offLink (offLink_respond _ _ _)

@[simp] theorem custody_respondOk (r : Request) (fs : List Byte) (s : State) : (respondOk r fs s).custody = s.custody :=
  custody_of_offLink (offLink_respondOk _ _ _)

@[simp] theorem custody_respondRange (r : Request) (i : Nat) (s : State) : (respondRange r i s).custody = s.custody :=
  custody_of_offLink (offLink_respondRange _ _ _)

@[simp] theorem custody_respondTicket (r : Request) (n : Nat) (s : State) :
    (respondTicket r n s).custody = s.custody := custody_of_offLink (offLink_respondTicket _ _ _)

@[simp] theorem custody_offer (p : Port) (f : Frame) (s : State) : (offer p f s).custody = s.custody :=
  custody_of_offLink (offLink_offer _ _ _)

theorem custody_completions (c : List Completion) (w : Bool) (s : State) :
    ({ s with completions := c, slotWanted := w } : State).custody = s.custody :=
  custody_ext (fun x => by cases x <;> rfl) (fun _ => rfl) rfl

@[simp] theorem custody_slotFreed (n : Nat) (s : State) : (slotFreed n s).custody = s.custody := by
  unfold slotFreed
  split
  · rw [custody_raiseEvent]
    exact custody_completions s.completions false s
  · rfl

@[simp] theorem custody_complete (code : Byte) (x : Subject) (f : FinalCode) (s : State) :
    (complete code x f s).custody = s.custody := by
  unfold complete
  split
  · rfl
  · rw [custody_slotFreed, custody_of_offLink (offLink_produceCompletion _ _ _)]
    exact custody_completions _ s.slotWanted s

/-! ## Opportunities, queues and plans -/

@[simp] theorem custody_opportunity (h : Head) (s : State) : (opportunity h s).custody = s.custody := by
  unfold opportunity
  split
  · exact custody_modHead_rest _ _ (fun _ => by rfl) _
  · rfl

@[simp] theorem custody_opportunityBoth (s : State) : (opportunityBoth s).custody = s.custody := by
  simp [opportunityBoth]

@[simp] theorem custody_opportunityServing (i : Fin 64) (s : State) : (opportunityServing i s).custody = s.custody := by
  unfold opportunityServing
  dsimp only
  split <;> split <;> simp

@[simp] theorem custody_enqueue (h : Head) (o : Order) (s : State) : (enqueue h o s).custody = s.custody :=
  custody_modHead_rest _ _ (fun _ => by rfl) _

@[simp] theorem custody_joinQueue (h : Head) (o : Order) (s : State) : (joinQueue h o s).custody = s.custody := by
  simp [joinQueue]

@[simp] theorem custody_insertPark (h : Head) (s : State) : (insertPark h s).custody = s.custody := by
  unfold insertPark
  rw [custody_grantPoint]
  exact custody_modHead_rest _ _ (fun _ => by rfl) _

@[simp] theorem custody_modOrder (h : Head) (tag : Nat) (f : Order → Order) (s : State) :
    (modOrder h tag f s).custody = s.custody := custody_modHead_rest _ _ (fun _ => by rfl) _

@[simp] theorem custody_leaveQueue (h : Head) (tag : Nat) (s : State) : (leaveQueue h tag s).custody = s.custody :=
  custody_modHead_rest _ _ (fun _ => by rfl) _

/-- The end of a plan drops reservations and moves no device. -/
@[simp] theorem custody_dropPlan (p : Nat) (s : State) : (dropPlan p s).custody = s.custody := by
  unfold dropPlan
  rw [custody_opportunityBoth]
  refine custody_ext (fun x => ?_) (fun k => ?_) rfl
  · cases x with
    | nozzle h n => cases h <;> simp [State.recordAt, State.head, PerHead.get]
    | _ => simp [State.recordAt]
  · simp only [Fin.getElem_fin, mapVec_getElem]
    cases s.parts[k.val] <;> rfl

@[simp] theorem custody_endPlan (h : Head) (p : Option Nat) (s : State) : (endPlan h p s).custody = s.custody := by
  unfold endPlan
  split
  · rfl
  · split <;> simp

@[simp] theorem custody_fillTray (b : Fin 16) (y : TrayId) (s : State) : (fillTray b y s).custody = s.custody := by
  unfold fillTray
  dsimp only
  split <;> simp

@[simp] theorem custody_holePocket (b : Fin 16) (y : TrayId) (s : State) : (holePocket b y s).custody = s.custody := by
  simp [holePocket]

@[simp] theorem custody_holeOf (o : Order) (s : State) : (holeOf o s).custody = s.custody := by
  unfold holeOf
  split <;> simp

@[simp] theorem custody_cancelPoint (h : Head) (o : Order) (s : State) : (cancelPoint h o s).custody = s.custody := by
  unfold cancelPoint
  split <;> simp

@[simp] theorem custody_cancelPending (h : Head) (o : Order) (s : State) : (cancelPending h o s).custody = s.custody := by
  simp [cancelPending]

@[simp] theorem custody_cancelWhere (h : Head) (test : Order → Bool) (s : State) :
    (cancelWhere h test s).custody = s.custody := custody_foldl (fun _ _ => custody_cancelPending _ _ _) _ _

@[simp] theorem custody_cancelPlacesInto (i : Fin 64) (s : State) : (cancelPlacesInto i s).custody = s.custody := by
  simp [cancelPlacesInto]

@[simp] theorem custody_cancelCarrying (k : Fin 96) (p : Option Nat) (s : State) :
    (cancelCarrying k p s).custody = s.custody := by
  unfold cancelCarrying
  split <;> simp

@[simp] theorem custody_carriedOpportunity (k : Fin 96) (s : State) : (carriedOpportunity k s).custody = s.custody := by
  unfold carriedOpportunity
  split
  · split <;> simp
  · rfl

/-- A conversion changes the disposition of a record and moves no device. -/
@[simp] theorem custody_convert (k : Fin 96) (s : State) : (convert k s).custody = s.custody := by
  unfold convert
  split
  · split
    · dsimp only
      rw [custody_carriedOpportunity, custody_cancelCarrying]
      split
      · rw [custody_raiseEvent]
        exact custody_modPart _ _ (fun _ => by rfl) _
      · exact custody_modPart _ _ (fun _ => by rfl) _
    · rfl
  · rfl

@[simp] theorem custody_reexamine (s : State) : (reexamine s).custody = s.custody := by
  refine custody_foldl (fun s k => ?_) _ _
  split
  · split <;> simp
  · rfl

@[simp] theorem custody_convertAll (s : State) : (convertAll s).custody = s.custody :=
  custody_foldl (fun _ _ => custody_convert _ _) _ _

/-! ## Sockets and groups -/

@[simp] theorem custody_beginTest (s : State) (i : Fin 64) : (beginTest s i).custody = s.custody := by
  have e (n : Nat) (t : State) : (t.modCounters fun c => { c with testsStarted := n }).custody = t.custody := by
    unfold State.custody
    congr 1
  unfold beginTest
  rw [custody_startTimer]
  exact (e _ _).trans (custody_modSocket _ _ (fun _ => by rfl) _)

@[simp] theorem custody_startGroup (g : Fin 16) (s : State) : (startGroup g s).custody = s.custody := by
  have e (v : Vector Group 16) (t : State) : ({ t with groups := v } : State).custody = t.custody :=
    custody_ext (fun x => by cases x <;> rfl) (fun _ => rfl) rfl
  unfold startGroup
  dsimp only
  rw [e, custody_cancelTimer, custody_foldl custody_beginTest, custody_produce]

@[simp] theorem custody_fillUpdate (g : Fin 16) (s : State) : (fillUpdate g s).custody = s.custody := by
  unfold fillUpdate
  split
  · split <;> simp
  · simp

@[simp] theorem custody_groupUpdate (g : Fin 16) (s : State) : (groupUpdate g s).custody = s.custody := by
  unfold groupUpdate
  split <;> simp

@[simp] theorem custody_updateGroupOf (i : Fin 64) (s : State) : (updateGroupOf i s).custody = s.custody := by
  unfold updateGroupOf
  split <;> simp

@[simp] theorem custody_updateGroups (s : State) : (updateGroups s).custody = s.custody :=
  custody_foldl (fun _ _ => custody_groupUpdate _ _) _ _

@[simp] theorem custody_completeDisable (i : Fin 64) (s : State) : (completeDisable i s).custody = s.custody :=
  custody_complete _ _ _ _

@[simp] theorem custody_afterOff (i : Fin 64) (s : State) : (afterOff i s).custody = s.custody := by simp [afterOff]

/-- A socket that goes OFF keeps its device. -/
@[simp] theorem custody_goOff (i : Fin 64) (s : State) : (goOff i s).custody = s.custody := by
  unfold goOff
  dsimp only
  rw [custody_afterOff]
  split
  · rw [custody_raiseEvent, custody_completeDisable]
    exact custody_modSocket _ _ (fun _ => by rfl) _
  · rw [custody_completeDisable]
    exact custody_modSocket _ _ (fun _ => by rfl) _

@[simp] theorem custody_enterEmpty (i : Fin 64) (s : State) : (enterEmpty i s).custody = s.custody := by
  have h : (opportunityServing i (s.modSocket i fun x => { x with state := .empty })).custody = s.custody :=
    (custody_opportunityServing _ _).trans (custody_modSocket _ _ (fun _ => by rfl) _)
  unfold enterEmpty
  dsimp only
  split
  · exact (custody_goOff _ _).trans h
  · exact h

@[simp] theorem custody_enterTested (i : Fin 64) (s : State) : (enterTested i s).custody = s.custody :=
  (custody_opportunityServing _ _).trans (custody_modSocket _ _ (fun _ => by rfl) _)

@[simp] theorem custody_setPendingDisable (i : Fin 64) (c : DisableCause) (s : State) :
    (setPendingDisable i c s).custody = s.custody := by
  have h : (updateGroupOf i (reexamine (cancelPlacesInto i
      (s.modSocket i fun x => { x with pendingDisable := some c })))).custody = s.custody := by
    simp only [custody_updateGroupOf, custody_reexamine, custody_cancelPlacesInto]
    exact custody_modSocket _ _ (fun _ => by rfl) _
  unfold setPendingDisable
  dsimp only
  split
  · exact (custody_goOff _ _).trans h
  · exact h

@[simp] theorem custody_checkThreshold (i : Fin 64) (s : State) : (checkThreshold i s).custody = s.custody := by
  unfold checkThreshold
  dsimp only
  split <;> simp

/-- Noting a fault moves no device. -/
@[simp] theorem custody_noteFault (i : Fin 64) (k : FaultKind) (s : State) : (noteFault i k s).custody = s.custody :=
  (custody_checkThreshold _ _).trans (custody_modSocket _ _ (fun _ => by rfl) _)

@[simp] theorem custody_becomeReady (i : Fin 64) (s : State) : (becomeReady i s).custody = s.custody :=
  (custody_updateGroupOf _ _).trans (custody_modSocket _ _ (fun _ => by rfl) _)

@[simp] theorem custody_clearPartFaults (i : Fin 64) (s : State) : (clearPartFaults i s).custody = s.custody := by
  unfold clearPartFaults
  split
  · exact custody_modSocket _ _ (fun _ => by rfl) _
  · rfl

@[simp] theorem custody_beginSoak (i : Fin 64) (s : State) : (beginSoak i s).custody = s.custody := by
  have e (u : State) (hu : u.custody = s.custody) : (if u.lot.soak = 0 then becomeReady i u
      else startTimer (.soak i) u.lot.soak (u.modSocket i fun x => { x with state := .soaking })).custody =
      s.custody := by
    split
    · exact (custody_becomeReady _ _).trans hu
    · rw [custody_startTimer]
      exact (custody_modSocket _ _ (fun _ => by rfl) _).trans hu
  exact e _ (custody_clearPartFaults i s)

@[simp] theorem custody_setDisposition (i : Fin 64) (code : Byte) (s : State) :
    (setDisposition i code s).custody = s.custody := by
  unfold setDisposition
  split
  · rfl
  · next k r _ =>
    have h (d : Disposition) : (s.modPart k fun x => { x with disposition := d }).custody = s.custody :=
      custody_modPart _ _ (fun _ => by rfl) _
    dsimp only
    split <;> split <;> (try rw [custody_raiseEvent]) <;> rw [← h (decideDisposition s r code)] <;> rfl

@[simp] theorem custody_finishTest (i : Fin 64) (s : State) : (finishTest i s).custody = s.custody := by
  simp [finishTest]

/-! ## Holdings and grants -/

@[simp] theorem custody_tellOther (h : Head) (old : Span) (s : State) : (tellOther h old s).custody = s.custody := by
  unfold tellOther
  dsimp only
  split <;> simp

@[simp] theorem custody_recomputeHoldings (h : Head) (s : State) : (recomputeHoldings h s).custody = s.custody :=
  (custody_tellOther _ _ _).trans (custody_modHead_rest _ _ (fun _ => by rfl) _)

@[simp] theorem custody_setBase (h : Head) (z : Nat) (s : State) : (setBase h z s).custody = s.custody :=
  custody_modHead_rest _ _ (fun x => by split <;> rfl) _

@[simp] theorem custody_widenHoldings (h : Head) (s : State) : (widenHoldings h s).custody = s.custody :=
  (custody_tellOther _ _ _).trans (custody_modHead_rest _ _ (fun _ => by rfl) _)

@[simp] theorem custody_standAt (h : Head) (p : Pos) (s : State) : (standAt h p s).custody = s.custody := by
  have e (z : Nat) : (tellOther h (s.head h).holdings
      (s.modHead h fun x => { x with base := some z, holdings := ⟨z, z⟩ })).custody = s.custody :=
    (custody_tellOther _ _ _).trans (custody_modHead_rest _ _ (fun _ => by rfl) _)
  unfold standAt
  dsimp only
  split
  · exact e _
  · exact (custody_raiseEvent _ _ _).trans (e _)

@[simp] theorem custody_joinHoldings (h : Head) (c : Span) (s : State) : (joinHoldings h c s).custody = s.custody :=
  (custody_tellOther _ _ _).trans (custody_modHead_rest _ _ (fun _ => by rfl) _)

@[simp] theorem custody_issueOrder (h : Head) (c : Order × Resolved) (s : State) :
    (issueOrder h c s).custody = s.custody := by simp [issueOrder]

@[simp] theorem custody_grantSocket (o : Order) (s : State) : (grantSocket o s).custody = s.custody := by
  unfold grantSocket
  split
  · exact custody_modSocket _ _ (fun _ => by rfl) _
  · exact custody_modSocket _ _ (fun _ => by rfl) _
  · rfl

/-- A grant moves no device. -/
@[simp] theorem custody_grantClaim (h : Head) (claim : List (Order × Resolved)) (s : State) :
    (grantClaim h claim s).custody = s.custody := by
  have h1 := custody_foldl (fun s (c : Order × Resolved) => custody_issueOrder h c s) claim s
  have h2 := custody_foldl (f := fun s (c : Order × Resolved) => grantSocket c.1 s)
    (fun s c => custody_grantSocket c.1 s) claim (claim.foldl (fun s c => issueOrder h c s) s)
  have h3 := (custody_joinHoldings h (claimSpan claim) _).trans (h2.trans h1)
  unfold grantClaim
  dsimp only
  rw [custody_opportunity]
  split
  · split
    · exact (custody_startTimer _ _ _).trans h3
    · exact h3
  · exact h3

@[simp] theorem custody_syncYield (h : Head) (s : State) : (syncYield h s).custody = s.custody := by
  have e : (s.modHead h demote).custody = s.custody := custody_modHead_rest _ _ (fun _ => by rfl) _
  unfold syncYield
  dsimp only
  split
  · exact e
  · exact (custody_modHead_rest _ _ (fun _ => by rfl) _).trans ((custody_cancelTimer _ _).trans e)

@[simp] theorem custody_markWaiting (h : Head) (s : State) : (markWaiting h s).custody = s.custody := by
  unfold markWaiting
  split
  · rfl
  · split <;> simp

@[simp] theorem custody_considerFront (h : Head) (k : Nat) (s : State) : (considerFront h k s).custody = s.custody := by
  induction k generalizing s with
  | zero => rfl
  | succ k ih =>
    unfold considerFront
    split
    · rw [ih, custody_syncYield, custody_grantClaim]
    · simp

@[simp] theorem custody_takeGrantPoint (h : Head) (s : State) : (takeGrantPoint h s).custody = s.custody := by
  simp [takeGrantPoint, custody_points]

@[simp] theorem custody_makeYieldPark (h : Head) (s : State) : (makeYieldPark h s).custody = s.custody := by
  simp only [makeYieldPark, custody_takeGrantPoint, custody_raiseEvent, custody_syncYield, custody_insertPark]
  exact custody_modHead_rest _ _ (fun _ => by rfl) _

@[simp] theorem custody_takeYieldCheck (h : Head) (s : State) : (takeYieldCheck h s).custody = s.custody := by
  unfold takeYieldCheck
  dsimp only
  split <;> simp [custody_points]

@[simp] theorem custody_takeMove (m : Move) (s : State) : (takeMove m s).custody = s.custody := by
  unfold takeMove
  split <;> simp

@[simp] theorem custody_settleLoop (k : Nat) (s : State) : (settleLoop k s).custody = s.custody := by
  induction k generalizing s with
  | zero => rfl
  | succ k ih =>
    unfold settleLoop
    split
    · rfl
    · rw [ih, custody_takeMove]
    · rw [ih, custody_takeMove, custody_draws]

@[simp] theorem custody_settle (s : State) : (settle s).custody = s.custody := by simp [settle, custody_points]

@[simp] theorem custody_endEvent (s : State) : (endEvent s).custody = s.custody := by
  unfold endEvent checkDrain
  split <;> simp

@[simp] theorem custody_yieldAtOnce (h : Head) (s : State) : (yieldAtOnce h s).custody = s.custody := by
  simp only [yieldAtOnce, yieldFalls, custody_endEvent, custody_yieldCheck]
  exact (custody_modHead_rest _ _ (fun _ => by rfl) _).trans (custody_cancelTimer _ _)

@[simp] theorem custody_atOnceLoop (k : Nat) (s : State) : (atOnceLoop k s).custody = s.custody := by
  induction k generalizing s with
  | zero => rfl
  | succ k ih =>
    unfold atOnceLoop
    split
    · rfl
    · rw [ih, custody_yieldAtOnce]
    · rw [ih, custody_yieldAtOnce, custody_draws]

@[simp] theorem custody_takeAtOnce (s : State) : (takeAtOnce s).custody = s.custody := custody_atOnceLoop _ _

/-- The end of a command moves no device. -/
@[simp] theorem custody_finish (s : State) : (finish s).custody = s.custody := by simp [finish]

/-! ## Heads -/

@[simp] theorem custody_retime (h : Head) (s : State) : (retime h s).custody = s.custody := by
  unfold retime
  split <;> simp

@[simp] theorem custody_setKnown (h : Head) (p : Pos) (s : State) : (setKnown h p s).custody = s.custody :=
  custody_modHead_rest _ _ (fun _ => by rfl) _

@[simp] theorem custody_clearSlot (i : Fin 8) (tag : Nat) (s : State) : (clearSlot i tag s).custody = s.custody := by
  simp only [clearSlot, shuttleTaken, custody_produce, custody_opportunityBoth]
  exact custody_modInput _ _ (fun _ => by rfl) _

@[simp] theorem custody_socketPicked (h : Head) (o : Order) (i : Fin 64) (s : State) :
    (socketPicked h o i s).custody = s.custody := by
  unfold socketPicked
  split
  · exact custody_modSocket _ _ (fun _ => by rfl) _
  · simp

@[simp] theorem custody_notDoneEffect (o : Order) (s : State) : (notDoneEffect o s).custody = s.custody := by
  unfold notDoneEffect
  split
  · split <;> simp
  · split <;> simp
  · simp

/-- An order resolved as not done moves no device. -/
@[simp] theorem custody_resolveNotDone (h : Head) (o : Order) (s : State) :
    (resolveNotDone h o s).custody = s.custody := by simp [resolveNotDone]

@[simp] theorem custody_revertSocket (o : Order) (s : State) : (revertSocket o s).custody = s.custody := by
  unfold revertSocket
  split
  · split <;> simp
  · next i _ _ =>
    have e (u : State) (hu : u.custody = s.custody) : (if u.sockets[i].pendingDisable.isSome then
        if (cancelPlacesInto i u).sockets[i].state = .empty then goOff i (cancelPlacesInto i u)
        else cancelPlacesInto i u
      else u).custody = s.custody := by
      split
      · split
        · exact (custody_goOff _ _).trans ((custody_cancelPlacesInto _ _).trans hu)
        · exact (custody_cancelPlacesInto _ _).trans hu
      · exact hu
    refine e _ ?_
    split
    · exact (custody_opportunityServing _ _).trans (custody_modSocket _ _ (fun _ => by rfl) _)
    · rfl
  · rfl

/-- A return for another try moves no device. -/
@[simp] theorem custody_returnForRetry (h : Head) (failed : Option Nat) (s : State) :
    (returnForRetry h failed s).custody = s.custody := by
  simp only [returnForRetry, custody_grantPoint, custody_opportunity, custody_recomputeHoldings, custody_cancelTimer]
  exact (custody_foldl (fun _ _ => custody_revertSocket _ _) _ _).trans (custody_modHead_rest _ _ (fun _ => by rfl) _)

@[simp] theorem custody_failPlanMates (h : Head) (o : Order) (s : State) : (failPlanMates h o s).custody = s.custody :=
  custody_foldl (fun _ _ => custody_resolveNotDone _ _ _) _ _

@[simp] theorem custody_stuckAt (o : Order) (s : State) : (stuckAt o s).custody = s.custody := by
  unfold stuckAt
  split
  · next i _ =>
    have e : (s.modSocket i fun x => { x with plan := none }).custody = s.custody :=
      custody_modSocket _ _ (fun _ => by rfl) _
    dsimp only
    rw [custody_noteFault]
    split
    · exact (custody_enterEmpty _ _).trans e
    · exact e
  · exact custody_modRetest _ _ (fun _ => by rfl) _
  · simp

@[simp] theorem custody_raiseStuck (tag : Option Nat) (s : State) : (raiseStuck tag s).custody = s.custody := by
  unfold raiseStuck
  split <;> simp [custody_draws]

/-- A final stuck moves no device: it stays on its nozzle. -/
@[simp] theorem custody_finalStuck (h : Head) (o : Order) (s : State) : (finalStuck h o s).custody = s.custody := by
  simp [finalStuck]

@[simp] theorem custody_stopQueue (h : Head) (s : State) : (stopQueue h s).custody = s.custody := by
  simp only [stopQueue, custody_cancelWhere, custody_cancelTimer, custody_yieldCheck]
  exact custody_modHead_rest _ _ (fun _ => by rfl) _

@[simp] theorem custody_makeUnknown (h : Head) (s : State) : (makeUnknown h s).custody = s.custody :=
  custody_modHead_rest _ _ (fun _ => by rfl) _

@[simp] theorem custody_failGranted (h : Head) (s : State) : (failGranted h s).custody = s.custody :=
  custody_foldl (fun _ _ => custody_resolveNotDone _ _ _) _ _

@[simp] theorem custody_stopJam (h : Head) (p : Pos) (s : State) : (stopJam h p s).custody = s.custody := by
  simp [stopJam]

@[simp] theorem custody_stopTimeout (h : Head) (s : State) : (stopTimeout h s).custody = s.custody := by
  simp [stopTimeout]

@[simp] theorem custody_stopStuck (h : Head) (s : State) : (stopStuck h s).custody = s.custody := by simp [stopStuck]

/-! ## The planner -/

@[simp] theorem custody_openPlan (h : Head) (k : PlanKind) (s : State) : (openPlan h k s).custody = s.custody :=
  custody_ext (fun x => by cases x <;> rfl) (fun _ => rfl) rfl

@[simp] theorem custody_movePointer (h : Head) (p : Nat) (s : State) : (movePointer h p s).custody = s.custody :=
  custody_modHead_rest _ _ (fun _ => by rfl) _

@[simp] theorem custody_reserveSocket (p : Nat) (i : Fin 64) (s : State) : (reserveSocket p i s).custody = s.custody :=
  custody_modSocket _ _ (fun _ => by rfl) _

@[simp] theorem custody_reserveNozzle (p : Nat) (h : Head) (n : Fin 4) (s : State) :
    (reserveNozzle p h n s).custody = s.custody := custody_modNozzle _ _ _ (fun _ => by rfl) _

@[simp] theorem custody_reserveInput (p : Nat) (i : Fin 8) (s : State) : (reserveInput p i s).custody = s.custody :=
  custody_modInput _ _ (fun _ => by rfl) _

@[simp] theorem custody_reserveRetest (p : Nat) (i : Fin 8) (s : State) : (reserveRetest p i s).custody = s.custody :=
  custody_modRetest _ _ (fun _ => by rfl) _

@[simp] theorem custody_reservePart (p : Nat) (k : Option (Fin 96)) (s : State) :
    (reservePart p k s).custody = s.custody := by
  unfold reservePart
  split
  · exact custody_modPart _ _ (fun _ => by rfl) _
  · rfl

@[simp] theorem custody_orderPick (h : Head) (p : Nat) (l : Location) (k : Option (Fin 96)) (n : Fin 4) (s : State) :
    (orderPick h p l k n s).custody = s.custody := by simp [orderPick]

@[simp] theorem custody_orderPlace (h : Head) (p : Nat) (l : Location) (k : Fin 96) (n : Fin 4) (s : State) :
    (orderPlace h p l k n s).custody = s.custody := by simp [orderPlace]

theorem custody_tryUnload (h : Head) (ht : tryUnload h s = some t) : t.custody = s.custody := by
  unfold tryUnload at ht
  split at ht
  · cases ht
  · split at ht
    · cases ht
    · dsimp only at ht
      split at ht <;> cases ht <;> simp

theorem custody_tryLoad (h : Head) (ht : tryLoad h s = some t) : t.custody = s.custody := by
  unfold tryLoad at ht
  split at ht
  · cases ht
  · split at ht
    · cases ht
    · split at ht <;> cases ht
      simp

theorem custody_tryFetch (h : Head) (ht : tryFetch h s = some t) : t.custody = s.custody := by
  unfold tryFetch at ht
  split at ht
  · dsimp only at ht
    split at ht
    · cases ht
      simp
    · split at ht
      · cases ht
      · split at ht <;> cases ht
        simp
  · cases ht

@[simp] theorem custody_checkStarved (h : Head) (s : State) : (checkStarved h s).custody = s.custody := by
  unfold checkStarved
  split
  · rfl
  · split
    · rfl
    · split <;> simp

@[simp] theorem custody_stowPlan (h : Head) (l : Location) (k : Fin 96) (n : Fin 4) (s : State) :
    (stowPlan h l k n s).custody = s.custody := by
  unfold stowPlan
  dsimp only
  split <;> simp

@[simp] theorem custody_moveActive (b : Fin 16) (y : TrayId) (s : State) : (moveActive b y s).custody = s.custody := by
  unfold moveActive
  split <;> simp

@[simp] theorem custody_takePocket (b : Fin 16) (y : TrayId) (s : State) : (takePocket b y s).1.custody = s.custody := by
  unfold takePocket
  dsimp only
  split <;> simp

/-- Asking for a pocket moves no device. -/
@[simp] theorem custody_askPocket (b : Fin 16) (s : State) : (askPocket b s).1.custody = s.custody := by
  unfold askPocket
  split
  · simp
  · dsimp only
    split <;> simp

@[simp] theorem custody_stowFirst (h : Head) (l : List (Fin 4 × Fin 96 × PartRecord)) (s : State) :
    (stowFirst h l s).1.custody = s.custody := by
  induction l generalizing s with
  | nil => rfl
  | cons c l ih =>
    unfold stowFirst
    split
    · exact ih s
    · next b _ =>
      have e := custody_askPocket b s
      split
      · next hp => rw [hp] at e; simpa using e
      · next hp => rw [hp] at e; exact (ih _).trans e

@[simp] theorem custody_stowRetest (h : Head) (s : State) : (stowRetest h s).1.custody = s.custody := by
  unfold stowRetest
  split
  · split
    · rfl
    · split
      · simp
      · dsimp only
        split <;> simp [overflow]
  · rfl

@[simp] theorem custody_tryStow (h : Head) (s : State) : (tryStow h s).1.custody = s.custody := by
  have e := custody_stowFirst h (carried s h) s
  unfold tryStow
  split
  · next hp => rw [hp] at e; exact e
  · next hp => rw [hp] at e; exact (custody_stowRetest _ _).trans e

@[simp] theorem custody_onePass (h : Head) (s : State) : (onePass h s).1.custody = s.custody := by
  unfold onePass
  split
  · next ht => exact custody_tryUnload h ht
  · split
    · next ht => exact custody_tryLoad h ht
    · have e := (custody_tryStow h (checkStarved h s)).trans (custody_checkStarved h s)
      split
      · next hp => rw [hp] at e; exact e
      · next hp =>
        rw [hp] at e
        split
        · next ht => exact (custody_tryFetch h ht).trans e
        · exact e

/-- The passes of an opportunity move no device. -/
@[simp] theorem custody_passes (h : Head) (k : Nat) (s : State) : (passes h k s).custody = s.custody := by
  induction k generalizing s with
  | zero => rfl
  | succ k ih =>
    have e := custody_onePass h s
    unfold passes
    split
    · split
      · next hp => rw [hp] at e; exact (ih _).trans e
      · next hp => rw [hp] at e; exact e
    · rfl

/-! ## Moving, releasing and registering a device (R27, R30, R31) -/

theorem State.recordAt_setRecordAt (s : State) (p q : Place) (r : Option (Fin 96)) :
    (s.setRecordAt p r).recordAt q = if p = q then r else s.recordAt q := by
  cases p with
  | socket i =>
    cases q with
    | socket j =>
      simp only [State.setRecordAt, State.recordAt, State.socket_modSocket, Place.socket.injEq]
      split <;> rfl
    | _ => rfl
  | input i =>
    cases q with
    | input j =>
      simp only [State.setRecordAt, State.recordAt, State.input_modInput, Place.input.injEq]
      split <;> rfl
    | _ => rfl
  | retest i =>
    cases q with
    | retest j =>
      simp only [State.setRecordAt, State.recordAt, State.retest_modRetest, Place.retest.injEq]
      split <;> rfl
    | _ => rfl
  | nozzle h n =>
    cases q with
    | nozzle k m =>
      simp only [State.setRecordAt, State.recordAt, State.modNozzle, State.modHead, State.setHead, State.head,
        PerHead.get_set, Place.nozzle.injEq]
      by_cases e : h = k
      · subst e
        by_cases d : n = m
        · subst d
          simp
        · have d' : n.val ≠ m.val := fun x => d (Fin.ext x)
          simp [d, d']
      · simp [e]
    | _ => rfl

@[simp] theorem State.parts_setRecordAt (s : State) (p : Place) (r : Option (Fin 96)) :
    (s.setRecordAt p r).parts = s.parts := by cases p <;> rfl

@[simp] theorem State.counters_setRecordAt (s : State) (p : Place) (r : Option (Fin 96)) :
    (s.setRecordAt p r).counters = s.counters := by cases p <;> rfl

@[simp] theorem State.recordAt_setPart (s : State) (k : Fin 96) (r : Option PartRecord) (p : Place) :
    (s.setPart k r).recordAt p = s.recordAt p := by cases p <;> rfl

@[simp] theorem State.recordAt_modPart (s : State) (k : Fin 96) (f : PartRecord → PartRecord) (p : Place) :
    (s.modPart k f).recordAt p = s.recordAt p := State.recordAt_setPart _ _ _ _

/-- A device that moves stands at the new place alone, and its record names that place. -/
theorem moveRecord_spec {a b : Place} {k : Fin 96} (h : s.recordAt a = some k) :
    (∀ p, (moveRecord a b s).recordAt p = if b = p then some k else if a = p then none else s.recordAt p) ∧
    (∀ j : Fin 96, (moveRecord a b s).parts[j] =
      if k = j then s.parts[k].map (fun r => { r with place := b }) else s.parts[j]) ∧
    (moveRecord a b s).counters = s.counters := by
  have e : moveRecord a b s =
      ((s.setRecordAt a none).setRecordAt b (some k)).modPart k fun r => { r with place := b } := by
    unfold moveRecord
    rw [h]
  rw [e]
  refine ⟨fun p => ?_, fun j => ?_, ?_⟩
  · simp only [State.recordAt_modPart, State.recordAt_setRecordAt]
  · rw [State.part_modPart]
    simp only [State.parts_setRecordAt]
  · show ((s.setRecordAt a none).setRecordAt b (some k)).counters = s.counters
    simp

/-- From a place that holds nothing nothing moves. -/
theorem moveRecord_of_none {a b : Place} (h : s.recordAt a = none) : moveRecord a b s = s := by
  unfold moveRecord
  rw [h]

/-- A device that leaves custody leaves its place empty and its record free. -/
theorem releaseAt_spec {a : Place} {k : Fin 96} (h : s.recordAt a = some k) :
    (∀ p, (releaseAt a s).recordAt p = if a = p then none else s.recordAt p) ∧
    (∀ j : Fin 96, (releaseAt a s).parts[j] = if k = j then none else s.parts[j]) ∧
    (releaseAt a s).counters = s.counters := by
  have e : releaseAt a s = (s.setRecordAt a none).setPart k none := by
    unfold releaseAt
    rw [h]
  rw [e]
  refine ⟨fun p => ?_, fun j => ?_, ?_⟩
  · simp only [State.recordAt_setPart, State.recordAt_setRecordAt]
  · rw [State.part_setPart]
    simp only [State.parts_setRecordAt]
  · show (s.setRecordAt a none).counters = s.counters
    simp

theorem releaseAt_of_none {a : Place} (h : s.recordAt a = none) : releaseAt a s = s := by
  unfold releaseAt
  rw [h]

/-- A registration puts the new device into its slot and a free record, and counts it. -/
theorem register_spec {i : Fin 8} {tag : Nat} {k : Fin 96} (h : freeRecord s = some k) :
    (∀ p, (register i tag s).recordAt p = if Place.input i = p then some k else s.recordAt p) ∧
    (∀ j : Fin 96, (register i tag s).parts[j].map PartRecord.seat =
      if k = j then some (tag, .input i, []) else s.parts[j].map PartRecord.seat) ∧
    (register i tag s).counters.registered = satSucc s.counters.registered := by
  let u := (s.setPart k (some { tag := tag, place := .input i, attempts := [], disposition := .none, plan := none })).modInput
    i fun x => { x with record := some k, taken := none }
  have e : (register i tag s).custody =
      (u.modCounters fun c => { c with registered := satSucc c.registered }).custody := by
    unfold register
    rw [h]
    exact custody_opportunityBoth _
  refine ⟨fun p => (custody_recordAt e p).trans ?_, fun j => (custody_part e j).trans ?_, custody_registered e⟩
  · cases p with
    | input j =>
      show u.inputs[j].record = _
      simp only [u, State.input_modInput, Place.input.injEq]
      split <;> rfl
    | _ => rfl
  · show u.parts[j].map PartRecord.seat = _
    have p : u.parts[j] = if k = j then
        some { tag := tag, place := .input i, attempts := [], disposition := .none, plan := none } else s.parts[j] :=
      State.part_setPart s k j _
    rw [p]
    split <;> rfl

/-- The record a registration takes is free, and every one below it is in use (R20). -/
theorem freeRecord_spec {k : Fin 96} (h : freeRecord s = some k) :
    s.parts[k] = none ∧ ∀ j : Fin 96, j < k → s.parts[j] ≠ none := by
  obtain ⟨hk, l, r, e, hl⟩ := List.find?_eq_some_iff_append.mp h
  refine ⟨by simpa using hk, fun j hj hn => ?_⟩
  have mem : j ∈ l ++ k :: r := e ▸ List.mem_finRange j
  rcases List.mem_append.mp mem with m | m
  · simpa [hn] using hl j m
  · have sorted : (l ++ k :: r).Pairwise (· < ·) := e ▸ List.pairwise_lt_finRange 96
    rcases List.mem_cons.mp m with m | m
    · exact absurd hj (by rw [m]; exact lt_irrefl k)
    · have := (List.pairwise_cons.mp (List.pairwise_append.mp sorted).2.1).1 j m
      exact absurd hj (not_lt.mpr this.le)

/-! ## The law of custody (R21, R22) -/

/-- The custody law is one of the custody view. -/
theorem custodyLawful_of_custody (h : t.custody = s.custody) (l : s.custodyLawful) : t.custodyLawful := by
  refine ⟨fun p k hp => ?_, fun j k q r hj hk hqr => ?_⟩
  · obtain ⟨r, hr, hpl⟩ := l.1 p k ((custody_recordAt h p).symm.trans hp)
    obtain ⟨y, hy, _, hyp, _⟩ := custody_record h hr
    exact ⟨y, hy, hyp.trans hpl⟩
  · obtain ⟨q', hq', tq, _, _⟩ := custody_record h.symm hj
    obtain ⟨r', hr', tr, _, _⟩ := custody_record h.symm hk
    exact l.2 j k q' r' hq' hr' (by rw [tq, tr, hqr])

theorem custodyLawful_modCounters (f : Counters → Counters) (l : s.custodyLawful) : (s.modCounters f).custodyLawful :=
  ⟨fun p k hp => l.1 p k (by cases p <;> exact hp), l.2⟩

/-- Under the custody law a record stands at no two places. -/
theorem custodyLawful_place (l : s.custodyLawful) {p q : Place} {k : Fin 96} (hp : s.recordAt p = some k)
    (hq : s.recordAt q = some k) : p = q := by
  obtain ⟨r, hr, e⟩ := l.1 p k hp
  obtain ⟨r', hr', e'⟩ := l.1 q k hq
  rw [hr] at hr'
  cases hr'
  exact e.symm.trans e'

/-- A move keeps the custody law. -/
theorem custodyLawful_moveRecord (a b : Place) (l : s.custodyLawful) : (moveRecord a b s).custodyLawful := by
  cases h : s.recordAt a with
  | none => rw [moveRecord_of_none h]; exact l
  | some k =>
    obtain ⟨hp, hr, _⟩ := moveRecord_spec (b := b) h
    refine ⟨fun p j e => ?_, fun j i q r hj hi hqr => ?_⟩
    · rw [hp] at e
      split at e
      · next hb =>
        subst hb
        cases e
        obtain ⟨r, hk, _⟩ := l.1 a k h
        exact ⟨{ r with place := b }, by rw [hr, if_pos rfl, hk]; rfl, rfl⟩
      · split at e
        · cases e
        · next ha =>
          obtain ⟨r, hj, hpl⟩ := l.1 p j e
          have hne : k ≠ j := fun x => ha (custodyLawful_place l h (x ▸ e))
          exact ⟨r, by rw [hr, if_neg hne, hj], hpl⟩
    · have back (j : Fin 96) (q : PartRecord) (hj : (moveRecord a b s).parts[j] = some q) :
          ∃ q', s.parts[j] = some q' ∧ q'.tag = q.tag := by
        rw [hr] at hj
        split at hj
        · next e =>
          subst e
          cases hk : s.parts[k] with
          | none => rw [hk] at hj; cases hj
          | some x => rw [hk] at hj; cases hj; exact ⟨x, rfl, rfl⟩
        · exact ⟨q, hj, rfl⟩
      obtain ⟨q', hq', tq⟩ := back j q hj
      obtain ⟨r', hr', tr⟩ := back i r hi
      exact l.2 j i q' r' hq' hr' (by rw [tq, tr, hqr])

/-- A release keeps the custody law. -/
theorem custodyLawful_releaseAt (a : Place) (l : s.custodyLawful) : (releaseAt a s).custodyLawful := by
  cases h : s.recordAt a with
  | none => rw [releaseAt_of_none h]; exact l
  | some k =>
    obtain ⟨hp, hr, _⟩ := releaseAt_spec h
    have back (j : Fin 96) (q : PartRecord) (hj : (releaseAt a s).parts[j] = some q) : s.parts[j] = some q := by
      rw [hr] at hj
      split at hj
      · cases hj
      · exact hj
    refine ⟨fun p j e => ?_, fun j i q r hj hi hqr => l.2 j i q r (back j q hj) (back i r hi) hqr⟩
    rw [hp] at e
    split at e
    · cases e
    · next ha =>
      obtain ⟨r, hj, hpl⟩ := l.1 p j e
      have hne : k ≠ j := fun x => ha (custodyLawful_place l h (x ▸ e))
      exact ⟨r, by rw [hr, if_neg hne, hj], hpl⟩

/-- A registration under a tag that is not in use keeps the custody law. -/
theorem custodyLawful_register (i : Fin 8) (tag : Nat) (new : tagInUse s tag = false) (l : s.custodyLawful) :
    (register i tag s).custodyLawful := by
  cases h : freeRecord s with
  | none => unfold register; rw [h]; exact l
  | some k =>
    obtain ⟨hp, hr, _⟩ := register_spec (i := i) (tag := tag) h
    have free := (freeRecord_spec h).1
    have unused (j : Fin 96) (q : PartRecord) (hj : s.parts[j] = some q) : q.tag ≠ tag := by
      intro e
      have := List.any_eq_false.mp new j (List.mem_finRange j)
      simp [hj, e] at this
    have seat (j : Fin 96) (q : PartRecord) (hj : (register i tag s).parts[j] = some q) :
        (k = j ∧ q.tag = tag ∧ q.place = .input i) ∨
          (k ≠ j ∧ ∃ q', s.parts[j] = some q' ∧ q'.tag = q.tag ∧ q'.place = q.place) := by
      have e := hr j
      rw [hj] at e
      by_cases d : k = j
      · rw [if_pos d] at e
        simp [PartRecord.seat] at e
        exact .inl ⟨d, e.1, e.2.1⟩
      · rw [if_neg d] at e
        cases hs : s.parts[j] with
        | none => simp [hs] at e
        | some q' =>
          simp [hs, PartRecord.seat] at e
          exact .inr ⟨d, q', rfl, e.1.symm, e.2.1.symm⟩
    refine ⟨fun p j e => ?_, fun j m q r hj hm hqr => ?_⟩
    · rw [hp] at e
      have row := hr j
      split at e
      · next hb =>
        cases e
        rw [if_pos rfl] at row
        cases hx : (register i tag s).parts[k] with
        | none => simp [hx] at row
        | some x =>
          simp [hx, PartRecord.seat] at row
          exact ⟨x, rfl, row.2.1.trans hb⟩
      · obtain ⟨r, hj, hpl⟩ := l.1 p j e
        have hne : k ≠ j := fun x => by rw [x, hj] at free; cases free
        rw [if_neg hne, hj] at row
        cases hx : (register i tag s).parts[j] with
        | none => simp [hx] at row
        | some x =>
          simp [hx, PartRecord.seat] at row
          exact ⟨x, rfl, row.2.1.trans hpl⟩
    · rcases seat j q hj with ⟨ej, tj, _⟩ | ⟨_, q', hq', tq, _⟩ <;> rcases seat m r hm with ⟨em, tm, _⟩ | ⟨_, r', hr', tr, _⟩
      · exact ej.symm.trans em
      · exact absurd (tr.trans (hqr.symm.trans tj)) (unused m r' hr')
      · exact absurd (tq.trans (hqr.trans tm)) (unused j q' hq')
      · exact l.2 j m q' r' hq' hr' (by rw [tq, tr, hqr])

/-! ## The law through what the blocks do -/

theorem custodyLawful_placePocket (b : Fin 16) (y : TrayId) (l : s.custodyLawful) : (placePocket b y s).custodyLawful :=
  custodyLawful_of_custody (custody_fillTray _ _ _)
    (custodyLawful_modCounters _ (custodyLawful_of_custody (custody_modTray b y _ s) l))

/-- R124: an order resolved as done keeps the custody law. -/
theorem custodyLawful_doneEffect (h : Head) (o : Order) (l : s.custodyLawful) : (doneEffect h o s).custodyLawful := by
  unfold doneEffect
  split
  · exact custodyLawful_of_custody (custody_socketPicked _ _ _ _) (custodyLawful_moveRecord _ _ l)
  · exact custodyLawful_of_custody (custody_clearSlot _ _ _) (custodyLawful_moveRecord _ _ l)
  · exact custodyLawful_of_custody (custody_opportunityBoth _) (custodyLawful_moveRecord _ _ l)
  · split
    · exact custodyLawful_of_custody (custody_beginSoak _ _) (custodyLawful_moveRecord _ _ l)
    · exact custodyLawful_of_custody ((custody_enterEmpty _ _).trans (custody_clearPartFaults _ _)) l
  · exact custodyLawful_of_custody (custody_opportunityBoth _) (custodyLawful_moveRecord _ _ l)
  · split
    · exact custodyLawful_releaseAt _ (custodyLawful_placePocket _ _ l)
    · exact custodyLawful_modCounters _ (custodyLawful_placePocket _ _ l)
  · exact l

/-- But for the effect on its location, an order resolved as done moves no device. -/
theorem custody_resolveDone (h : Head) (o : Order) (s : State) :
    (resolveDone h o s).custody = (doneEffect h o (setKnown h ((o.resolved.map Resolved.target).getD ⟨0, 0⟩)
      (leaveQueue h o.tag s))).custody := by simp [resolveDone]

theorem custodyLawful_resolveDone (h : Head) (o : Order) (l : s.custodyLawful) : (resolveDone h o s).custodyLawful :=
  custodyLawful_of_custody (custody_resolveDone h o s)
    (custodyLawful_doneEffect h o (custodyLawful_of_custody (by simp) l))

theorem custodyLawful_countRemoved (l : s.custodyLawful) : (countRemoved s).custodyLawful := custodyLawful_modCounters _ l

theorem custodyLawful_lostFrom (o : Order) (l : s.custodyLawful) : (lostFrom o s).custodyLawful := by
  unfold lostFrom
  split
  · next i _ =>
    dsimp only
    refine custodyLawful_of_custody ?_ (custodyLawful_countRemoved (custodyLawful_releaseAt (.socket i) l))
    simp only [custody_afterOff, custody_completeDisable, custody_raiseEvent, custody_noteFault]
    exact custody_modSocket _ _ (fun _ => by rfl) _
  · exact custodyLawful_of_custody (custody_clearSlot _ _ _) (custodyLawful_countRemoved (custodyLawful_releaseAt _ l))
  · exact custodyLawful_of_custody (custody_opportunityBoth _) (custodyLawful_countRemoved (custodyLawful_releaseAt _ l))
  · exact l

theorem custodyLawful_finalMiss (h : Head) (o : Order) (l : s.custodyLawful) : (finalMiss h o s).custodyLawful := by
  unfold finalMiss
  dsimp only
  refine custodyLawful_of_custody ?_ (custodyLawful_lostFrom o
    (custodyLawful_of_custody ((custody_failPlanMates h o _).trans (custody_leaveQueue h o.tag s)) l))
  simp

theorem custodyLawful_removeFromNozzle (h : Head) (n : Fin 4) (l : s.custodyLawful) :
    (removeFromNozzle h n s).custodyLawful := by
  unfold removeFromNozzle
  split
  · exact custodyLawful_countRemoved (custodyLawful_releaseAt _ l)
  · exact l

theorem custodyLawful_clearNozzle (h : Head) (n : Fin 4) (l : s.custodyLawful) : (clearNozzle h n s).custodyLawful :=
  custodyLawful_of_custody (custody_modNozzle _ _ _ (fun _ => by rfl) _) (custodyLawful_removeFromNozzle h n l)

theorem custodyLawful_foldl {α : Type} {f : State → α → State}
    (hf : ∀ s a, s.custodyLawful → (f s a).custodyLawful) :
    ∀ (as : List α) {s}, s.custodyLawful → (as.foldl f s).custodyLawful
  | [], _, l => l
  | a :: as, s, l => custodyLawful_foldl hf as (hf s a l)

theorem custodyLawful_compareNozzles (h : Head) (presence : Byte) (l : s.custodyLawful) :
    (compareNozzles h presence s).custodyLawful := by
  have e : ((List.finRange 4).foldl (compareNozzle h presence) s).custodyLawful := by
    refine custodyLawful_foldl (fun s n l => ?_) _ l
    unfold compareNozzle
    split
    · split
      · exact custodyLawful_of_custody (custody_modNozzle _ _ _ (fun _ => by rfl) _) l
      · exact l
    · exact custodyLawful_clearNozzle _ _ l
  unfold compareNozzles
  dsimp only
  split
  · exact custodyLawful_of_custody (custody_raiseEvent _ _ _) e
  · exact e

theorem custodyLawful_resolveByPresence (h : Head) (presence : Byte) :
    ∀ (os : List Order) (failed : Bool) {s}, s.custodyLawful → (resolveByPresence h presence os failed s).custodyLawful
  | [], _, _, l => l
  | o :: os, failed, s, l => by
    have keep (f : Bool) : (resolveByPresence h presence os f (resolveNotDone h o s)).custodyLawful :=
      custodyLawful_resolveByPresence h presence os f (custodyLawful_of_custody (custody_resolveNotDone _ _ _) l)
    have done : (resolveByPresence h presence os false (resolveDone h o s)).custodyLawful :=
      custodyLawful_resolveByPresence h presence os false (custodyLawful_resolveDone h o l)
    unfold resolveByPresence
    split
    · split
      · exact done
      · exact keep true
    · split
      · exact done
      · exact keep true
    · exact keep failed

/-- R131 steps 2 and 3 keep the custody law. -/
theorem custodyLawful_reconcile (h : Head) (presence : Byte) (l : s.custodyLawful) :
    (reconcile h presence s).custodyLawful :=
  custodyLawful_compareNozzles h presence (custodyLawful_resolveByPresence h presence _ _ l)

theorem custodyLawful_recoverReady (h : Head) (presence : Byte) (p : Pos) (l : s.custodyLawful) :
    (recoverReady h presence p s).custodyLawful := by
  have e := custodyLawful_reconcile h presence (custodyLawful_of_custody (custody_cancelTimer (.recover h) s) l)
  have stood : (standAt h p ((setKnown h p (reconcile h presence (cancelTimer (.recover h) s))).modHead h fun x =>
      { x with state := .ready })).custody = (reconcile h presence (cancelTimer (.recover h) s)).custody := by
    rw [custody_standAt]
    exact (custody_modHead_rest _ _ (fun _ => by rfl) _).trans (custody_setKnown _ _ _)
  unfold recoverReady
  dsimp only
  refine custodyLawful_of_custody ((custody_grantPoint _ _).trans (custody_opportunity _ _)) ?_
  split
  · refine custodyLawful_of_custody (custody_complete _ _ _ _) ?_
    exact custodyLawful_of_custody ((custody_modHead_rest _ _ (fun _ => by rfl) _).trans stood) e
  · exact custodyLawful_of_custody stood e

theorem custodyLawful_restartReady (h : Head) (presence : Byte) (p : Pos) (l : s.custodyLawful) :
    (restartReady h presence p s).custodyLawful := by
  unfold restartReady
  dsimp only
  refine custodyLawful_of_custody (t := _)
    (by simp only [custody_grantPoint, custody_opportunity, custody_standAt, custody_setKnown])
    (custodyLawful_reconcile h presence (s := makeUnknown h (cancelTimer (.order h) (raiseEvent .headProtocol h.num s)))
      (custodyLawful_of_custody (by simp) l))

/-- R123 to R133: a HEAD STATUS keeps the custody law. -/
theorem custodyLawful_takeHeadStatus (h : Head) (payload : List Byte) (l : s.custodyLawful) :
    (takeHeadStatus h payload s).custodyLawful := by
  have raised (k : EventKind) (d : Nat) : (raiseEvent k d s).custodyLawful :=
    custodyLawful_of_custody (custody_raiseEvent _ _ _) l
  have ready (x : HeadOutcome) (o : Order) : (takeOutcome h x o s).custodyLawful := by
    unfold takeOutcome
    split
    · exact custodyLawful_resolveDone h o l
    · split
      · exact custodyLawful_of_custody (custody_returnForRetry _ _ _) l
      · exact custodyLawful_of_custody (custody_returnForRetry _ _ _) (custodyLawful_finalMiss h o l)
    · split
      · exact custodyLawful_of_custody (custody_returnForRetry _ _ _) l
      · exact custodyLawful_of_custody ((custody_stopStuck _ _).trans (custody_finalStuck _ _ _)) l
    · exact l
  have late (x : HeadOutcome) (o : Order) : (takeLate h x o s).custodyLawful := by
    unfold takeLate
    split
    · exact custodyLawful_resolveDone h o l
    · refine custodyLawful_of_custody (custody_failGranted _ _) ?_
      split
      · exact custodyLawful_of_custody (custody_resolveNotDone _ _ _) l
      · exact custodyLawful_finalMiss h o l
    · refine custodyLawful_of_custody (custody_failGranted _ _) ?_
      split
      · exact custodyLawful_of_custody (custody_resolveNotDone _ _ _) l
      · exact custodyLawful_of_custody (custody_finalStuck _ _ _) l
    · exact l
  unfold takeHeadStatus
  dsimp only
  split
  · split
    · exact raised _ _
    · split
      · exact custodyLawful_restartReady _ _ _ l
      · exact custodyLawful_recoverReady _ _ _ l
    · split
      · exact custodyLawful_of_custody (custody_stopJam _ _ _) l
      · exact custodyLawful_of_custody (custody_setKnown _ _ _) l
    · unfold orderStatus
      split
      · split
        · split
          · exact ready _ _
          · exact late _ _
        · exact raised _ _
      · exact raised _ _
  · exact raised _ _

/-- R63, R65: the attempt a result appends keeps the custody law. -/
theorem custodyLawful_recordAttempt (i : Fin 64) (code : Byte) (time : Nat) (l : s.custodyLawful) :
    (recordAttempt i code time s).custodyLawful := by
  have e : (s.modSocket i fun x => { x with last := some (code, time) }).custodyLawful :=
    custodyLawful_of_custody (custody_modSocket _ _ (fun _ => by rfl) _) l
  unfold recordAttempt
  dsimp only
  split
  · next k _ =>
    have back (j : Fin 96) : ((s.modSocket i fun x => { x with last := some (code, time) }).modPart k fun r =>
        { r with attempts := r.attempts ++ [(i, code)] }).parts[j] =
        if k = j then (s.parts[k]).map (fun r => { r with attempts := r.attempts ++ [(i, code)] }) else s.parts[j] :=
      State.part_modPart _ _ _ _
    have same (j : Fin 96) (q : PartRecord) (hj : ((s.modSocket i fun x => { x with last := some (code, time) }).modPart k
        fun r => { r with attempts := r.attempts ++ [(i, code)] }).parts[j] = some q) :
        ∃ q', s.parts[j] = some q' ∧ q'.tag = q.tag := by
      rw [back] at hj
      split at hj
      · next d =>
        subst d
        cases hk : s.parts[k] with
        | none => rw [hk] at hj; cases hj
        | some x => rw [hk] at hj; cases hj; exact ⟨x, rfl, rfl⟩
      · exact ⟨q, hj, rfl⟩
    refine ⟨fun p j hp => ?_, fun j m q r hj hm hqr => ?_⟩
    · obtain ⟨r, hr, hpl⟩ := e.1 p j (by simpa using hp)
      have hr' : s.parts[j] = some r := hr
      rw [back]
      split
      · next d =>
        subst d
        exact ⟨{ r with attempts := r.attempts ++ [(i, code)] }, by rw [hr']; rfl, hpl⟩
      · exact ⟨r, hr', hpl⟩
    · obtain ⟨q', hq', tq⟩ := same j q hj
      obtain ⟨r', hr', tr⟩ := same m r hm
      exact l.2 j m q' r' hq' hr' (by rw [tq, tr, hqr])
  · exact e

theorem custodyLawful_decideResult (i : Fin 64) (code : Byte) (time : Nat) (l : s.custodyLawful) :
    (decideResult i code time s).custodyLawful :=
  custodyLawful_of_custody (custody_setDisposition _ _ _)
    (custodyLawful_recordAttempt _ _ _ (custodyLawful_of_custody (custody_cancelTimer _ _) l))

/-- R27: a SHUTTLE REPORT keeps the custody law, for it registers no tag that is in use. -/
theorem custodyLawful_takeShuttleReport (payload : List Byte) (l : s.custodyLawful) :
    (takeShuttleReport payload s).custodyLawful := by
  have raised (k : EventKind) (d : Nat) : (raiseEvent k d s).custodyLawful :=
    custodyLawful_of_custody (custody_raiseEvent _ _ _) l
  have taken (i : Fin 8) (tag : Nat) {t : State} (l : t.custodyLawful) : (takeIn i tag t).custodyLawful := by
    unfold takeIn
    split
    · exact custodyLawful_of_custody (custody_raiseEvent _ _ _) l
    · next new => exact custodyLawful_register i tag (by simpa using new) l
  have emptied (i : Fin 8) : (emptySlot i s).custodyLawful :=
    custodyLawful_of_custody ((custody_opportunityBoth _).trans (custody_modInput _ _ (fun _ => by rfl) _)) l
  unfold takeShuttleReport
  dsimp only
  split
  · exact raised _ _
  · split
    · unfold reportHeld
      split
      · split
        · exact l
        · exact raised _ _
      · split
        · exact l
        · exact raised _ _
    · unfold reportVacant
      split
      · split
        · exact l
        · exact taken _ _ l
      · split
        · exact emptied _
        · split
          · exact l
          · exact taken _ _ (emptied _)

end Sys2Proof.Machine
end

