-- ==== Sys2Proof/Laws/Orders.lean ====
section
/-! SUPPORT. What the steps of the socket and disposition units do to the orders: they cancel pending orders, and change
nothing else that the order unit and the zone arbiter go by. One lemma for each. -/

namespace Sys2Proof.Machine

/-- Between two states a head keeps everything but its nozzles, its mark of an opportunity and some of its pending orders. -/
structure HeadDrops (x y : HeadRecord) : Prop where
  queue : y.queue.Sublist x.queue
  granted : (x.queue.map Order.tag).Nodup → y.queue.filter Order.isGranted = x.queue.filter Order.isGranted
  rest : y = { x with queue := y.queue, nozzles := y.nozzles, passDue := y.passDue }

/-- Between two states both heads lose pending orders at most, and the lot state, the park positions and the heads' timers
are as they were. -/
structure Drops (s t : State) : Prop where
  head : ∀ h, HeadDrops (s.head h) (t.head h)
  lotState : t.lotState = s.lotState
  deck : t.deck = s.deck
  timer : ∀ h, t.timer (.order h) = s.timer (.order h) ∧ t.timer (.yield h) = s.timer (.yield h) ∧
    t.timer (.recover h) = s.timer (.recover h)

variable {s t u : State}

theorem HeadDrops.refl (x : HeadRecord) : HeadDrops x x := ⟨List.Sublist.refl _, fun _ => rfl, rfl⟩

theorem HeadDrops.trans {x y z : HeadRecord} (a : HeadDrops x y) (b : HeadDrops y z) : HeadDrops x z := by
  refine ⟨b.queue.trans a.queue, fun n => ?_, ?_⟩
  · exact (b.granted (n.sublist (a.queue.map _))).trans (a.granted n)
  · rw [b.rest, a.rest]

/-- A head whose queue is as it was. -/
theorem HeadDrops.same {x y : HeadRecord} (q : y.queue = x.queue)
    (r : y = { x with queue := y.queue, nozzles := y.nozzles, passDue := y.passDue }) : HeadDrops x y :=
  ⟨by rw [q], fun _ => by rw [q], r⟩

theorem Drops.refl (s : State) : Drops s s := ⟨fun _ => .refl _, rfl, rfl, fun _ => ⟨rfl, rfl, rfl⟩⟩

theorem Drops.trans (a : Drops s t) (b : Drops t u) : Drops s u :=
  ⟨fun h => (a.head h).trans (b.head h), b.lotState.trans a.lotState, b.deck.trans a.deck, fun h =>
    ⟨(b.timer h).1.trans (a.timer h).1, (b.timer h).2.1.trans (a.timer h).2.1, (b.timer h).2.2.trans (a.timer h).2.2⟩⟩

/-- A change outside the heads, the lot state, the deck and the heads' timers. -/
theorem Drops.of_eq (h : t.heads = s.heads) (l : t.lotState = s.lotState) (d : t.deck = s.deck)
    (m : t.timers = s.timers) : Drops s t := by
  refine ⟨fun k => ?_, l, d, fun k => ?_⟩
  · show HeadDrops (s.heads.get k) (t.heads.get k)
    rw [h]
    exact .refl _
  · simp only [State.timer, m, and_self]

theorem Drops.of_offLink (h : t.offLink = s.offLink) : Drops s t :=
  .of_eq (offLink_heads h) (offLink_lotState h) (offLink_deck h) (offLink_timers h)

/-- A change of one head that keeps its queue. -/
theorem drops_modHead (h : Head) (f : HeadRecord → HeadRecord) (s : State) (hf : ∀ x, HeadDrops x (f x)) :
    Drops s (s.modHead h f) := by
  refine ⟨fun k => ?_, rfl, rfl, fun _ => ⟨rfl, rfl, rfl⟩⟩
  simp only [State.modHead, State.setHead, State.head, PerHead.get_set]
  split
  · next e => subst e; exact hf _
  · exact .refl _

theorem drops_foldl {α : Type} {f : State → α → State} (hf : ∀ s a, Drops s (f s a)) :
    ∀ (l : List α) (s : State), Drops s (l.foldl f s)
  | [], s => .refl s
  | a :: l, s => (hf s a).trans (drops_foldl hf l (f s a))

/-! ## The shared operations -/

theorem drops_raiseEvent (k : EventKind) (d : Nat) (s : State) : Drops s (raiseEvent k d s) :=
  .of_offLink (offLink_raiseEvent _ _ _)

theorem drops_produce (p : Port) (d k : Byte) (pl : List Byte) (s : State) : Drops s (produce p d k pl s) :=
  .of_offLink (offLink_produce _ _ _ _ _)

theorem drops_complete (code : Byte) (x : Subject) (f : FinalCode) (s : State) : Drops s (complete code x f s) := by
  unfold complete
  split
  · exact .refl s
  · next c _ =>
    have e : Drops s { s with completions := s.completions.filter fun d => !(d.ticket == c.ticket) } :=
      .of_eq rfl rfl rfl rfl
    have sent (s : State) : Drops s (produceCompletion c f s) := .of_offLink (offLink_produceCompletion c f s)
    refine e.trans ((sent _).trans ?_)
    unfold slotFreed
    split
    · exact Drops.trans (t := { produceCompletion c f _ with slotWanted := false }) (.of_eq rfl rfl rfl rfl)
        (drops_raiseEvent _ _ _)
    · exact .refl _

theorem drops_modSocket (i : Fin 64) (f : Socket → Socket) (s : State) : Drops s (s.modSocket i f) :=
  .of_eq rfl rfl rfl rfl

theorem drops_modPart (k : Fin 96) (f : PartRecord → PartRecord) (s : State) : Drops s (s.modPart k f) :=
  .of_eq rfl rfl rfl rfl

theorem drops_modTray (b : Fin 16) (y : TrayId) (f : TrayRecord → TrayRecord) (s : State) : Drops s (s.modTray b y f) :=
  .of_eq rfl rfl rfl rfl

theorem drops_modCounters (f : Counters → Counters) (s : State) : Drops s (s.modCounters f) := .of_eq rfl rfl rfl rfl

theorem drops_grantPoint (h : Head) (s : State) : Drops s (grantPoint h s) := .of_eq rfl rfl rfl rfl

theorem drops_opportunity (h : Head) (s : State) : Drops s (opportunity h s) := by
  unfold opportunity
  split
  · exact drops_modHead _ _ _ fun _ => .same rfl rfl
  · exact .refl s

theorem drops_opportunityBoth (s : State) : Drops s (opportunityBoth s) :=
  (drops_opportunity _ _).trans (drops_opportunity _ _)

theorem drops_opportunityServing (i : Fin 64) (s : State) : Drops s (opportunityServing i s) := by
  have step (c : Bool) (h : Head) (s : State) : Drops s (if c then opportunity h s else s) := by
    split
    · exact drops_opportunity _ _
    · exact .refl s
  exact (step _ _ _).trans (step _ _ _)

theorem drops_dropPlan (p : Nat) (s : State) : Drops s (dropPlan p s) := by
  unfold dropPlan
  refine Drops.trans ?_ (drops_opportunityBoth _)
  refine ⟨fun h => ?_, rfl, rfl, fun _ => ⟨rfl, rfl, rfl⟩⟩
  cases h <;> exact .same rfl rfl

theorem drops_endPlan (h : Head) (p : Option Nat) (s : State) : Drops s (endPlan h p s) := by
  unfold endPlan
  split
  · exact .refl s
  · split
    · exact .refl s
    · exact drops_dropPlan _ _

theorem drops_holeOf (o : Order) (s : State) : Drops s (holeOf o s) := by
  unfold holeOf
  split
  · unfold holePocket fillTray
    dsimp only
    split
    · exact ((drops_modTray _ _ _ s).trans (drops_modTray _ _ _ _)).trans (drops_raiseEvent _ _ _)
    · exact drops_modTray _ _ _ s
  · exact .refl s

theorem drops_cancelPoint (h : Head) (o : Order) (s : State) : Drops s (cancelPoint h o s) := by
  unfold cancelPoint
  split
  · exact drops_grantPoint _ _
  · exact .refl s

/-! ## Cancelling pending orders (R127) -/

theorem isGranted_of_isPending {o : Order} (h : o.isPending = true) : o.isGranted = false := by
  cases e : o.state <;> simp_all [Order.isPending, Order.isGranted]

/-- A pending order that leaves takes no granted order with it. -/
theorem drops_leaveQueue (h : Head) {o : Order} (ho : o ∈ (s.head h).queue) (hp : o.isPending = true)
    (d : Drops s t) : Drops s (leaveQueue h o.tag t) := by
  refine ⟨fun k => ?_, d.lotState, d.deck, d.timer⟩
  show HeadDrops _ ((t.heads.set h { t.head h with
    queue := (t.head h).queue.filter fun q => !(q.tag == o.tag) }).get k)
  rw [PerHead.get_set]
  split
  · next e =>
    subst e
    have dh := d.head h
    refine ⟨List.filter_sublist.trans dh.queue, fun n => ?_, ?_⟩
    · rw [← dh.granted n, List.filter_filter]
      refine List.filter_congr fun q hq => ?_
      cases g : q.isGranted with
      | false => simp
      | true =>
        have ne : q.tag ≠ o.tag := by
          intro e
          have := List.inj_on_of_nodup_map n (dh.queue.subset hq) ho e
          rw [this, isGranted_of_isPending hp] at g
          cases g
        simp [ne]
    · dsimp only
      rw [dh.rest]
  · exact d.head k

theorem drops_cancelPending (h : Head) {o : Order} (ho : o ∈ (s.head h).queue) (hp : o.isPending = true)
    (d : Drops s t) : Drops s (cancelPending h o t) :=
  (((drops_leaveQueue h ho hp (d.trans (drops_cancelPoint h o t))).trans (drops_holeOf _ _)).trans
    (drops_endPlan _ _ _)).trans (drops_opportunity _ _)

/-- Cancelling pending orders drops pending orders. -/
theorem drops_cancelWhere (h : Head) (test : Order → Bool) (s : State) : Drops s (cancelWhere h test s) := by
  have step : ∀ (l : List Order) {t : State}, (∀ o ∈ l, o ∈ (s.head h).queue ∧ o.isPending = true) → Drops s t →
      Drops s (l.foldl (fun s o => cancelPending h o s) t) := by
    intro l
    induction l with
    | nil => exact fun _ d => d
    | cons o l ih =>
      exact fun m d => ih (fun q hq => m q (List.mem_cons_of_mem _ hq))
        (drops_cancelPending h (m o (List.mem_cons_self)).1 (m o (List.mem_cons_self)).2 d)
  refine step _ (fun o ho => ?_) (.refl s)
  have := List.mem_filter.mp ho
  exact ⟨this.1, (Bool.and_eq_true _ _ ▸ this.2).1⟩

theorem drops_cancelPlacesInto (i : Fin 64) (s : State) : Drops s (cancelPlacesInto i s) :=
  (drops_cancelWhere _ _ _).trans (drops_cancelWhere _ _ _)

theorem drops_cancelCarrying (k : Fin 96) (p : Option Nat) (s : State) : Drops s (cancelCarrying k p s) := by
  unfold cancelCarrying
  split
  · exact .refl s
  · exact (drops_cancelWhere _ _ _).trans (drops_cancelWhere _ _ _)

theorem drops_convert (k : Fin 96) (s : State) : Drops s (convert k s) := by
  unfold convert
  split
  · split
    · dsimp only
      have carried (k : Fin 96) (s : State) : Drops s (carriedOpportunity k s) := by
        unfold carriedOpportunity
        split
        · split
          · exact .refl s
          · exact drops_opportunity _ _
        · exact .refl s
      refine Drops.trans ?_ (carried _ _)
      refine Drops.trans ?_ (drops_cancelCarrying _ _ _)
      split
      · exact (drops_modPart _ _ s).trans (drops_raiseEvent _ _ _)
      · exact drops_modPart _ _ s
    · exact .refl s
  · exact .refl s

theorem drops_reexamine (s : State) : Drops s (reexamine s) := by
  refine drops_foldl (fun s k => ?_) _ _
  split
  · split
    · exact drops_convert _ _
    · exact .refl s
  · exact .refl s

theorem drops_convertAll (s : State) : Drops s (convertAll s) := drops_foldl (fun s k => drops_convert k s) _ _

/-! ## The socket unit -/

theorem drops_setTimer (id : TimerId) (x : Timer) (s : State)
    (n : ∀ h, id ≠ .order h ∧ id ≠ .yield h ∧ id ≠ .recover h) : Drops s (s.setTimer id x) := by
  refine ⟨fun h => ?_, ?_, ?_, fun h => ?_⟩
  · cases id <;> exact .refl _
  · cases id <;> rfl
  · cases id <;> rfl
  · simp only [State.timer_setTimer, if_neg (n h).1, if_neg (n h).2.1, if_neg (n h).2.2, and_self]

theorem drops_fillTimer (g : Fin 16) (x : Timer) (s : State) : Drops s (s.setTimer (.fill g) x) :=
  drops_setTimer _ _ _ fun _ => by simp

theorem drops_startGroup (g : Fin 16) (s : State) : Drops s (startGroup g s) := by
  have begun (s : State) (i : Fin 64) : Drops s (beginTest s i) :=
    ((drops_modSocket _ _ s).trans (drops_modCounters _ _)).trans (drops_setTimer (.watchdog i) _ _ fun _ => by simp)
  exact (((drops_produce _ _ _ _ s).trans (drops_foldl begun _ _)).trans (drops_fillTimer g .clear _)).trans
    (.of_eq rfl rfl rfl rfl)

theorem drops_groupUpdate (g : Fin 16) (s : State) : Drops s (groupUpdate g s) := by
  unfold groupUpdate
  split
  · exact drops_startGroup _ _
  · unfold fillUpdate
    split
    · split
      · exact drops_fillTimer _ _ _
      · exact .refl s
    · exact drops_fillTimer _ _ _

theorem drops_updateGroupOf (i : Fin 64) (s : State) : Drops s (updateGroupOf i s) := by
  unfold updateGroupOf
  split
  · exact drops_groupUpdate _ _
  · exact .refl s

theorem drops_updateGroups (s : State) : Drops s (updateGroups s) := drops_foldl (fun s g => drops_groupUpdate g s) _ _

theorem drops_afterOff (i : Fin 64) (s : State) : Drops s (afterOff i s) :=
  ((drops_opportunityServing _ _).trans (drops_reexamine _)).trans (drops_updateGroupOf _ _)

theorem drops_goOff (i : Fin 64) (s : State) : Drops s (goOff i s) := by
  unfold goOff
  dsimp only
  refine Drops.trans ?_ (drops_afterOff _ _)
  have e := (drops_modSocket i (fun x => { x with state := .off, pendingDisable := none }) s).trans
    (drops_complete codeSocketDisable (.socket i) .ok _)
  split
  · exact e.trans (drops_raiseEvent _ _ _)
  · exact e

theorem drops_enterEmpty (i : Fin 64) (s : State) : Drops s (enterEmpty i s) := by
  have e := (drops_modSocket i (fun x => { x with state := .empty }) s).trans (drops_opportunityServing i _)
  unfold enterEmpty
  dsimp only
  split
  · exact e.trans (drops_goOff _ _)
  · exact e

theorem drops_enterTested (i : Fin 64) (s : State) : Drops s (enterTested i s) :=
  (drops_modSocket _ _ s).trans (drops_opportunityServing i _)

theorem drops_setPendingDisable (i : Fin 64) (c : DisableCause) (s : State) : Drops s (setPendingDisable i c s) := by
  have e := (((drops_modSocket i (fun x => { x with pendingDisable := some c }) s).trans
    (drops_cancelPlacesInto i _)).trans (drops_reexamine _)).trans (drops_updateGroupOf i _)
  unfold setPendingDisable
  dsimp only
  split
  · exact e.trans (drops_goOff _ _)
  · exact e

/-- Noting a fault drops pending orders at most. -/
theorem drops_noteFault (i : Fin 64) (k : FaultKind) (s : State) : Drops s (noteFault i k s) := by
  refine (drops_modSocket i (fun x => { x with faults := x.faults.add k, faultCount := faultSucc x.faultCount }) s).trans ?_
  unfold noteFault checkThreshold
  dsimp only
  split
  · exact drops_setPendingDisable _ _ _
  · exact .refl _

theorem drops_becomeReady (i : Fin 64) (s : State) : Drops s (becomeReady i s) :=
  (drops_modSocket _ _ s).trans (drops_updateGroupOf _ _)

theorem drops_decideResult (i : Fin 64) (code : Byte) (time : Nat) (s : State) : Drops s (decideResult i code time s) := by
  have attempt (s : State) : Drops s (recordAttempt i code time s) := by
    unfold recordAttempt
    dsimp only
    split
    · exact (drops_modSocket _ _ s).trans (drops_modPart _ _ _)
    · exact drops_modSocket _ _ s
  have decided (s : State) : Drops s (setDisposition i code s) := by
    unfold setDisposition
    split
    · exact .refl s
    · next k r _ =>
      have e := drops_modPart k (fun x => { x with disposition := decideDisposition s r code }) s
      dsimp only
      split <;> split
      · exact (e.trans (drops_modCounters _ _)).trans (drops_raiseEvent _ _ _)
      · exact e.trans (drops_modCounters _ _)
      · exact e.trans (drops_raiseEvent _ _ _)
      · exact e
  exact ((drops_setTimer (.watchdog i) .clear s fun _ => by simp).trans (attempt _)).trans (decided _)

/-- R63: taking a result drops pending orders at most. -/
theorem drops_takeResult (i : Fin 64) (code : Byte) (time : Nat) (s : State) : Drops s (takeResult i code time s) := by
  have finished (s : State) : Drops s (finishTest i s) := (drops_enterTested _ _).trans (drops_updateGroupOf _ _)
  have e := drops_decideResult i code time s
  unfold takeResult
  dsimp only
  refine Drops.trans ?_ (finished _)
  split
  · exact e.trans (drops_noteFault _ _ _)
  · exact e.trans (drops_modSocket _ _ _)

/-- R65: taking a timeout drops pending orders at most. -/
theorem drops_takeTimeout (i : Fin 64) (s : State) : Drops s (takeTimeout i s) := by
  have finished (s : State) : Drops s (finishTest i s) := (drops_enterTested _ _).trans (drops_updateGroupOf _ _)
  have e := (drops_decideResult i s.lot.timeoutCode s.lot.testLimit s).trans (drops_noteFault i .timeout _)
  unfold takeTimeout
  dsimp only
  refine Drops.trans ?_ (drops_modCounters _ _)
  refine Drops.trans ?_ (drops_raiseEvent _ _ _)
  refine Drops.trans ?_ (finished _)
  split
  · exact e.trans (drops_noteFault _ _ _)
  · exact e

/-! ## The laws of the queues and of the rail through these steps -/

/-- R114, R115: dropping pending orders keeps the law of a queue. -/
theorem HeadDrops.queueLawful {x y : HeadRecord} (d : HeadDrops x y) (l : x.queueLawful) : y.queueLawful := by
  obtain ⟨l1, l2, l3, l4, l5, l6, l7, l8⟩ := l
  have tag : y.tagCounter = x.tagCounter := by rw [d.rest]
  have st : y.state = x.state := by rw [d.rest]
  refine ⟨d.queue.length_le.trans l1, ((d.queue.filter _).length_le).trans l2, ((d.queue.filter _).length_le).trans l3,
    l4.sublist (d.queue.map _), fun o ho => l5 o (d.queue.subset ho), by rw [tag]; exact l6, fun i o hi ha => ?_,
    fun hs o ho => l8 (st ▸ hs) o (d.queue.subset ho)⟩
  obtain ⟨f, hf⟩ := List.sublist_iff_exists_orderEmbedding_getElem?_eq.mp d.queue
  have lt : i ≤ f i := f.strictMono.le_apply
  have hx : x.queue[f i]? = some o := by rw [← hf]; exact hi
  obtain ⟨z, g⟩ := l7 _ o hx ha
  exact ⟨by omega, g⟩

theorem Drops.queuesLawful (d : Drops s t) (l : s.queuesLawful) : t.queuesLawful :=
  fun h => (d.head h).queueLawful (l h)

/-- R136 to R138: dropping pending orders keeps the laws of the rail. -/
theorem Drops.railLawful (d : Drops s t) (l : s.railLawful) : t.railLawful := by
  obtain ⟨clear, holds, parks⟩ := l
  have hold (h : Head) : (t.head h).holdings = (s.head h).holdings := by rw [(d.head h).rest]
  refine ⟨?_, fun h => ?_, ?_⟩
  · unfold State.railClear at clear ⊢
    have w := hold .west
    have e := hold .east
    simp only [State.head, PerHead.get] at w e
    rw [w, e]
    exact clear
  · obtain ⟨r, n, m⟩ := holds h
    have st : (t.head h).state = (s.head h).state := by rw [(d.head h).rest]
    have base : (t.head h).base = (s.head h).base := by rw [(d.head h).rest]
    have sub := (d.head h).queue.subset
    refine ⟨fun hr => ?_, fun hr => ?_, fun hr => ?_⟩
    · obtain ⟨b, u, o⟩ := r (st ▸ hr)
      rw [base, hold h]
      exact ⟨b, fun q hq => u q (sub hq), fun q hq => o q (sub hq)⟩
    · obtain ⟨b, o, m⟩ := n (st ▸ hr)
      rw [base, (d.timer h).1]
      exact ⟨b, fun q hq => o q (sub hq), m⟩
    · rw [(d.timer h).2.2]
      exact m (st ▸ hr)
  · unfold State.parksLawful at parks ⊢
    rw [d.deck, d.lotState]
    exact parks

end Sys2Proof.Machine
end

