-- ==== Sys2Proof/Tests/Slice0.lean ====
section
/-! SUPPORT. Tests: what WellFormed refuses, values worked out from the manual, and for every statement with hypotheses a
state and operands that meet them. -/

namespace Sys2Proof.Tests

open Sys2Proof.Machine

-- Each of these theorems is checked before the next begins, so that few kernel threads live at once.
set_option Elab.async false

/-! ## States and requests the tests share -/

/-- A request from the cell computer at address 5, with correlator 7. -/
def ask (fields : List Byte) : Request := ⟨5, 7, 0, fields⟩

/-- The same request with its notify flag set (R182). -/
def askNotify (fields : List Byte) : Request := ⟨5, 7, 1, fields⟩

/-- A lot state, with NODE written: cell computer 5, site interface 1, West 2, East 3, shuttle 4. -/
def inLot (l : LotState) : State :=
  { State.reset with lotState := l, node := #v[some 5, some 1, some 2, some 3, some 4] }

/-- A state whose upstream port is sending, so that own frames wait in its queue. -/
def busyUp (s : State) : State :=
  { s with upstream := { s.upstream with sending := some ⟨5, 0, 0x54, 0, 0, []⟩ } }

/-- A LOT table: no soak, fill wait 100, test limit 1,000, timeout code 9, fault threshold 1. -/
def lotParameters : LotTable :=
  { soak := 0, fillWait := 100, testLimit := 1000, timeoutCode := 9, retestLimit := 2, groupAvoidance := false,
    holdBin := 15, faultThreshold := 1, faultMode := .sticky, yieldDelay := 50 }

/-- Socket 63 in a state, holding the device of record 0, with geometry in group 15. -/
def withDevice (st : SocketState) (s : State) : State :=
  { (s.modSocket 63 fun x => { x with state := st, record := some 0 }).setPart 0
      (some ⟨4100233, .socket 63, [], .none, none⟩) with
    siteGeometry := s.siteGeometry.set 63 (some (some ⟨500000, 100000, 15, .either⟩)) }

/-- A READY West head in zone 3 and East head in zone 12, with their controllers' motion and park positions. -/
def headsReady (s : State) : State :=
  { s with
    heads :=
      ⟨{ HeadRecord.initial .west with state := .ready, known := some ⟨300000, 0⟩, base := some 3, holdings := ⟨3, 3⟩ },
        { HeadRecord.initial .east with state := .ready, known := some ⟨1200000, 0⟩, base := some 12, holdings := ⟨12, 12⟩ }⟩
    motion := #v[some ⟨1000, 500, 100, 200, 300⟩, some ⟨1000, 500, 100, 200, 300⟩]
    deck := (s.deck.set 16 (some ⟨50000, 0⟩)).set 17 (some ⟨1550000, 0⟩) }

/-- Four tickets taken, the drain ticket 3 among them. -/
def fourTickets (s : State) : State :=
  { s with completions := [⟨3, codeLotDrain, .lot⟩, ⟨4, codeSocketDisable, .socket 21⟩, ⟨5, codeHeadRecover, .head .east⟩,
      ⟨6, codeSocketDisable, .socket 30⟩], ticketCounter := 6 }

/-- An OUTSTANDING order with what its grant resolved. -/
def granted (tag : Nat) (a : Action) (n : Fin 4) (loc : Location) (retry : Nat) (x : Nat) : Order :=
  { tag := tag, action := a, nozzle := some n, location := some loc, part := some 0, plan := some 0, origin := .planner,
    resolved := some ⟨⟨x, 0⟩, .socket, ⟨3, 5⟩, 400⟩, retry := retry, state := .outstanding }

/-- The West head with orders in its queue. -/
def westOrders (q : List Order) (s : State) : State := s.modHead .west fun x => { x with queue := q }

/-- What the machine answers, when it is a next state. -/
def after (c : Instr) (s : State) : State :=
  match exec c s with
  | .next t => t
  | _ => s

/-! ## WellFormed refuses -/

theorem test_siteReport_of_another_kind_is_ill_formed :
    (Instr.siteReport .downstream [0, 1, 0x32]).wellFormed = false := by decide

theorem test_headStatus_of_another_kind_is_ill_formed :
    (Instr.headStatus .downstream [0, 1, 0x22]).wellFormed = false := by decide

theorem test_shuttleReport_without_a_kind_is_ill_formed :
    (Instr.shuttleReport .downstream [0, 1]).wellFormed = false := by decide

theorem test_request_from_the_broadcast_address_is_ill_formed :
    (Instr.lotStart ⟨31, 0, 0, []⟩).wellFormed = false := by decide

theorem test_request_too_long_for_a_frame_is_ill_formed :
    (Instr.tableWrite ⟨5, 0, 0, List.replicate 239 0⟩).wellFormed = false := by decide +kernel

/-! ## Frames (R2, R178 to R180) -/

/-- R180 gives the check value of the ASCII digits 1 to 9. -/
theorem test_crc32c_check_value :
    (crc32c [0x31, 0x32, 0x33, 0x34, 0x35, 0x36, 0x37, 0x38, 0x39]).toNat = 0xE3069283 := by decide +kernel

/-- R178: least significant byte first. -/
theorem test_fields_are_little_endian : leBytes 4 4100233 = [0x89, 0x90, 0x3E, 0] ∧ fieldAt [9, 1, 2] 1 2 = 513 := by
  decide +kernel

/-- R2: a payload of 241 bytes is too long, and a frame one byte short is no frame. -/
theorem test_frames_of_bad_length_are_discarded :
    Frame.parse (⟨5, 1, 0x22, 0, 0, List.replicate 241 0⟩ : Frame).wire = none ∧
      Frame.parse ((⟨5, 1, 0x22, 0, 0, [1, 2]⟩ : Frame).wire.dropLast) = none := by decide +kernel

/-! ## Witnesses: frames, forwarding, ports, events -/

theorem witness_FrameRoundTrip :
    Frame.parse (⟨5, 1, 0x22, 0, 0, [1, 2, 3, 4, 5, 6, 255]⟩ : Frame).wire =
      some ⟨5, 1, 0x22, 0, 0, [1, 2, 3, 4, 5, 6, 255]⟩ := by decide +kernel

/-- The ends of the ranges of R40 to R43, R77, R85, R147 and R167, and an entry of NODE and SERVICE_LIST, written and not. -/
theorem witness_TableEntriesRoundTrip :
    readSite (siteBytes (some (some ⟨1599999, 599999, 15, .either⟩))) = some (some ⟨1599999, 599999, 15, .either⟩) ∧
    readDeck (posBytes (some ⟨1599999, 599999⟩)) = some ⟨1599999, 599999⟩ ∧
    readDeck (posBytes (some ⟨1600000, 0⟩)) = none ∧
    readOffset (offsetBytes (some ⟨-40000, 40000⟩)) = some ⟨-40000, 40000⟩ ∧
    readMotion (motionBytes (some ⟨50, 5000, 2000, 2000, 2000⟩)) = some ⟨50, 5000, 2000, 2000, 2000⟩ ∧
    readLot (lotBytes (some ⟨600000, 60000, 100, 255, 2, true, 15, 15, .perPart, 10000⟩)) =
      some ⟨600000, 60000, 100, 255, 2, true, 15, 15, .perPart, 10000⟩ ∧
    readBinEntry (binEntryBytes (some ⟨.hold, 15, 0, true⟩)) = some (some ⟨.hold, 15, 0, true⟩) ∧
    readPolicy 3 (policyBytes (some ⟨.divert, 4⟩)) = some ⟨.divert, 4⟩ ∧
    readPolicy 4 (policyBytes (some ⟨.divert, 4⟩)) = none ∧
    readForward (forwardBytes (some (some ⟨some 30, some 31, none, .both, .drop⟩))) =
      some (some ⟨some 30, some 31, none, .both, .drop⟩) ∧
    readTimeBase (timeBaseBytes ⟨65535, 1⟩) = some ⟨65535, 1⟩ ∧
    (inLot .run).node[(4 : Fin 5)] = some 4 ∧ State.reset.node[(4 : Fin 5)] = none ∧
    readEntry .binPolicy 15 { State.reset with binPolicy := State.reset.binPolicy.set 15 (some ⟨.divert, 4⟩) } = [1, 1, 4] ∧
    readEntry .binPolicy 14 State.reset = [0, 255, 255] ∧
    ({ State.reset with serviceList := [63] } : State).serviceList[0]? = some 63 ∧
    ({ State.reset with serviceList := [63] } : State).serviceList.length ≤ 1 := by decide +kernel

theorem witness_RequestFramesReachTheirCommand :
    (inLot .run).hears (ask (List.replicate 238 0)) = true ∧ (inLot .run).ownAddress = some 0 ∧
    ∀ x ∈ requestCommands (ask [1]), x.1 ≠ 0xFF := by
  refine ⟨by decide +kernel, by decide +kernel, ?_⟩
  decide

/-- A SITE REPORT for socket `i` from the site interface node. -/
def report (destination : Byte) (i : Byte) : Frame := ⟨destination, 1, kindSiteReport, 0, 9, [i, 9, 100, 0, 0, 0, 255]⟩

theorem witness_BadFramesDiscarded :
    (inLot .run).resetLow = false ∧ dueTimers (inLot .run) = [] ∧ Frame.parse [] = none ∧
    Frame.parse (⟨5, 31, 0x22, 0, 0, []⟩ : Frame).wire = some ⟨5, 31, 0x22, 0, 0, []⟩ ∧
    (inLot .run).takes (⟨0, 5, kindMgmtRequest, 0, 0, [1]⟩ : Frame).wire ⟨0, 5, kindMgmtRequest, 0, 0, [1]⟩ ∧
    lengthFits kindMgmtRequest 1 = false ∧
    (inLot .run).takes (⟨5, 1, kindSiteReport, 0, 0, []⟩ : Frame).wire ⟨5, 1, kindSiteReport, 0, 0, []⟩ ∧
    (inLot .run).owned .downstream ⟨5, 1, kindSiteReport, 0, 0, []⟩ kindSiteReport 1 ∧
    lengthFits kindSiteReport 0 = false := by
  unfold State.takes State.owned
  decide +kernel

/-- A frame that no owner takes: to the part, carried through in BYPASS, and offered in RUN. -/
theorem witness_FramesClassified :
    (inLot .run).takes (⟨0, 9, 0x60, 0, 0, []⟩ : Frame).wire ⟨0, 9, 0x60, 0, 0, []⟩ ∧
    (inLot .bypass).takes (⟨5, 9, 0x60, 0, 0, []⟩ : Frame).wire ⟨5, 9, 0x60, 0, 0, []⟩ ∧
    (inLot .run).takes (⟨5, 9, 0x60, 0, 0, []⟩ : Frame).wire ⟨5, 9, 0x60, 0, 0, []⟩ ∧
    ¬ (inLot .run).ownsFrame .downstream ⟨5, 9, 0x60, 0, 0, []⟩ := by
  unfold State.takes State.ownsFrame State.owned
  decide +kernel

/-- Entry 31 is the first that matches; a frame of another kind is matched by none. -/
def oneRule (a : ForwardAction) : State :=
  { State.reset with forwarding := State.reset.forwarding.set 31 (some (some ⟨none, some 5, some 0x60, .up, a⟩)) }

theorem witness_FirstForwardingEntryDecides :
    (∀ a, (oneRule a).forwarding[(31 : Fin 32)] = some (some ⟨none, some 5, some 0x60, .up, a⟩) ∧
      ForwardRule.covers ⟨none, some 5, some 0x60, .up, a⟩ .downstream ⟨5, 9, 0x60, 0, 0, []⟩ = true ∧
      ∀ j : Fin 32, j < 31 → (oneRule a).forwarding[j] = none) ∧
    ForwardRule.covers ⟨none, some 5, some 0x60, .up, .drop⟩ .downstream ⟨5, 9, 0x61, 0, 0, []⟩ = false ∧
    ForwardRule.covers ⟨none, some 5, some 0x60, .up, .drop⟩ .upstream ⟨5, 9, 0x60, 0, 0, []⟩ = false := by
  refine ⟨fun a => ?_, by decide +kernel, by decide +kernel⟩
  cases a <;> decide +kernel

/-- A port whose queues hold some frames. -/
def loaded (through own : Nat) (sending : Option Frame) : PortState :=
  ⟨List.replicate through ⟨5, 1, 0x60, 0, 0, []⟩, List.replicate own ⟨5, 0, 0x54, 0, 0, []⟩, 255, .through, sending⟩

theorem witness_ThroughQueueJoin :
    (loaded 7 0 (some ⟨5, 1, 0x60, 0, 0, []⟩)).through.length < 8 ∧
    (loaded 7 0 (some ⟨5, 1, 0x60, 0, 0, []⟩)).sending.isSome = true ∧
    8 ≤ (loaded 8 0 (some ⟨5, 1, 0x60, 0, 0, []⟩)).through.length ∧
    (State.reset.port .upstream).through = [] ∧ (State.reset.port .upstream).own = [] ∧
    (State.reset.port .upstream).sending = none := by decide +kernel

theorem witness_OwnFrameProduced :
    (loaded 0 31 (some ⟨5, 1, 0x60, 0, 0, []⟩)).own.length < 32 ∧
    (loaded 0 31 (some ⟨5, 1, 0x60, 0, 0, []⟩)).sending.isSome = true ∧
    32 ≤ (loaded 0 32 (some ⟨5, 1, 0x60, 0, 0, []⟩)).own.length ∧
    (State.reset.port .downstream).own = [] ∧ (State.reset.port .downstream).through = [] ∧
    (State.reset.port .downstream).sending = none := by decide +kernel

/-- The four cases of the two queue fronts, upstream in BYPASS among them. -/
theorem witness_TransmissionEndArbitrates :
    (∀ t o, t ≤ 1 → o ≤ 1 →
      let s := { State.reset with upstream := loaded t o (some ⟨5, 1, 0x60, 0, 0, []⟩) }
      s.resetLow = false ∧ dueTimers s = [] ∧ (s.port .upstream).sending.isSome = true) ∧
    dueTimers (busyUp (inLot .bypass)) = [] ∧ (busyUp (inLot .bypass)).upstream.sending.isSome = true := by
  refine ⟨fun t o _ _ => ⟨rfl, ?_, rfl⟩, by decide +kernel⟩
  show dueTimers State.reset = []
  decide +kernel

/-- R14: the record reads through after power-on, so the own queue is served first. -/
theorem test_transmissionEnd_serves_the_own_queue_first :
    ((after (.transmissionEnd .upstream)
      { State.reset with upstream := loaded 1 1 (some ⟨5, 1, 0x60, 0, 0, []⟩) }).upstream.through.length,
      (after (.transmissionEnd .upstream)
        { State.reset with upstream := loaded 1 1 (some ⟨5, 1, 0x60, 0, 0, []⟩) }).upstream.own.length) = (1, 0) := by
  decide +kernel

/-- R17: in RUN with a pending unmasked kind the stamp is lot state code 1 and the mark. -/
theorem test_stamp_in_run_with_the_mark :
    stamped .upstream .through ⟨5, 1, 0x60, 0x55, 0, []⟩
      (noteEvent .trayFull 3 { inLot .run with eventMask := 1 <<< 12 }) = ⟨5, 1, 0x60, 0x81, 0, []⟩ := by decide +kernel

theorem witness_UpstreamStamp : (inLot .bypass).lotState = .bypass ∧ (inLot .run).lotState ≠ .bypass := by decide

theorem witness_EventRecorded : EventKind.linkIntegrity ≠ .linkCongestion ∧ EventKind.accessRefused ≠ .linkCongestion := by
  decide

/-- The manual's congested notice (11): a mask of LINK_CONGESTION and PICK_MISS, and a full upstream own queue. -/
def congested : State :=
  { State.reset with upstream := loaded 0 32 (some ⟨5, 1, 0x60, 0, 0, []⟩), eventMask := 0b1010 }

theorem test_congested_notice :
    let t := raiseEvent .pickMiss 4100233 congested
    t.events[(3 : Fin 21)] = ⟨true, some 4100233, 1⟩ ∧ t.events[(1 : Fin 21)] = ⟨true, some 2, 2⟩ ∧
      t.upstream.sequence = 1 ∧ t.upstream.own.length = 32 := by decide +kernel

theorem witness_NoticeProduced :
    congested.events[EventKind.pickMiss.num].pending = false ∧ congested.eventMask.getLsbD 3 = true ∧
    32 ≤ congested.upstream.own.length ∧
    congested.events[(1 : Fin 21)].pending = false ∧ congested.eventMask.getLsbD 1 = true ∧
    (let s := busyUp { State.reset with eventMask := 0b1010 }
     s.upstream.own.length < 32 ∧ s.events[(1 : Fin 21)].pending = false ∧ s.eventMask.getLsbD 1 = true) ∧
    State.reset.eventMask.getLsbD 3 = false ∧ State.reset.eventMask.getLsbD 1 = false ∧
    (noteEvent .linkCongestion 3 State.reset).events[(1 : Fin 21)].pending = true ∧
    (noteEvent .pickMiss 1 State.reset).events[EventKind.pickMiss.num].pending = true := by decide +kernel

/-- R173: with room in the queue LINK_CONGESTION is announced by its own NOTICE, with the queue as detail. -/
theorem test_raiseCongestion_announces :
    (raiseCongestion 3 (busyUp { State.reset with eventMask := 0b10 })).upstream.own.map (fun f => (f.kind, f.payload)) =
      [(0x54, [1, 3, 0, 0, 0])] := by decide +kernel

/-! ## Witnesses: steps, ticks, timers -/

theorem witness_StepRunsFrontCommand :
    ({ State.reset with pending := [.tick] } : State).pending = .tick :: [] := rfl

theorem witness_IdleStepsMakeTicks :
    State.reset.pending = [] ∧ State.reset.resetLow = false ∧ dueTimers State.reset = [] ∧
    State.reset.prescaleCount = 0 ∧ State.reset.divideCount = 0 ∧ 1 ≤ State.reset.tickFactors.prescaler ∧
    1 ≤ State.reset.tickFactors.divider := by decide +kernel

/-- R1: straps reading 31 leave the part without an address. -/
theorem test_powerOn_reads_the_straps :
    (after (.powerOn 31) State.reset).ownAddress = none ∧ (after (.powerOn 30) State.reset).ownAddress = some 30 := by
  decide +kernel

theorem witness_DeafWhileResetLow :
    (after .resetNAssertion State.reset).resetLow = true ∧ (∀ a, Instr.tick ≠ .powerOn a) ∧
    Instr.tick ≠ .resetNAssertion := by
  refine ⟨by decide +kernel, ?_, ?_⟩ <;> simp

/-- A timer at 2, one at 1 and one that does not run. -/
theorem witness_TickCounts :
    let s := (State.reset.setTimer (.soak 0) (.running 2)).setTimer (.soak 1) (.running 1)
    s.resetLow = false ∧ dueTimers s = [] ∧ s.timer (.soak 0) = .running (0 + 2) ∧ s.timer (.soak 1) = .running 1 ∧
      s.timer (.fill 0) = .clear := by decide +kernel

/-- R150, R153: a timer at 1 expires, a HELD one keeps its count, the lot clock saturates. -/
theorem test_tick_counts_down_and_saturates :
    let s := { (State.reset.setTimer (.soak 0) (.running 1)).setTimer (.fill 0) (.held 7) with lotClock := 4294967295 }
    (after .tick s).timer (.soak 0) = .expired ∧ (after .tick s).timer (.fill 0) = .held 7 ∧
      (after .tick s).lotClock = 4294967295 := by decide +kernel

/-- Each class of timer, in a lot state that lets it count and in one that does not, and one held with 0. -/
theorem witness_LotStateGatesTimers :
    TimerId.gated (.soak 0) = false ∧ TimerId.gated (.yield .west) = true ∧ (inLot .drain).lotState.active = true ∧
    (inLot .pause).lotState.active = false ∧
    ((inLot .run).setTimer (.yield .west) (.running 1)).timer (.yield .west) = .running 1 ∧
    ((inLot .pause).setTimer (.yield .west) (.held 0)).timer (.yield .west) = .held 0 := by decide +kernel

/-! ## Witnesses: expiries -/

/-- In a lot state the West head waits for zone 11, its yield timer held with 0, and the East head may be sent a PARK. -/
def waitingAtOnce (l : LotState) : State :=
  let waiting := { granted 1 .pick 0 (.input 0) 0 0 with state := .waitingZone, resolved := none }
  let s := headsReady { inLot l with lotTable := some lotParameters }
  (westOrders [waiting] { s with deck := s.deck.set 0 (some ⟨1100000, 0⟩) }).setTimer (.yield .west) (.held 0)

/-- One expired timer, and two whose expiries make none. -/
theorem witness_UntimelyExpiriesIgnored :
    State.reset.timer (.soak 0) = .clear ∧ ((inLot .pause).setTimer (.yield .west) (.held 0)).timer (.yield .west) = .held 0 ∧
    afterExpiries .tick ∧
    (let s := (inLot .run).setTimer (.soak 63) .expired
     s.resetLow = false ∧ dueTimers s = [.soak 63] ∧ dueTimers (after (.soakExpiry 63) s) = []) ∧
    (let s := ((inLot .run).setTimer (.soak 63) .expired).setTimer (.soak 0) .expired
     let drawn := { s with draws := s.draws + 1 }
     s.resetLow = false ∧ 2 ≤ (dueTimers s).length ∧
       dueTimers (after (.soakExpiry 63) drawn) = [.soak 0] ∧ dueTimers (after (.soakExpiry 0) drawn) = [.soak 63] ∧
       dueTimers (after (.soakExpiry 0) (after (.soakExpiry 63) drawn)) = [] ∧
       dueTimers (after (.soakExpiry 63) (after (.soakExpiry 0) drawn)) = []) := by
  refine ⟨by decide +kernel, by decide +kernel, ?_, by decide +kernel, by decide +kernel⟩
  refine ⟨fun id => ?_, fun a => ?_, ?_⟩
  · cases id <;> simp [TimerId.expiryCommand]
  · simp
  · simp

/-- A step that leaves no yield timer started with 0, one that leaves the West head's, and one that leaves both heads', where
either goes first and stops the other's. -/
theorem witness_UntimelyExpiriesIgnored_at_once :
    (checkDrain (settle (inLot .run))).timer (.yield .west) ≠ .atOnce ∧
    (checkDrain (settle (inLot .run))).timer (.yield .east) ≠ .atOnce ∧
    (let v := checkDrain (settle (changeLot .run (waitingAtOnce .pause)))
     let w := yieldAtOnce .west v
     v.timer (.yield .west) = .atOnce ∧ v.timer (.yield .east) ≠ .atOnce ∧
       w.timer (.yield .west) ≠ .atOnce ∧ w.timer (.yield .east) ≠ .atOnce) ∧
    (let waiting := { granted 1 .pick 0 (.input 1) 0 0 with state := .waitingZone, resolved := none }
     let s := ((waitingAtOnce .run).setTimer (.yield .west) .atOnce).setTimer (.yield .east) .atOnce
     let v := checkDrain (settle (s.modHead .east fun x => { x with queue := [waiting] }))
     let w := yieldAtOnce .west { v with draws := v.draws + 1 }
     let e := yieldAtOnce .east { v with draws := v.draws + 1 }
     v.timer (.yield .west) = .atOnce ∧ v.timer (.yield .east) = .atOnce ∧
       w.timer (.yield .west) ≠ .atOnce ∧ w.timer (.yield .east) ≠ .atOnce ∧
       e.timer (.yield .west) ≠ .atOnce ∧ e.timer (.yield .east) ≠ .atOnce) := by decide +kernel

/-- R149, R152, R143: a yield timer held with 0 expires directly after LOT RESUME, and the East head is sent its PARK there. -/
theorem test_lotResume_takes_a_yield_held_with_0 :
    let t := after (.lotResume (ask [])) { waitingAtOnce .pause with remembered := some .run }
    t.timer (.yield .west) = .clear ∧
      (t.head .east).queue.map (fun o => (o.action, o.state)) = [(.park, .outstanding)] := by decide +kernel

/-- A soak and a fill wait that expire, and for each clause on the start test and the fill wait a lot: READY socket 63 alone
in group 15, beside an eligible socket 0 of the group, and none. -/
theorem witness_SoakAndFillWaitExpiries :
    ((inLot .run).setTimer (.soak 63) .expired).timer (.soak 63) = .expired ∧
    ((inLot .run).setTimer (.fill 15) .expired).timer (.fill 15) = .expired ∧ (inLot .run).resetLow = false ∧
    (let s := { withDevice .ready (inLot .run) with lotTable := some lotParameters }
     (∀ i : Fin 64, groupOf s i = some 15 → s.sockets[i].state ≠ .testing) ∧ groupOf s 63 = some 15 ∧
       s.sockets[(63 : Fin 64)].state = .ready ∧ s.timer (.fill 15) = .clear ∧ s.lot.fillWait = 100 ∧
       (s.setTimer (.fill 15) (.running 1)).timer (.fill 15) ≠ .clear) ∧
    ∀ i : Fin 64, (inLot .run).sockets[i].state ≠ .ready := by decide +kernel

/-- R150: the expiry is the socket unit's next event, so a TICK that comes first finds the socket READY. -/
theorem test_tick_finds_the_expiry_taken :
    let t := after .tick ((withDevice .soaking (inLot .pause)).setTimer (.soak 63) .expired)
    t.sockets[(63 : Fin 64)].state = .ready ∧ t.timer (.soak 63) = .clear ∧ t.lotClock = 1 := by decide +kernel

/-- R56, R58: the device of socket 63 is READY, and its group waits for the fill time. -/
theorem test_soakExpiry_starts_the_fill_wait :
    let s := ({ withDevice .soaking (inLot .run) with lotTable := some { lotParameters with fillWait := 100 } }.modSocket 0
      fun x => { x with state := .empty }).setTimer (.soak 63) (.expired)
    let t := after (.soakExpiry 63) { s with siteGeometry := s.siteGeometry.set 0 (some (some ⟨0, 0, 15, .west⟩)) }
    t.sockets[(63 : Fin 64)].state = .ready ∧ t.timer (.fill 15) = .running 100 := by decide +kernel

/-- R60, R61: the partial start tests the READY socket and counts it. -/
theorem test_fillWaitExpiry_makes_a_partial_start :
    let t := after (.fillWaitExpiry 15)
      ({ withDevice .ready (inLot .run) with lotTable := some lotParameters }.setTimer (.fill 15) (.expired))
    t.sockets[(63 : Fin 64)].state = .testing ∧ t.timer (.watchdog 63) = .running 1000 ∧
      t.counters.partialStarts = 1 ∧ t.counters.testsStarted = 1 ∧ t.events[(17 : Fin 21)] = ⟨true, some 15, 1⟩ := by
  decide +kernel

theorem witness_GroupStartTests :
    let s := { withDevice .ready (inLot .run) with lotTable := some lotParameters }
    s.counters.testsStarted ≤ 4294967295 ∧ readyMembers s 15 = [63] ∧ 1 ≤ s.lot.testLimit := by decide +kernel

/-- A TESTING socket whose fault count no threshold watches. -/
def testing63 : State :=
  { withDevice .testing (inLot .run) with lotTable := some { lotParameters with faultThreshold := 0 } }.setTimer
    (.watchdog 63) (.running 1000)

/-- The same, its watchdog expired. -/
def overrun63 : State := testing63.setTimer (.watchdog 63) .expired

/-- BIN_MAP entries of the three classes for codes 9, 2 and 3. -/
def mapped (s : State) : State :=
  { s with
    binMap := ((s.binMap.set 9 (some ⟨.bin, 15, 0, true⟩)).set 2 (some ⟨.hold, 0, 0, false⟩)).set 3
      (some ⟨.retest, 0, 15, false⟩) }

/-- A TESTING socket whose watchdog expires, without a fault threshold and with the threshold 1 that its count reaches. -/
theorem witness_WatchdogExpiryTakesResult :
    overrun63.resetLow = false ∧ overrun63.timer (.watchdog 63) = .expired ∧
    overrun63.sockets[(63 : Fin 64)].state = .testing ∧ overrun63.sockets[(63 : Fin 64)].record = some 0 ∧
    overrun63.parts[(0 : Fin 96)] = some ⟨4100233, .socket 63, [], .none, none⟩ ∧
    overrun63.lot.faultThreshold = 0 ∧
    (let s := { overrun63 with lotTable := some lotParameters }
     s.timer (.watchdog 63) = .expired ∧ s.sockets[(63 : Fin 64)].pendingDisable = none ∧ s.lot.faultThreshold ≠ 0 ∧
       faultMark s s.lot.timeoutCode = false ∧
       s.lot.faultThreshold ≤ min (s.sockets[(63 : Fin 64)].faultCount + 1) 15) := by decide +kernel

/-- R65, R78: an unmapped timeout code gives HOLD, and the test limit is the test time. -/
theorem test_watchdogExpiry_takes_the_timeout_code :
    let t := after (.watchdogExpiry 63) overrun63
    t.sockets[(63 : Fin 64)].last = some (9, 1000) ∧ t.sockets[(63 : Fin 64)].state = .tested ∧
      t.parts[(0 : Fin 96)] = some ⟨4100233, .socket 63, [(63, 9)], .hold, none⟩ ∧
      t.events[(9 : Fin 21)] = ⟨true, some 63, 1⟩ ∧ t.events[(7 : Fin 21)] = ⟨true, some 63, 1⟩ := by decide +kernel

/-- The West head with a PICK under way, its order timer expired. -/
def overdue : State :=
  (westOrders [granted 1 .pick 0 (.socket 63) 0 500000] (headsReady (withDevice .emptying (inLot .run)))).setTimer
    (.order .west) (.expired)

theorem witness_OrderTimeoutStopsHead :
    overdue.resetLow = false ∧ overdue.timer (.order .west) = .expired ∧
    ((overdue.head .west).queue.map Order.tag).Nodup := by decide +kernel

/-- R125: the order is UNKNOWN and both events are raised with the head. -/
theorem test_orderTimerExpiry_stops_the_head :
    let t := after (.orderTimerExpiry .west) overdue
    (t.head .west).state = .stopped ∧ (t.head .west).queue.map Order.state = [.unknown] ∧
      t.events[(5 : Fin 21)] = ⟨true, some 0, 1⟩ ∧ t.events[(6 : Fin 21)] = ⟨true, some 0, 1⟩ := by decide +kernel

/-- The West head waits for zone 11 with its yield timer expired; the East head may be sent a PARK, or stands at its own. -/
def yielding (x : Nat) : State :=
  let waiting := { granted 1 .pick 0 (.input 0) 0 0 with state := .waitingZone, resolved := none }
  let s := (headsReady (inLot .run)).modHead .east fun e => { e with known := some ⟨x, 0⟩ }
  (westOrders [waiting] { s with deck := s.deck.set 0 (some ⟨1100000, 0⟩) }).setTimer (.yield .west) .expired

theorem witness_YieldExpiryMarksDue :
    (yielding 1200000).timer (.yield .west) = .expired ∧ (yielding 1200000).resetLow = false ∧
    (yielding 1200000).points = .none ∧
    (((yielding 1200000).head .west).queue.find? fun q => q.state == .pending || q.state == .waitingZone).map Order.state =
      some .waitingZone ∧
    parkPossible .east (yielding 1200000) = true ∧ ((yielding 1200000).head .east).queue.length ≤ 8 ∧
    (yielding 1200000).timer (.yield .east) ≠ .atOnce ∧ (yielding 1550000).timer (.yield .east) ≠ .atOnce ∧
    ({ yielding 1200000 with lotTable := some lotParameters } : State).lot.yieldDelay ≠ 0 ∧
    ({ yielding 1200000 with lotTable := some lotParameters } : State).timer (.yield .west) = .expired ∧
    parkPossible .east { yielding 1200000 with lotTable := some lotParameters } = true ∧
    (yielding 1550000).timer (.yield .west) = .expired ∧ parkPossible .east (yielding 1550000) = false ∧
    (((yielding 1550000).head .west).queue.find? fun q => q.state == .pending || q.state == .waitingZone).map Order.state =
      some .waitingZone ∧
    (((yielding 1200000).modHead .west fun x => { x with yieldDue := true }).head .west).yieldDue = true := by decide +kernel

/-- R143: the West head waits for zone 11, and the East head, standing inward of its park position, is sent a PARK. -/
theorem test_yieldTimerExpiry_parks_the_other_head :
    let t := after (.yieldTimerExpiry .west) (yielding 1200000)
    (t.head .east).queue.map (fun o => (o.action, o.state)) = [(.park, .outstanding)] ∧
      (t.head .east).holdings = ⟨12, 15⟩ ∧ t.events[(16 : Fin 21)] = ⟨true, some 1, 1⟩ := by decide +kernel

/-- The East head RECOVERING under ticket 5, its timer expired. -/
def recovering : State :=
  { ((inLot .run).modHead .east fun x => { x with state := .recovering, ticket := some 5, holdings := ⟨8, 15⟩ }).setTimer
      (.recover .east) (.expired) with
    completions := [⟨5, codeHeadRecover, .head .east⟩] }

theorem witness_RecoverExpiryGoesOffline :
    recovering.resetLow = false ∧ recovering.timer (.recover .east) = .expired ∧
    (recovering.completions.find? fun c => c.code == codeHeadRecover && c.subject == .head .east) =
      some ⟨5, codeHeadRecover, .head .east⟩ ∧
    recovering.slotWanted = false ∧ ({ recovering with slotWanted := true } : State).slotWanted = true ∧
    (recovering.completions.find? fun c => c.code == codeHeadRecover && c.subject == .head .west) = none := by
  decide +kernel

/-- R132, R163: the ticket completes with TIMEOUT, whose COMPLETION goes out at once. -/
theorem test_recoverTimerExpiry_completes_the_ticket :
    let t := after (.recoverTimerExpiry .east) recovering
    (t.head .east).state = .offline ∧ t.completions = [] ∧
      t.upstream.sending.map Frame.payload = some [5, 0x50, 1, 1] := by decide +kernel

/-! ## Witnesses: deck frames -/

/-- A TESTING socket 63 in a lot without a fault threshold; the report goes to the cell computer or to the part. With code 9
mapped to a faulty bin and threshold 1 the count reaches it. RETEST is possible in RUN beside an EMPTY socket 1, and not in
DRAIN. -/
theorem witness_SiteReportTaken :
    testing63.takes (report 5 63).wire (report 5 63) ∧ testing63.owned .downstream (report 5 63) kindSiteReport 1 ∧
    (report 5 63).payload.length = 7 ∧ fieldAt (report 5 63).payload 0 1 = 63 ∧
    testing63.sockets[(63 : Fin 64)].state = .testing ∧ testing63.sockets[(63 : Fin 64)].record = some 0 ∧
    testing63.parts[(0 : Fin 96)] = some ⟨4100233, .socket 63, [], .none, none⟩ ∧ testing63.lot.faultThreshold = 0 ∧
    testing63.takes (report 0 63).wire (report 0 63) ∧ testing63.binMap[(9 : Byte).toFin] = none ∧
    (let s := mapped { testing63 with lotTable := some lotParameters }
     s.takes (report 5 63).wire (report 5 63) ∧ faultMark s (byteAt (report 5 63).payload 1) = true ∧
       s.sockets[(63 : Fin 64)].pendingDisable = none ∧ s.lot.faultThreshold = 1 ∧
       s.binMap[(9 : Byte).toFin] = some ⟨.bin, 15, 0, true⟩ ∧ s.binMap[(2 : Byte).toFin] = some ⟨.hold, 0, 0, false⟩ ∧
       s.binMap[(3 : Byte).toFin] = some ⟨.retest, 0, 15, false⟩ ∧ s.lot.retestLimit = 2 ∧
       (s.modSocket 1 fun x => { x with state := .empty }).sockets[(1 : Fin 64)].state ≠ .off ∧
       loadable (s.modSocket 1 fun x => { x with state := .empty }) ⟨1, .socket 63, [(63, 3)], .none, none⟩ 1 = true ∧
       (inLot .drain).lotState ≠ .run ∧ (inLot .drain).lotState ≠ .pause) := by
  unfold State.takes State.owned
  decide +kernel

/-- R15, R79, R178: the HOLD decision, code 17, is in the frame that goes on upstream, stamped RUN. -/
theorem test_siteReport_is_annotated :
    (after (.siteReport .downstream (report 5 63).wire) testing63).upstream.sending =
      some ⟨5, 1, kindSiteReport, 1, 9, [63, 9, 100, 0, 0, 0, 17]⟩ := by decide +kernel

theorem witness_SiteReportLate :
    (inLot .run).takes (report 5 64).wire (report 5 64) ∧
    (inLot .run).owned .downstream (report 5 64) kindSiteReport 1 ∧ (report 5 64).payload.length = 7 ∧
    (∀ i : Fin 64, fieldAt (report 5 64).payload 0 1 = i.val → (inLot .run).sockets[i].state ≠ .testing) ∧
    (∀ i : Fin 64, fieldAt (report 5 63).payload 0 1 = i.val → (inLot .run).sockets[i].state ≠ .testing) := by
  unfold State.takes State.owned
  decide +kernel

/-- A fault count of 0 and a threshold of 1, for a TESTING, an EMPTY and a READY socket, and a threshold of 0. -/
theorem witness_FaultThresholdDisables :
    (∀ st ∈ [SocketState.testing, .empty, .ready],
      let s := { withDevice st (inLot .run) with lotTable := some lotParameters }
      s.lot.faultThreshold ≠ 0 ∧ s.lot.faultThreshold ≤ min (s.sockets[(63 : Fin 64)].faultCount + 1) 15 ∧
      s.sockets[(63 : Fin 64)].pendingDisable = none ∧ s.sockets[(63 : Fin 64)].state = st) ∧
    testing63.lot.faultThreshold = 0 := by decide +kernel

/-- A READY West head whose nozzle 3, BLOCKED or not, holds a device to be tested again. -/
def retestOnNozzle (blocked : Bool) : State :=
  ((headsReady (inLot .run)).modNozzle .west 3 fun x => { x with record := some 0, blocked := blocked }).setPart 0
    (some ⟨1, .nozzle .west 3, [(0, 9)], .retest, none⟩)

/-- A RETEST device with an attempt in socket 0, and a socket that would take it. -/
theorem witness_ConversionsLeaveNoStrandedRetest :
    let s := ((inLot .run).setPart 0 (some ⟨1, .retest 0, [(0, 9)], .retest, none⟩)).modSocket 1 fun x =>
      { x with state := .empty }
    (convertAll (s.setPart 1 (some ⟨2, .retest 1, [], .hold, none⟩))).parts[(1 : Fin 96)] =
      some ⟨2, .retest 1, [], .hold, none⟩ ∧
    (reexamine s).parts[(0 : Fin 96)] = some ⟨1, .retest 0, [(0, 9)], .retest, none⟩ ∧
    s.parts[(0 : Fin 96)] = some ⟨1, .retest 0, [(0, 9)], .retest, none⟩ ∧
    ([(0, 9)] : List (Fin 64 × Byte)).getLast? = some (0, 9) ∧ s.binMap[(9 : Byte).toFin] = none ∧
    (finalDisposition s ⟨1, .retest 0, [(0, 9)], .retest, none⟩).2.isSome = true ∧
    (mapped s).binMap[(9 : Byte).toFin] = some ⟨.bin, 15, 0, true⟩ ∧
    (retestOnNozzle true).parts[(0 : Fin 96)] = some ⟨1, .nozzle .west 3, [(0, 9)], .retest, none⟩ ∧
    ((retestOnNozzle true).head .west).nozzles[(3 : Fin 4)].blocked = true ∧
    ((retestOnNozzle false).head .west).nozzles[(3 : Fin 4)].blocked = false ∧
    passCondition .west (retestOnNozzle false) = true := by decide +kernel

/-- R97, R99: the conversion of a carried device opens a pass for its head; on a BLOCKED nozzle it opens none. -/
theorem test_convert_on_a_blocked_nozzle_opens_no_pass :
    ((convert 0 (retestOnNozzle false)).head .west).passDue = true ∧
    ((convert 0 (retestOnNozzle true)).head .west).passDue = false := by decide +kernel

/-- A HEAD STATUS of a head's controller. -/
def status (source head outcome tag presence : Byte) (x : Nat) : Frame :=
  ⟨5, source, kindHeadStatus, 0, 0, [head, outcome, tag, presence] ++ leBytes 4 x ++ leBytes 4 0⟩

/-- Two orders under way, a PICK from EMPTYING socket 63 and a PLACE into FILLING socket 62. -/
def twoUnderWay : State :=
  westOrders [granted 1 .pick 0 (.socket 63) 0 500000, granted 2 .place 1 (.socket 62) 0 400000]
    ((headsReady (withDevice .emptying (inLot .run))).modSocket 62 fun x => { x with state := .filling })

/-- The West head's queue for each clause: a PICK from a socket, a PLACE into a socket, a PLACE into a pocket. -/
def placing (loc : Location) : State :=
  ((westOrders [granted 255 .place 3 loc 0 500000] (headsReady (inLot .run))).modNozzle .west 3 fun x =>
    { x with record := some 0 }).setPart 0 (some ⟨4100233, .nozzle .west 3, [], .none, none⟩)

/-- Slot 0 holds the device of tag 9, slot 6 is CLEARING of tag 8, the others are EMPTY. -/
def shuttleSlots : State :=
  (((inLot .run).modInput 0 fun x => { x with record := some 0 }).modInput 6 fun x => { x with taken := some 8 }).setPart 0
    (some ⟨9, .input 0, [], .none, none⟩)

/-- The West head STOPPED with one UNKNOWN order, socket 63 EMPTYING. -/
def unknownOrder (a : Action) (tag : Nat) (loc : Location) (retry : Nat) : State :=
  (westOrders [{ granted tag a 3 loc retry 500000 with state := .unknown }]
    (headsReady (withDevice .emptying (inLot .run)))).modHead .west fun x => { x with state := .stopped, base := none }

/-- Late statuses: a head that is not READY with one UNKNOWN order, and a retry count of 0 and 1. For an order resolved as not
done: a PICK of an EMPTYING socket, a PLACE into a FILLING one, one into a pocket, on a READY head and on another. -/
theorem witness_HeadStatusHandedOver :
    (inLot .run).takes (status 2 0 0 0 0 300000).wire (status 2 0 0 0 0 300000) ∧
    (inLot .run).owned .downstream (status 2 0 0 0 0 300000) kindHeadStatus (controllerNode .west) ∧
    (inLot .run).owned .downstream (status 3 1 0 0 0 300000) kindHeadStatus (controllerNode .east) ∧
    (inLot .run).node[(2 : Fin 5)] ≠ some (status 3 1 0 0 0 300000).source ∧
    (status 2 0 0 0 0 300000).payload.length = 12 ∧
    (HeadStatusFields.read (status 2 1 0 0 0 0).payload).head ≠ Head.west.num ∧
    (HeadStatusFields.read (status 2 0 5 0 0 0).payload).outcome = none ∧
    (HeadStatusFields.read (status 2 0 1 7 0 0).payload).outcome = some .done ∧
    ((inLot .run).head .west).queue = [] ∧
    (HeadStatusFields.read (status 2 0 2 1 0 0).payload).outcome = some .miss ∧
    (HeadStatusFields.read (status 2 0 3 255 0 0).payload).outcome = some .stuck ∧
    (∀ r ∈ [0, 1],
      ((unknownOrder .pick 1 (.socket 63) r).head .west).state ≠ .ready ∧
      ((unknownOrder .pick 1 (.socket 63) r).head .west).queue.find? (fun q => q.state == .unknown) =
        some { granted 1 .pick 3 (.socket 63) r 500000 with state := .unknown } ∧
      ((unknownOrder .place 255 (.pocket 15 .b 0) r).head .west).queue.find? (fun q => q.state == .unknown) =
        some { granted 255 .place 3 (.pocket 15 .b 0) r 500000 with state := .unknown }) ∧
    (unknownOrder .pick 1 (.socket 63) 1).recordAt (.socket 63) = some 0 ∧
    twoUnderWay.sockets[(63 : Fin 64)].state = .emptying ∧ twoUnderWay.sockets[(62 : Fin 64)].state = .filling ∧
    twoUnderWay.sockets[(62 : Fin 64)].pendingDisable = none ∧ (twoUnderWay.head .west).state = .ready ∧
    (twoUnderWay.head .west).base = some 3 ∧ ((twoUnderWay.head .west).queue.map Order.tag).Nodup := by
  unfold State.takes State.owned
  decide +kernel

theorem witness_JamStopsHead :
    (HeadStatusFields.read (status 2 0 4 0 0 1599999).payload).head = Head.west.num ∧
    (HeadStatusFields.read (status 2 0 4 0 0 1599999).payload).outcome = some .jam ∧
    (twoUnderWay.head .west).state = .ready ∧ ((twoUnderWay.head .west).queue.map Order.tag).Nodup ∧
    ((inLot .run).head .west).state ≠ .ready := by decide +kernel

/-- A first MISS, a final MISS from a socket and from an input slot, and a final STUCK at a socket and at a pocket. -/
theorem witness_FirstFailureReturnsOrders :
    let x := HeadStatusFields.read (status 2 0 2 1 0 0).payload
    let y := HeadStatusFields.read (status 2 0 3 255 0 0).payload
    let missed := westOrders [granted 1 .pick 0 (.socket 63) 1 500000] twoUnderWay
    let slot := (westOrders [granted 1 .pick 0 (.input 7) 1 500000] (headsReady (inLot .run))).modInput 7 fun i =>
      { i with record := some 5 }
    let stuck (loc : Location) := westOrders [granted 255 .place 3 loc 1 500000] (placing loc)
    x.head = Head.west.num ∧ x.outcome = some .miss ∧ (twoUnderWay.head .west).state = .ready ∧
    (twoUnderWay.head .west).base = some 3 ∧
    (twoUnderWay.head .west).queue.find? (fun q => q.state == .outstanding) =
      some (granted 1 .pick 0 (.socket 63) 0 500000) ∧ x.tag = 1 ∧
    (∀ i : Fin 64, twoUnderWay.sockets[i].pendingDisable = none) ∧
    twoUnderWay.sockets[(63 : Fin 64)].state = .emptying ∧ twoUnderWay.sockets[(62 : Fin 64)].state = .filling ∧
    (missed.head .west).queue.find? (fun q => q.state == .outstanding) = some (granted 1 .pick 0 (.socket 63) 1 500000) ∧
    missed.recordAt (.socket 63) = some 0 ∧ missed.parts[(0 : Fin 96)].isSome = true ∧
    missed.events[EventKind.pickMiss.num].pending = false ∧
    slot.recordAt (.input 7) = some 5 ∧ (slot.setPart 5 (some ⟨9, .input 7, [], .none, none⟩)).recordAt (.input 7) = some 5 ∧
    y.head = Head.west.num ∧ y.outcome = some .stuck ∧ y.tag = 255 ∧
    (stuck (.socket 62)).recordAt (.nozzle .west 3) = some 0 ∧ ((stuck (.socket 62)).head .west).state = .ready ∧
    ((stuck (.pocket 15 .b 1023)).head .west).queue.find? (fun q => q.state == .outstanding) =
      some (granted 255 .place 3 (.pocket 15 .b 1023) 1 500000) ∧
    ((stuck (.socket 62)).modSocket 62 fun s => { s with state := .filling }).sockets[(62 : Fin 64)].state = .filling ∧
    (stuck (.socket 62)).sockets[(62 : Fin 64)].pendingDisable = none ∧ (stuck (.socket 62)).lot.faultThreshold = 0 ∧
    (let s := twoUnderWay.modSocket 62 fun x => { x with pendingDisable := some .request }
     s.sockets[(62 : Fin 64)].pendingDisable = some .request ∧ s.sockets[(62 : Fin 64)].state = .filling ∧
       ∃ q ∈ (s.head .west).queue, q.state = .outstanding ∧ q.action = .place ∧ q.location = some (.socket 62)) ∧
    (let s := (westOrders [granted 1 .pick 0 (.socket 63) 0 500000, granted 2 .place 1 (.socket 63) 0 500000]
        twoUnderWay).modSocket 63 fun x => { x with pendingDisable := some .fault }
     s.sockets[(63 : Fin 64)].pendingDisable = some .fault ∧ s.sockets[(63 : Fin 64)].state = .emptying ∧
       ∃ q ∈ (s.head .west).queue, q.state = .outstanding ∧ q.action = .place ∧ q.location = some (.socket 63)) := by
  decide +kernel

/-- R71, R126: the PLACE returned into a socket with pending-disable is cancelled, and the socket goes OFF. -/
theorem test_headStatus_first_miss_cancels_the_place_into_a_disabled_socket :
    let t := takeHeadStatus .west (status 2 0 2 1 0 0).payload
      (twoUnderWay.modSocket 62 fun x => { x with pendingDisable := some .request })
    (t.head .west).queue.map Order.action = [.pick] ∧ t.sockets[(62 : Fin 64)].state = .off ∧
      t.sockets[(62 : Fin 64)].pendingDisable = none := by decide +kernel

/-- R126: a PICK may be granted again at once; the socket is TESTED until it is. -/
theorem test_headStatus_first_miss_keeps_the_head_ready :
    let t := takeHeadStatus .west (status 2 0 2 1 0 0).payload twoUnderWay
    (t.head .west).queue.map (fun o => (o.state, o.retry)) = [(.pending, 1), (.pending, 0)] ∧
      t.sockets[(63 : Fin 64)].state = .tested ∧ t.sockets[(62 : Fin 64)].state = .empty := by decide +kernel

/-- A PICK from a socket with and without its PLACE behind it, from an input slot; a PLACE into a socket with and without a
soak time and into a pocket; a PARK; and a head that is not READY. -/
theorem witness_DoneResolvesOrder :
    let x := HeadStatusFields.read (status 2 0 1 1 1 0).payload
    let y := HeadStatusFields.read (status 2 0 1 255 0 0).payload
    let exchange := westOrders [granted 1 .pick 0 (.socket 63) 0 500000, granted 2 .place 1 (.socket 63) 0 500000] twoUnderWay
    let slot := (westOrders [granted 1 .pick 0 (.input 0) 0 500000] (headsReady shuttleSlots))
    let park := westOrders [{ granted 1 .park 0 (.input 0) 0 50000 with nozzle := none, location := none }] twoUnderWay
    x.head = Head.west.num ∧ x.outcome = some .done ∧ y.outcome = some .done ∧
    (twoUnderWay.head .west).queue.find? (fun q => q.state == .outstanding) =
      some (granted 1 .pick 0 (.socket 63) 0 500000) ∧ x.tag = 1 ∧
    twoUnderWay.recordAt (.socket 63) = some 0 ∧ twoUnderWay.recordAt (.nozzle .west 0) = none ∧
    twoUnderWay.parts[(0 : Fin 96)] = some ⟨4100233, .socket 63, [], .none, none⟩ ∧
    exchange.recordAt (.socket 63) = some 0 ∧ (exchange.head .west).queue.map Order.plan = [some 0, some 0] ∧
    slot.recordAt (.input 0) = some 0 ∧ slot.parts[(0 : Fin 96)] = some ⟨9, .input 0, [], .none, none⟩ ∧
    (park.head .west).queue.map Order.action = [.park] ∧
    ((placing (.socket 63)).head .west).state = .ready ∧ y.tag = 255 ∧
    (placing (.socket 63)).recordAt (.nozzle .west 3) = some 0 ∧ (placing (.socket 63)).recordAt (.socket 63) = none ∧
    (placing (.socket 63)).lot.soak = 0 ∧
    ({ placing (.socket 63) with lotTable := some { lotParameters with soak := 1, faultMode := .perPart } }).lot.soak ≠ 0 ∧
    ((placing (.pocket 15 .b 1023)).head .west).queue =
      [granted 255 .place 3 (.pocket 15 .b 1023) 0 500000] ∧
    (placing (.pocket 15 .b 1023)).parts[(0 : Fin 96)] = some ⟨4100233, .nozzle .west 3, [], .none, none⟩ ∧
    ((unknownOrder .pick 1 (.socket 63) 0).head .west).state ≠ .ready ∧
    ((unknownOrder .pick 1 (.socket 63) 0).head .west).queue.find? (fun q => q.state == .unknown) =
      some { granted 1 .pick 3 (.socket 63) 0 500000 with state := .unknown } := by decide +kernel

/-- R89, R175: the pocket's device has left custody and is counted for the bin whose tray holds the pocket. -/
theorem test_headStatus_done_into_a_pocket_counts_the_bin :
    let t := takeHeadStatus .west (status 2 0 1 255 0 0).payload (placing (.pocket 15 .b 1023))
    t.parts[(0 : Fin 96)] = none ∧ t.counters.binned[(15 : Fin 16)] = 1 ∧
      t.bins[(15 : Fin 16)].trayB.placed = 1 := by decide +kernel

/-- R89, R32, log 20: a device that a restart counted as removed is binned after all, and counted once. -/
theorem test_headStatus_done_without_a_record_counts_once :
    let s := clearNozzle .west 3 (placing (.pocket 15 .b 1023))
    let t := takeHeadStatus .west (status 2 0 1 255 0 0).payload s
    s.counters.removed = 1 ∧ t.counters.removed = 0 ∧ t.counters.binned[(15 : Fin 16)] = 1 := by decide +kernel

/-- A READY for a head without orders, for one with a single UNKNOWN PICK, and for a READY one with a single OUTSTANDING. -/
theorem witness_ReadyRecoversHead :
    let x := HeadStatusFields.read (status 2 0 0 0 0b1000 300000).payload
    x.head = Head.west.num ∧ x.outcome = some .ready ∧ x.presence.getLsbD 3 = true ∧ x.presence.getLsbD 0 = false ∧
    ((inLot .run).head .west).state ≠ .ready ∧ (recovering.head .east).state = .recovering ∧
    ((inLot .run).head .west).queue = [] ∧ (inLot .run).counters.removed ≤ 4294967295 ∧
    (placing (.socket 63)).recordAt (.nozzle .west 3) = some 0 ∧
    ((unknownOrder .pick 1 (.socket 63) 0).head .west).queue.filter (fun o => o.state == .unknown || o.state == .outstanding) =
      [{ granted 1 .pick 3 (.socket 63) 0 500000 with state := .unknown }] ∧
    (unknownOrder .pick 1 (.socket 63) 0).recordAt (.socket 63) = some 0 ∧
    (unknownOrder .pick 1 (.socket 63) 0).recordAt (.nozzle .west 3) = none ∧
    (unknownOrder .pick 1 (.socket 63) 0).sockets[(63 : Fin 64)].state = .emptying ∧
    (overdue.head .west).state = .ready ∧
    (overdue.head .west).queue.filter (fun o => o.state == .unknown || o.state == .outstanding) =
      [granted 1 .pick 0 (.socket 63) 0 500000] ∧
    (HeadStatusFields.read (status 3 1 0 0 0 1200000).payload).head = Head.east.num := by decide +kernel

/-- R117, R131: a nozzle reported absent that is BLOCKED and holds a record loses both. -/
theorem test_ready_absent_clears_a_blocked_nozzle :
    let s := (placing (.socket 63)).modNozzle .west 3 fun x => { x with blocked := true }
    let t := takeHeadStatus .west (status 2 0 0 0 0 300000).payload (westOrders [] s)
    (t.head .west).nozzles[(3 : Fin 4)] = ⟨none, false, none⟩ ∧ t.counters.removed = 1 := by decide +kernel

/-- A SHUTTLE REPORT of a slot and a tag. -/
def shuttle (destination slot : Byte) (tag : Nat) : Frame := ⟨destination, 4, kindShuttleReport, 0, 0, slot :: leBytes 4 tag⟩

theorem witness_ShuttleReportTable :
    shuttleSlots.takes (shuttle 5 7 1).wire (shuttle 5 7 1) ∧
    shuttleSlots.owned .downstream (shuttle 5 7 1) kindShuttleReport 4 ∧ (shuttle 5 7 1).payload.length = 5 ∧
    8 ≤ fieldAt (shuttle 5 8 1).payload 0 1 ∧ fieldAt (shuttle 5 7 4294967295).payload 1 4 = 4294967295 ∧
    shuttleSlots.inputs[(7 : Fin 8)] = ⟨none, none, none⟩ ∧ shuttleSlots.inputs[(6 : Fin 8)] = ⟨none, none, some 8⟩ ∧
    shuttleSlots.inputs[(0 : Fin 8)].record = some 0 ∧
    shuttleSlots.parts[(0 : Fin 96)] = some ⟨9, .input 0, [], .none, none⟩ ∧
    pickUnderWay 0 shuttleSlots = false ∧
    pickUnderWay 0 (westOrders [granted 1 .pick 0 (.input 0) 0 0]
      (shuttleSlots.modInput 0 fun x => { x with plan := some 0 })) = true ∧
    (∀ k : Fin 96, shuttleSlots.parts[k].map PartRecord.tag ≠ some 10) := by
  unfold State.takes State.owned
  decide +kernel

/-- R27: tag 10 in EMPTY slot 7 is registered in the lowest free record, and tag 9 again is a duplicate. -/
theorem test_shuttleReport_registers_once :
    (after (.shuttleReport .downstream (shuttle 5 7 10).wire) shuttleSlots).parts[(1 : Fin 96)] =
      some ⟨10, .input 7, [], .none, none⟩ ∧
    (after (.shuttleReport .downstream (shuttle 5 7 9).wire) shuttleSlots).events[(14 : Fin 21)] = ⟨true, some 9, 1⟩ := by
  decide +kernel

theorem witness_RegistrationTakesLowestRecord :
    shuttleSlots.parts[(1 : Fin 96)] = none ∧ ∀ j : Fin 96, j < 1 → shuttleSlots.parts[j] ≠ none := by decide +kernel

/-! ## Witnesses: the planner, the rail, the resolver -/

/-- Bin 15 with tray B in a state. -/
def withTrayB (st : TrayState) (s : State) : State :=
  s.modTray 15 .b fun _ => ⟨st, some ⟨500000, 100000, 4, 4, 10000, 10000, .row⟩, 5, 3, 1⟩

/-- A lot in RUN with READY heads, socket 63 TESTED, its device to be fetched, and an opportunity for West. -/
def planning : State :=
  { (headsReady (withDevice .tested (inLot .run))).modHead .west fun x => { x with passDue := true } with
    serviceList := [63], lotTable := some lotParameters }

/-- An opportunity in a lot, one left without a condition, and none; a pass that plans, and one that finds nothing. -/
theorem witness_PlanningPassPlans :
    (planning.head .west).passDue = true ∧ planning.resetLow = false ∧ (planning.head .east).passDue = false ∧
    dueTimers planning = [] ∧
    passCondition .west planning = true ∧ passCondition .west (inLot .run) = false ∧
    (tryUnload .west planning).isSome = true ∧
    tryUnload .west (headsReady (inLot .run)) = none ∧ tryLoad .west (headsReady (inLot .run)) = none ∧
    (tryStow .west (checkStarved .west (headsReady (inLot .run)))).2 = false ∧
    tryFetch .west (tryStow .west (checkStarved .west (headsReady (inLot .run)))).1 = none ∧
    (tryFetch .west shuttleSlots).isSome = true ∧
    passCondition .west (passes .west 2 (planning.modHead .west fun x => { x with passDue := false })) = true := by
  decide +kernel

/-- R101, R94: an UNLOAD, granted at once, whose MOVE ORDER names order 1 and nozzle 0. -/
theorem test_planningPass_unloads_the_tested_socket :
    let t := after (.planningPass .west) planning
    (t.head .west).queue.map (fun o => (o.tag, o.action, o.state)) = [(1, .pick, .outstanding)] ∧
      t.sockets[(63 : Fin 64)].state = .emptying ∧
      t.downstream.sending.map (fun f => f.payload.take 3) = some [1, 0, 0] := by decide +kernel

/-- A device carried by West on nozzle 3 for an EMPTY socket 63. -/
def loading : State :=
  (({ headsReady (withDevice .empty (inLot .run)) with serviceList := [63], lotTable := some lotParameters }.modSocket 63
    fun x => { x with record := none }).modNozzle .west 3 fun x => { x with record := some 0 }).setPart 0
      (some ⟨4100233, .nozzle .west 3, [], .none, none⟩)

/-- All four nozzles of West hold a RETEST device that has been in socket 63. -/
def retesting : State :=
  (List.finRange 4).foldl
    (fun s n => (s.modNozzle .west n fun x => { x with record := some ⟨n.val, by omega⟩ }).setPart ⟨n.val, by omega⟩
      (some ⟨n.val + 1, .nozzle .west n, [(63, 9)], .retest, none⟩))
    { headsReady (inLot .run) with serviceList := [63], lotTable := some lotParameters }

/-- An UNLOAD, an EXCHANGE and none; a LOAD and none; a socket passed over, with and without a device for it; a FETCH from a
retest slot and from an input slot; a device to stow, with and without a pocket; a RETEST device for a slot and for none. -/
theorem witness_PlansReserve :
    let full := { retesting with retests := Vector.replicate 8 ⟨some 90, none⟩ }
    (tryUnload .west planning).isSome = true ∧ tryUnload .west loading = none ∧
    (tryUnload .west (planning.modNozzle .west 3 fun x => { x with record := some 1 })).isSome = true ∧
    chooseFor ((planning.modNozzle .west 3 fun x => { x with record := some 1 }).setPart 1
      (some ⟨8, .nozzle .west 3, [], .none, none⟩)) .west 63 = some (3, 1) ∧
    (tryLoad .west loading).isSome = true ∧ tryLoad .west planning = none ∧ loading.lotState = .run ∧
    scan (loading.setPart 0 none) .west (fun i => loadSocket (loading.setPart 0 none) .west i &&
      (chooseFor (loading.setPart 0 none) .west i).isNone) = some (0, 63) ∧
    (∀ k : Fin 96, (loading.setPart 0 none).parts[k] = none) ∧
    loadable loading ⟨4100233, .input 0, [], .none, none⟩ 63 = true ∧
    (tryFetch .west shuttleSlots).isSome = true ∧ tryFetch .west retesting = none ∧
    (tryFetch .west ((inLot .drain).modRetest 7 fun x => { x with record := some 5 })).isSome = true ∧
    stowBin loading ⟨1, .nozzle .west 3, [], .bin 15, none⟩ = some 15 ∧
    stowBin loading ⟨1, .nozzle .west 3, [], .none, none⟩ = none ∧
    (askPocket 15 loading).2 = none ∧ (askPocket 15 (withTrayB .active loading)).2 = none ∧
    (askPocket 15 ((withTrayB .active loading).modBin 15 fun x => { x with active := some .b })).2 =
      some (.pocket 15 .b 5) ∧
    (∀ n : Fin 4, ((retesting.head .west).nozzles[n]).isFree = false) ∧
    (carried retesting .west).map (fun c => (c.1, c.2.2.disposition)) = (List.finRange 4).map (fun n => (n, .retest)) ∧
    (∀ i ∈ retesting.serviceList, loadSocket retesting .west i = false) ∧
    retesting.retests[(0 : Fin 8)] = ⟨none, none⟩ ∧ (∀ x : Fin 8, full.retests[x].record ≠ none) ∧
    full.parts[(0 : Fin 96)] = some ⟨1, .nozzle .west 0, [(63, 9)], .retest, none⟩ := by decide +kernel

/-- Two orders under way, a tray with a pocket outstanding and a command that waits: a state that meets the laws of the rail,
the queues and the trays. -/
def lawful : State :=
  let s := twoUnderWay.modHead .west fun x => { x with holdings := ⟨3, 5⟩, tagCounter := 2 }
  { (withTrayB .active s).modBin 15 (fun x => { x with active := some .b }) with pending := [.tick] }

/-- A tray that is ABSENT in a bin without an active tray, of which no order holds a pocket, meets the law. -/
theorem absent_tray_lawful {s : State} {b : Fin 16} {y : TrayId}
    (h : s.bins[b].tray y = ⟨.absent, none, 0, 0, 0⟩ ∧ s.bins[b].active ≠ some y ∧
      pocketsHeld b y s.heads.west = 0 ∧ pocketsHeld b y s.heads.east = 0) : s.trayLawful b y := by
  obtain ⟨t, a, w, e⟩ := h
  dsimp only [State.trayLawful]
  rw [t, w, e]
  exact ⟨by decide, by decide, (fun g h => by cases h), fun _ => ⟨rfl, rfl⟩, fun h => absurd rfl h, by decide, by decide,
    by decide, ⟨(fun h => by cases h), fun h => absurd h a⟩⟩

theorem lawful_trays : lawful.traysLawful := by
  have out : ∀ b : Fin 16, b ≠ 15 → ∀ y ∈ [TrayId.a, .b], lawful.bins[b].tray y = ⟨.absent, none, 0, 0, 0⟩ ∧
      lawful.bins[b].active ≠ some y ∧ pocketsHeld b y lawful.heads.west = 0 ∧
      pocketsHeld b y lawful.heads.east = 0 := by decide +kernel
  intro b y
  by_cases h : b = 15
  · subst h
    cases y
    · exact absent_tray_lawful (by decide +kernel)
    · have t : lawful.bins[(15 : Fin 16)].tray .b = ⟨.active, some ⟨500000, 100000, 4, 4, 10000, 10000, .row⟩, 5, 3, 1⟩ ∧
          lawful.bins[(15 : Fin 16)].active = some .b ∧ pocketsHeld 15 .b lawful.heads.west = 0 ∧
          pocketsHeld 15 .b lawful.heads.east = 0 := by decide +kernel
      dsimp only [State.trayLawful]
      rw [t.1, t.2.1, t.2.2.1, t.2.2.2]
      exact ⟨by decide, by decide, (fun g h => by cases h; decide), by decide, fun _ => ⟨_, rfl⟩, by decide, by decide,
        by decide, ⟨fun _ => rfl, fun _ => rfl⟩⟩
  · exact absent_tray_lawful (out b h y (by cases y <;> decide))

theorem lawful_rail : lawful.railLawful := by
  have q : (lawful.head .west).queue =
      [granted 1 .pick 0 (.socket 63) 0 500000, granted 2 .place 1 (.socket 62) 0 400000] := by decide +kernel
  refine ⟨by unfold State.railClear; decide +kernel, fun h => ?_, ?_⟩
  · cases h
    · refine ⟨fun _ => ⟨⟨3, by decide +kernel⟩, by decide +kernel, ?_⟩, by decide +kernel, by decide +kernel⟩
      intro o ho _
      rw [q] at ho
      simp only [List.mem_cons, List.not_mem_nil, or_false] at ho
      rcases ho with rfl | rfl <;> exact ⟨_, rfl, by decide +kernel⟩
    · refine ⟨fun _ => ⟨⟨12, by decide +kernel⟩, by decide +kernel, ?_⟩, by decide +kernel, by decide +kernel⟩
      intro o ho
      have e : (lawful.head .east).queue = [] := by decide +kernel
      rw [e] at ho
      cases ho
  · have d : lawful.deck[(16 : Fin 18)] = some ⟨50000, 0⟩ ∧ lawful.deck[(17 : Fin 18)] = some ⟨1550000, 0⟩ := by
      decide +kernel
    simp [State.parksLawful, d]
    decide

/-- A step from the lawful state, and the conditions of the operations' clauses. -/
theorem witness_ClearanceKept :
    step lawful = .next (after .tick { lawful with pending := [] }) ∧ lawful.queuesLawful ∧ lawful.traysLawful ∧
    lawful.railLawful ∧ lawful.railClear ∧ (lawful.head .west).base = some 3 ∧
    (lawful.head .west).holdings.lo ≤ 3 ∧ 3 ≤ (lawful.head .west).holdings.hi ∧
    (∀ o ∈ (lawful.head .west).queue, o.state = .outstanding → ∀ r, o.resolved = some r →
      (lawful.head .west).holdings.lo ≤ r.span.lo ∧ r.span.hi ≤ (lawful.head .west).holdings.hi) := by
  refine ⟨rfl, fun h => ?_, lawful_trays, lawful_rail, lawful_rail.1, by decide +kernel, by decide +kernel,
    by decide +kernel, ?_⟩
  · cases h
    · refine ⟨by decide +kernel, by decide +kernel, by decide +kernel, by decide +kernel, by decide +kernel,
        by decide +kernel, ?_, by decide +kernel⟩
      have q : (lawful.head .west).queue =
          [granted 1 .pick 0 (.socket 63) 0 500000, granted 2 .place 1 (.socket 62) 0 400000] := by decide +kernel
      intro i o hi ha
      rw [q] at hi
      have m := List.mem_of_getElem? hi
      simp only [List.mem_cons, List.not_mem_nil, or_false] at m
      rcases m with rfl | rfl <;> exact absurd ha (by decide)
    · have q : (lawful.head .east).queue = [] := by decide +kernel
      simp [HeadRecord.queueLawful, q]
      decide +kernel
  · have q : (lawful.head .west).queue =
        [granted 1 .pick 0 (.socket 63) 0 500000, granted 2 .place 1 (.socket 62) 0 400000] := by decide +kernel
    intro o ho _ r hr
    rw [q] at ho
    simp only [List.mem_cons, List.not_mem_nil, or_false] at ho
    rcases ho with rfl | rfl <;> cases hr <;> decide +kernel

theorem witness_ReadyPositionClipped :
    (headsReady (inLot .run)).railClear ∧ ((headsReady (inLot .run)).head .east).holdings.lo ≤ 15 := by
  unfold State.railClear
  decide +kernel

/-- Bin 15 with tray B ACTIVE at an allocated count and tray A READY. -/
def filling (n : Nat) : State :=
  (State.reset.modTray 15 .a fun _ => ⟨.ready, some ⟨500000, 100000, 4, 4, 10000, 10000, .row⟩, 0, 0, 0⟩).modBin 15 fun x =>
    { x with active := some .b, trayB := ⟨.active, some ⟨500000, 300000, 4, 4, 10000, 10000, .row⟩, n, 3, 1⟩ }

/-- A PENDING order of the planner. -/
def pendingOrder (tag : Nat) (a : Action) (loc : Location) : Order :=
  { granted tag a 0 loc 0 0 with state := .pending, resolved := none }

/-- R139: West reports zone 11 beside East in zone 12, and keeps zone 10. -/
theorem test_reported_position_is_clipped :
    let t := standAt .west ⟨1100000, 0⟩ (headsReady (inLot .run))
    (t.head .west).holdings = ⟨10, 10⟩ ∧ t.events[(2 : Fin 21)] = ⟨true, some 0, 1⟩ := by decide +kernel

/-- A tray of 4 by 4 pockets, one that closes with another READY behind it, a divert bin, and a bin without a tray. -/
theorem witness_PocketPositions :
    (⟨0, 0, 32, 32, 1000, 60000, .serpentine⟩ : TrayGeometry).inRange = true ∧
    1023 < (⟨0, 0, 32, 32, 1000, 60000, .serpentine⟩ : TrayGeometry).capacity ∧
    stowTray (filling 5) 15 = some (15, .b) ∧ stowTray (filling 15) 15 = some (15, .b) ∧
    ((filling 15).bins[(15 : Fin 16)].tray .b).capacity ≤ ((filling 15).bins[(15 : Fin 16)].tray .b).allocated + 1 ∧
    ((filling 15).bins[(15 : Fin 16)].tray TrayId.b.other).state = .ready ∧
    stowTray { filling 5 with binPolicy := (filling 5).binPolicy.set 3 (some ⟨.divert, 15⟩) } 3 = some (15, .b) ∧
    stowTray (filling 5) 3 = none ∧ (filling 5).bins[(3 : Fin 16)].blocked = false ∧
    ((filling 5).modBin 3 fun x => { x with blocked := true }).bins[(3 : Fin 16)].blocked = true := by decide +kernel

/-- R47: pocket 32 of a SERPENTINE tray stands behind pocket 31, in the last column. -/
theorem test_serpentine_turns_round :
    (⟨0, 0, 32, 32, 1000, 2000, .serpentine⟩ : TrayGeometry).pocket 32 = ⟨31000, 2000⟩ ∧
    (⟨0, 0, 32, 32, 1000, 2000, .row⟩ : TrayGeometry).pocket 32 = ⟨0, 2000⟩ := by decide

/-- A geometry that passes, one out of range, and one whose fourth corner fails alone. -/
theorem witness_CornersSuffice :
    trayFailure State.reset ⟨500000, 100000, 4, 4, 10000, 10000, .row⟩ = none ∧
    trayFailure State.reset ⟨500000, 100000, 33, 4, 10000, 10000, .row⟩ = some 0 ∧
    trayFailure State.reset ⟨100000, 100000, 4, 4, 10000, 10000, .row⟩ = some 1 := by decide +kernel

/-- R51: 999 µm at 1,000 µm per ms still takes 1 ms, and a sum below 50 becomes 50. -/
theorem test_move_timeout_rounds_up_and_clamps :
    moveTimeout ⟨1000, 500, 100, 200, 300⟩ .pick ⟨0, 0⟩ ⟨999, 1000⟩ = 303 ∧
    moveTimeout ⟨1000, 500, 10, 0, 0⟩ .park ⟨0, 0⟩ ⟨0, 0⟩ = 50 ∧
    moveTimeout ⟨50, 50, 2000, 0, 2000⟩ .place ⟨0, 0⟩ ⟨1599999, 599999⟩ = 10000 := by decide

/-- A front order that may ask alone, one refused by the arbiter, a pair that may ask and one that may not; and the states
the clauses on a command's end name: no point open, one that acts, and two. -/
theorem witness_MoveTimeout :
    let motion : Motion := ⟨1, 1, 0, 0, 0⟩
    let one (x : Nat) := westOrders [pendingOrder 1 .pick (.input 0)]
      { headsReady (inLot .run) with deck := (headsReady (inLot .run)).deck.set 0 (some ⟨x, 0⟩) }
    let pair := westOrders [pendingOrder 1 .pick (.socket 63), pendingOrder 2 .place (.socket 63)]
      (headsReady (withDevice .tested (inLot .run)))
    let o := pendingOrder 1 .pick (.input 0)
    1 ≤ motion.vx ∧ 1 ≤ motion.vy ∧
    frontPending (headsReady (inLot .run)).heads.west = none ∧ frontPending (one 500000).heads.west = some o ∧
    lastTarget twoUnderWay.heads.west = ⟨400000, 0⟩ ∧ (∀ q ∈ (one 500000).heads.west.queue, q.state ≠ .outstanding) ∧
    pairPlace (one 500000).heads.west o = none ∧ mayAsk .west o (one 500000) = true ∧
    acceptsClaim .west (claimSpan (claimOf .west o (one 500000))) (one 500000) = true ∧
    acceptsClaim .west (claimSpan (claimOf .west o (one 1100000))) (one 1100000) = false ∧
    mayAsk .west o { one 500000 with lotState := .pause } = false ∧
    pairPlace pair.heads.west (pendingOrder 1 .pick (.socket 63)) = some (pendingOrder 2 .place (.socket 63)) ∧
    (grantable .west pair).isSome = true ∧ grantable .west (headsReady (inLot .run)) = none ∧
    (one 500000).points = .none ∧ moves (one 500000) = [] ∧
    (pair.heads.west.queue = [] ++ pendingOrder 1 .pick (.socket 63) :: [pendingOrder 2 .place (.socket 63)] ∧
      (pair.heads.west.queue.map Order.tag).Nodup) ∧
    moves { one 500000 with points := ⟨⟨true, false⟩, ⟨false, false⟩⟩ } = [.grant .west] ∧
    2 ≤ (moves (({ one 500000 with points := ⟨⟨true, true⟩, ⟨false, false⟩⟩ } : State).modHead .east fun x =>
      { x with queue := [o] })).length := by decide +kernel

/-! ## Witnesses: requests -/

/-- A cell loaded for its first lot: every table LOT START asks for, and socket 63 EMPTY. -/
def loadedCell : State :=
  { (headsReady (inLot .idle)).modSocket 63 fun x => { x with state := .empty } with
    siteGeometry := (Vector.replicate 64 (some none)).set 63 (some (some ⟨500000, 100000, 15, .either⟩))
    deck := ((Vector.replicate 18 (some ⟨500000, 0⟩)).set 16 (some ⟨50000, 0⟩)).set 17 (some ⟨1550000, 0⟩)
    nozzleTable := Vector.replicate 8 (some ⟨0, 0⟩)
    lotTable := some lotParameters
    serviceList := [63] }

/-- What the last response says: result code, ticket and fields. -/
def answer (c : Instr) (s : State) : List Byte :=
  match (after c (busyUp s)).upstream.own.find? fun f => f.kind == kindMgmtResponse with
  | some f => f.payload
  | none => []

theorem witness_RequestsCheckedFirst :
    (after .resetNAssertion State.reset).resetLow = true ∧ (after (.powerOn 31) State.reset).ownAddress = none ∧
    dueTimers (after (.powerOn 31) State.reset) = [] ∧ dueTimers State.reset = [] ∧
    State.reset.ownAddress = some 0 ∧ (⟨31, 0, 0, []⟩ : Request).source = 31 ∧ (⟨0, 0, 0, []⟩ : Request).source = 0 ∧
    238 < (ask (List.replicate 239 0)).fields.length ∧ State.reset.hears (ask [0]) = true ∧
    (ask [0]).fields.length ≠ 0 ∧ State.reset.hears (ask []) = true ∧ State.reset.lotState ∉ [LotState.run, .pause, .drain] ∧
    (ask [0, 0, 0]).fields.length < 4 ∧ TableId.ofNum (fieldAt (ask [10, 0, 0, 0, 1]).fields 0 1) = some .timebase ∧
    ((ask [10, 0, 0, 0, 1]).fields.length - 4) % TableId.timebase.entryBytes ≠ 0 ∧
    tableWriteFits (ask [8, 2, 0, 0]).fields = true ∧ (inLot .bypass).lotState = .bypass ∧
    (busyUp State.reset).upstream.own.length < 32 ∧ (busyUp State.reset).upstream.sending.isSome = true := by decide +kernel

theorem witness_LotStartChecksThenRuns :
    State.reset.hears (ask []) = true ∧ (ask []).fields = [] ∧ State.reset.lotState = .idle ∧
    (¬ ∀ i : Fin 5, State.reset.node[i] ≠ none) ∧
    (∀ i : Fin 5, loadedCell.node[i] ≠ none) ∧ (∀ i : Fin 64, loadedCell.siteGeometry[i] ≠ none) ∧
    (∀ i : Fin 18, loadedCell.deck[i] ≠ none) ∧ (∀ i : Fin 8, loadedCell.nozzleTable[i] ≠ none) ∧
    (∀ i : Fin 2, loadedCell.motion[i] ≠ none) ∧ loadedCell.lotTable ≠ none ∧ loadedCell.serviceList ≠ [] ∧
    (∃ i : Fin 64, loadedCell.sockets[i].state ≠ .off) ∧ (∀ i : Fin 64, loadedCell.sockets[i].state ≠ .ready) ∧
    loadedCell.lotState = .idle ∧ loadedCell.hears (ask []) = true := by decide +kernel

/-- R158: STATE with NODE's table id, with SERVICE_LIST's for a cell without one; nothing is missing in a loaded cell. -/
theorem test_lotStart_names_what_is_missing :
    answer (.lotStart (ask [])) State.reset = [3, 0, 0] ∧
    answer (.lotStart (ask [])) { loadedCell with serviceList := [] } = [3, 0, 8] ∧ startObstacle loadedCell = none := by
  decide +kernel

theorem witness_LotPauseResumeBypass :
    (inLot .run).hears (ask []) = true ∧ (inLot .drain).lotState = .drain ∧ (inLot .pause).lotState = .pause ∧
    ({ inLot .pause with remembered := some .drain } : State).remembered = some .drain ∧
    (inLot .idle).lotState = .idle ∧ (inLot .bypass).lotState = .bypass := by decide +kernel

/-- R159: DRAIN is remembered, kept by a second LOT PAUSE, and the state LOT RESUME returns to. -/
theorem test_lotPause_remembers :
    let p := after (.lotPause (ask [])) (inLot .drain)
    (p.lotState, p.remembered) = (.pause, some .drain) ∧ (after (.lotPause (ask [])) p).remembered = some .drain ∧
    resumeState p = .drain ∧ answer (.lotResume (ask [])) (inLot .run) = [3, 0] := by decide +kernel

/-- R162, R16: the answer to BYPASS ENTER is OK, and BYPASS EXIT returns to IDLE. -/
theorem test_bypassEnter_and_bypassExit :
    answer (.bypassEnter (ask [])) State.reset = [0, 0] ∧
    (after (.bypassExit (ask [])) (after (.bypassEnter (ask [])) State.reset)).lotState = .idle := by decide +kernel

theorem witness_LotDrainAnswers :
    (inLot .run).hears (ask []) = true ∧ 4 ≤ (fourTickets (inLot .run)).completions.length ∧
    (inLot .run).completions.length < 4 ∧
    ((fourTickets (inLot .drain)).completions.find? fun c => c.code == 0x04 && c.subject == .lot) =
      some ⟨3, 0x04, .lot⟩ ∧
    drainCondition (inLot .drain) = true ∧ drainCondition (withDevice .testing (inLot .drain)) = false ∧
    (inLot .drain).completions.find? (fun c => c.code == 0x04 && c.subject == .lot) = none ∧
    4 ≤ ({ inLot .drain with completions := List.replicate 4 ⟨1, codeHeadRecover, .head .west⟩ } : State).completions.length ∧
    ({ inLot .pause with remembered := some .run } : State).remembered ≠ some .drain ∧
    (let u := settle (fourTickets (inLot .drain))
     u.timer (.yield .west) ≠ .atOnce ∧ u.timer (.yield .east) ≠ .atOnce ∧ u.lotState = .drain ∧ drainCondition u = true) ∧
    (let u := settle (inLot .run)
     u.timer (.yield .west) ≠ .atOnce ∧ u.timer (.yield .east) ≠ .atOnce ∧ u.lotState ≠ .drain ∧ u.lotState ≠ .pause) := by decide +kernel

/-- The manual's drain (10): two tickets are held, the counter reads 4, the deck is not empty, ticket 5 is taken. -/
theorem test_lotDrain_takes_the_next_ticket :
    let s := { withDevice .testing (inLot .drain) with
      lotTable := some lotParameters, ticketCounter := 4
      completions := [⟨3, codeHeadRecover, .head .east⟩, ⟨4, codeSocketDisable, .socket 21⟩] }
    answer (.lotDrain (ask [])) s = [1, 5] ∧
    (after (.lotDrain (ask [])) s).completions.map Completion.ticket = [3, 4, 5] := by decide +kernel

/-- A complete drain in which nozzle East 3 is BLOCKED and holds the device of record 95. -/
def heldByBlocked : State :=
  ((headsReady (inLot .drain)).modNozzle .east 3 fun x => { x with record := some 95, blocked := true }).setPart 95
    (some ⟨7, .nozzle .east 3, [], .hold, none⟩)

theorem witness_LotEndReturnsAndParks :
    (inLot .drain).hears (ask []) = true ∧ drainCondition (withDevice .testing (inLot .drain)) = false ∧
    drainCondition (headsReady (inLot .drain)) = true ∧ (headsReady (inLot .drain)).counters.returned ≤ 4294967295 ∧
    ((headsReady (inLot .drain)).head .west).state = .ready ∧ ((inLot .drain).head .east).state ≠ .ready ∧
    (headsReady (inLot .drain)).counters.removed ≤ 4294967295 ∧ drainCondition heldByBlocked = true ∧
    heldByBlocked.counters.removed ≤ 4294967295 ∧ (heldByBlocked.head .east).nozzles[(3 : Fin 4)].record = some 95 ∧
    (∀ k : Fin 96, (heldByBlocked.parts[k]).all fun r => heldByBlocked.recordAt r.place == some k) ∧
    ∀ i : Fin 64, heldByBlocked.sockets[i].record = none := by decide +kernel

/-- R38, R31, log 36: the device on a BLOCKED nozzle leaves custody, and the mark stays. -/
theorem test_lotEnd_empties_a_blocked_nozzle :
    let t := after (.lotEnd (ask [])) heldByBlocked
    t.parts[(95 : Fin 96)] = none ∧ t.counters.removed = 1 ∧ t.counters.returned = 0 ∧
      (t.head .east).nozzles[(3 : Fin 4)] = ⟨none, true, none⟩ := by decide +kernel

/-- R38, R144: one device is returned, and both heads hold their park zones. -/
theorem test_lotEnd_returns_and_parks :
    let t := after (.lotEnd (ask [])) { headsReady shuttleSlots with lotState := .drain }
    t.lotState = .idle ∧ t.counters.returned = 1 ∧ t.inputs[(6 : Fin 8)].taken = none ∧
    (t.head .west).holdings = ⟨0, 0⟩ ∧ (t.head .east).holdings = ⟨15, 15⟩ := by decide +kernel

theorem witness_ResetClearsAndAnswers :
    (fourTickets (inLot .bypass)).hears (ask []) = true ∧ (fourTickets (inLot .bypass)).completions.length ≤ 4 ∧
    (fourTickets (inLot .bypass)).upstream.sending = none ∧
    (busyUp (inLot .run)).upstream.sending = some ⟨5, 0, 0x54, 0, 0, []⟩ := by decide +kernel

/-- R169: 4 tickets are cancelled, and their COMPLETION frames carry correlators 0 to 3. -/
theorem test_reset_cancels_the_tickets :
    let t := after (.reset (ask [])) (busyUp (fourTickets (inLot .drain)))
    t.upstream.own.map (fun f => (f.correlator, f.payload)) =
      [(7, [0, 0, 4]), (0, [3, 0x04, 2, 255]), (1, [4, 0x31, 2, 21]), (2, [5, 0x50, 2, 1]), (3, [6, 0x31, 2, 30])] := by
  decide +kernel

/-- A write of each table at the end of its range, in IDLE; a protected one in RUN; an entry that fails; NODE twice 5. -/
theorem witness_TableWriteTakesWholeWrites :
    State.reset.hears (ask [10, 0, 0, 0, 250, 0, 100, 0]) = true ∧
    tableWriteFits (ask [10, 0, 0, 0, 250, 0, 100, 0]).fields = true ∧ State.reset.lotState ≠ .bypass ∧
    TableId.ofNum (fieldAt (ask [11, 0, 0, 0]).fields 0 1) = none ∧ tableWriteFits (ask [11, 0, 0, 0]).fields = true ∧
    TableId.ofNum (fieldAt (ask [10, 2, 0, 0]).fields 0 1) = some .timebase ∧ 1 < fieldAt (ask [10, 2, 0, 0]).fields 1 1 ∧
    (inLot .run).lotState ≠ .idle ∧ TableId.timebase.size < 1 + 1 ∧ 0 + 1 ≤ TableId.timebase.size ∧
    entryPasses .timebase State.reset 0 [250, 0, 100, 0] = true ∧
    entryPasses .timebase State.reset 0 [0, 0, 100, 0] = false ∧
    entryPasses .binPolicy State.reset 15 [1, 14] = true ∧ entryPasses .binPolicy State.reset 15 [1, 15] = false ∧
    entryPasses .motion State.reset 1 (motionBytes (some ⟨50, 5000, 2000, 2000, 2000⟩)) = true ∧
    entryPasses .lot State.reset 0 (lotBytes (some lotParameters)) = true ∧
    entryPasses .lot State.reset 0 (lotBytes (some { lotParameters with testLimit := 99 })) = false ∧
    entryPasses .binMap State.reset 255 [2, 15, 15, 1] = true ∧ entryPasses .binMap State.reset 255 [2, 15, 16, 1] = false ∧
    entryPasses .binMap State.reset 255 [3, 16, 16, 1] = true ∧ entryPasses .binMap State.reset 255 [4, 0, 0, 0] = false ∧
    entryPasses .forwarding State.reset 31 [1, 30, 31, 0, 255, 2, 2] = true ∧
    entryPasses .forwarding State.reset 31 [1, 31, 31, 0, 255, 2, 2] = false ∧
    entryPasses .forwarding State.reset 31 [0, 31, 32, 0, 255, 3, 3] = true ∧
    tableWriteFits (ask [0, 0, 0, 0, 5, 1, 2, 3, 30]).fields = true ∧
    tableWriteFits (ask [0, 0, 3, 0, 5, 5]).fields = true := by decide +kernel

/-- R165, R183: TIMEBASE is answered with its id and the cursor 1; NODE with address 5 twice names index 4. -/
theorem test_tableWrite_answers :
    answer (.tableWrite (ask [10, 0, 0, 0, 250, 0, 100, 0])) State.reset = [0, 0, 10, 1, 0] ∧
    answer (.tableWrite (ask [0, 0, 3, 0, 5, 5])) State.reset = [4, 0, 4, 0] := by decide +kernel

/-- R4: of addresses 3, 2, 30 and 2 the second 2 is named; the own address 0 and an address 31 are named where they stand. -/
theorem test_tableWrite_node_index :
    answer (.tableWrite (ask [0, 0, 1, 0, 3, 2, 30, 2])) State.reset = [4, 0, 4, 0] ∧
    answer (.tableWrite (ask [0, 0, 1, 0, 3, 2, 0, 2])) State.reset = [4, 0, 3, 0] ∧
    answer (.tableWrite (ask [0, 0, 4, 0, 31])) State.reset = [4, 0, 4, 0] := by decide +kernel

/-- R165, R171: a protected table in RUN is answered ACCESS with the event. -/
theorem test_tableWrite_access :
    answer (.tableWrite (ask [10, 0, 0, 0, 250, 0, 100, 0])) (inLot .run) = [5, 0] ∧
    (after (.tableWrite (ask [10, 0, 0, 0, 250, 0, 100, 0])) (inLot .run)).events[(20 : Fin 21)] =
      ⟨true, some 10, 1⟩ := by decide +kernel

theorem witness_ServiceListWriteModes :
    State.reset.hears (ask [8, 0, 0, 0, 63]) = true ∧ tableWriteFits (ask [8, 0, 0, 0, 63]).fields = true ∧
    TableId.ofNum (fieldAt (ask [8, 0, 0, 0, 63]).fields 0 1) = some .serviceList ∧
    tableWriteFits (ask [8, 3, 0, 0, 63]).fields = true ∧ 2 < fieldAt (ask [8, 3, 0, 0, 63]).fields 1 1 ∧
    tableWriteFits (ask [8, 2, 0, 0]).fields = true ∧
    64 < 0 + ((ask ([8, 0, 0, 0] ++ List.replicate 65 0)).fields.drop 4).length ∧
    ((ask [8, 1, 0, 0, 0, 64]).fields.drop 4)[1]? = some 64 ∧
    (∀ b ∈ (ask [8, 1, 0, 0, 0, 63]).fields.drop 4, b.toNat < 64) := by decide +kernel

/-- R166: an APPEND to a list of one socket leaves its pointers; socket 64 is refused with its position. -/
theorem test_tableWrite_serviceList :
    (after (.tableWrite (ask [8, 1, 0, 0, 0])) loadedCell).serviceList = [63, 0] ∧
    answer (.tableWrite (ask [8, 1, 0, 0, 0])) loadedCell = [0, 0, 8, 2, 0, 2] ∧
    answer (.tableWrite (ask [8, 1, 0, 0, 64])) loadedCell = [4, 0, 1, 0] := by decide +kernel

theorem witness_ReadsAnswerFromOneState :
    State.reset.hears (ask [10, 0, 0, 1, 0]) = true ∧ TableId.ofNum (fieldAt (ask [11, 0, 0, 1, 0]).fields 0 1) = none ∧
    TableId.ofNum (fieldAt (ask [10, 0, 0, 1, 0]).fields 0 1) = some .timebase ∧
    fieldAt (ask [10, 0, 0, 0, 0]).fields 3 2 = 0 ∧
    TableId.binMap.size < fieldAt (ask [6, 255, 0, 2, 0]).fields 1 2 + fieldAt (ask [6, 255, 0, 2, 0]).fields 3 2 ∧
    TableId.binMap.readMost < fieldAt (ask [6, 0, 0, 48, 0]).fields 3 2 ∧
    fieldAt (ask [6, 209, 0, 47, 0]).fields 1 2 + fieldAt (ask [6, 209, 0, 47, 0]).fields 3 2 ≤ TableId.binMap.size ∧
    fieldAt (ask [6, 209, 0, 47, 0]).fields 3 2 ≤ TableId.binMap.readMost ∧
    (ask [2, 63, 2, 0, 1, 0, 1]).fields.length = 7 ∧ 64 < 63 + 2 ∧
    (sectionBytes State.reset [0b11, 43, 21, 0, 1, 0, 1] 0).length +
      (sectionBytes State.reset [0b11, 43, 21, 0, 1, 0, 1] 1).length = 239 := by decide +kernel

/-- R168, R183: TIMEBASE counts as written from power-on with 250 and 100, and NODE entry 0 is unwritten. -/
theorem test_tableRead_answers :
    answer (.tableRead (ask [10, 0, 0, 1, 0])) State.reset = [0, 0, 0, 0, 1, 250, 0, 100, 0] ∧
    answer (.tableRead (ask [0, 0, 0, 1, 0])) State.reset = [0, 0, 0, 0, 0, 255] := by decide +kernel

/-- R168: a SERVICE_LIST read carries the list's length behind the cursor. -/
theorem test_tableRead_serviceList :
    answer (.tableRead (ask [8, 0, 0, 2, 0])) { State.reset with serviceList := [63] } = [0, 0, 0, 0, 1, 1, 63, 0, 255] := by
  decide +kernel

theorem test_cursorReset_answers :
    (after (.cursorReset (ask [10])) { State.reset with cursors := State.reset.cursors.set 10 1 }).cursors[(10 : Fin 11)]
      = 0 ∧ answer (.cursorReset (ask [11])) State.reset = [6, 0] := by decide +kernel

/-- R176, R184: the lot section of the power-on state; 21 sockets do not fit behind it. -/
theorem test_statusRead_answers :
    answer (.statusRead (ask [1, 0, 1, 0, 1, 0, 1])) State.reset = [0, 0, 0, 255, 0, 0, 0, 0, 0, 0] ∧
    answer (.statusRead (ask [3, 43, 21, 0, 1, 0, 1])) State.reset = [4, 0, 1, 0] := by decide +kernel

theorem witness_EventRequestsActOnNamedKinds :
    State.reset.hears (ask [0, 0, 0x20, 0]) = true ∧ 2097152 ≤ fieldAt (ask [0, 0, 0x20, 0]).fields 0 4 ∧
    fieldAt (ask [0xFF, 0xFF, 0x1F, 0]).fields 0 4 < 2097152 ∧
    (busyUp State.reset).upstream.sending.isSome = true ∧ (busyUp State.reset).upstream.own.length + 1 + 0 ≤ 32 := by
  decide +kernel

/-- The manual's EVENT ACK after the congested notice (11) returns what was recorded, kind 1 before kind 3. -/
theorem test_eventAck_returns_the_records :
    let s := { raiseEvent .pickMiss 4100233 congested with upstream := .initial }
    answer (.eventAck (ask [0b1010, 0, 0, 0])) s = [0, 0, 1, 2, 0, 0, 0, 2, 0, 1, 0x89, 0x90, 0x3E, 0, 1, 0] ∧
    (after (.eventAck (ask [0b1010, 0, 0, 0])) s).events[(3 : Fin 21)] = ⟨false, none, 0⟩ := by decide +kernel

/-- R172: the NOTICE of a kind already pending follows the response. -/
theorem test_eventMask_announces_behind_the_response :
    (after (.eventMask (ask [0, 0x10, 0, 0])) (noteEvent .trayFull 3 (busyUp State.reset))).upstream.own.map
      (fun f => (f.kind, f.correlator, f.payload)) = [(0x52, 7, [0, 0]), (0x54, 0, [12, 3, 0, 0, 0])] := by decide +kernel

theorem witness_SocketEnableDisable :
    (inLot .run).hears (ask [63]) = true ∧ 64 ≤ fieldAt (ask [64]).fields 0 1 ∧ fieldAt (ask [63]).fields 0 1 = 63 ∧
    (inLot .run).sockets[(63 : Fin 64)].state = .off ∧
    (withDevice .off (inLot .run)).siteGeometry[(63 : Fin 64)] = some (some ⟨500000, 100000, 15, .either⟩) ∧
    (∀ g, (inLot .run).siteGeometry[(63 : Fin 64)] ≠ some (some g)) ∧
    ((inLot .run).modSocket 63 fun x => { x with state := .empty }).sockets[(63 : Fin 64)].plan = none ∧
    (let s := (westOrders [{ granted 1 .place 0 (.socket 63) 0 0 with state := .pending }] (inLot .run)).modSocket 63
        fun x => { x with state := .empty, plan := some 0 }
     (∃ o ∈ (s.head .west).queue, o.plan = some 0) ∧ ∀ o ∈ (s.head .west).queue, o.plan = some 0 →
      o.action = .place ∧ o.location = some (.socket 63) ∧ (o.state = .pending ∨ o.state = .waitingZone)) ∧
    (withDevice .testing (inLot .run)).sockets[(63 : Fin 64)].state ≠ .off ∧
    (withDevice .testing (inLot .run)).sockets[(63 : Fin 64)].state ≠ .empty ∧
    (withDevice .testing (inLot .run)).completions.length < 4 ∧
    ((fourTickets (inLot .run)).completions.find? fun c => c.code == 0x31 && c.subject == .socket 30) =
      some ⟨6, 0x31, .socket 30⟩ ∧
    ((fourTickets (inLot .run)).completions.find? fun c => c.code == 0x31 && c.subject == .socket 63) = none ∧
    (let s := (withDevice .testing (inLot .run)).modSocket 63 fun x => { x with pendingDisable := some .fault }
     s.sockets[(63 : Fin 64)].pendingDisable ≠ none) := by
  refine ⟨by decide +kernel, by decide +kernel, by decide +kernel, by decide +kernel, by decide +kernel, ?_,
    by decide +kernel, by decide +kernel, by decide +kernel, by decide +kernel, by decide +kernel, by decide +kernel,
    by decide +kernel, by decide +kernel⟩
  intro g h
  have : (inLot .run).siteGeometry[(63 : Fin 64)] = none := by decide +kernel
  rw [this] at h
  cases h

/-- R119: a cancelled PLACE behind the front order and ahead of another opens a grant point; the last of the queue, R127, none. -/
theorem test_cancel_ahead_of_others_opens_a_grant_point :
    let o (tag : Nat) (i : Fin 64) : Order := { granted tag .place 0 (.socket i) 0 0 with state := .pending }
    (cancelPlacesInto 63 (westOrders [o 1 0, o 2 63, o 3 1] (inLot .run))).points.grant.west = true ∧
    (cancelPlacesInto 63 (westOrders [o 1 0, o 2 63] (inLot .run))).points.grant.west = false ∧
    (cancelPlacesInto 63 (westOrders [o 1 63] (inLot .run))).points.grant.west = true := by decide +kernel

theorem test_socketEnable_needs_geometry :
    (after (.socketEnable (ask [63])) (withDevice .off (inLot .idle))).sockets[(63 : Fin 64)].state = .empty ∧
    answer (.socketEnable (ask [63])) (inLot .idle) = [3, 0] := by decide +kernel

/-- The manual's full list (10): BUSY with the notify flag sets slot-wanted, and socket 21 joins ticket 4. -/
theorem test_socketDisable_with_a_full_list :
    let s := { fourTickets (withDevice .testing (inLot .drain)) with lotTable := some lotParameters }
    answer (.socketDisable (askNotify [63])) s = [2, 0] ∧ (after (.socketDisable (askNotify [63])) s).slotWanted = true ∧
    answer (.socketDisable (ask [21])) (s.modSocket 21 fun x => { x with state := .testing }) = [1, 4] := by decide +kernel

theorem witness_SocketClearResetsFaults :
    (inLot .run).hears (ask [63]) = true ∧ (ask [63]).fields.length = 1 ∧ (inLot .run).lotState ≠ .bypass ∧
    fieldAt (ask [63]).fields 0 1 = 63 := by decide +kernel

theorem test_socketClear_keeps_the_state :
    let t := after (.socketClear (ask [63])) ((withDevice .tested (inLot .run)).modSocket 63 fun x =>
      { x with faultCount := 15, faults := ⟨true, true, true, true⟩, pendingDisable := some .fault })
    t.sockets[(63 : Fin 64)] = ⟨.tested, some 0, none, ⟨false, false, false, false⟩, 0, some .fault, none⟩ := by
  decide +kernel

/-- A TRAY READY of bin 15, tray B, for 4 by 4 pockets at (500,000, 100,000). -/
def trayFields (order : Byte) : List Byte :=
  [15, 1] ++ leBytes 4 500000 ++ leBytes 4 100000 ++ [4, 4] ++ leBytes 2 10000 ++ leBytes 2 10000 ++ [order]

theorem witness_TrayRequestsFollowTrayState :
    State.reset.hears (ask (trayFields 1)) = true ∧ (ask (trayFields 1)).fields.length = 17 ∧
    16 ≤ fieldAt (ask [16, 0]).fields 0 1 ∧ 2 ≤ fieldAt (ask [0, 2]).fields 1 1 ∧
    fieldAt (trayFields 1) 0 1 = 15 ∧ fieldAt (trayFields 1) 1 1 = TrayId.b.num ∧
    (State.reset.bins[(15 : Fin 16)].tray .b).state = .absent ∧ 2 ≤ fieldAt (trayFields 2) 16 1 ∧
    trayFailure State.reset ⟨500000, 100000, 4, 4, 10000, 10000, .serpentine⟩ = none ∧
    State.reset.bins[(15 : Fin 16)].active = none ∧
    ((withTrayB .closing State.reset).bins[(15 : Fin 16)].tray .b).state = .closing ∧
    ((withTrayB .active State.reset).bins[(15 : Fin 16)].tray .b).outstanding = 1 ∧
    (State.reset.bins[(15 : Fin 16)].tray TrayId.b.other).state ≠ .ready := by decide +kernel

theorem test_trayReady_activates_the_first_tray :
    let t := after (.trayReady (ask (trayFields 1))) State.reset
    t.bins[(15 : Fin 16)].active = some .b ∧ t.bins[(15 : Fin 16)].trayB.state = .active ∧
    answer (.trayReady (ask (trayFields 1))) (withTrayB .closing State.reset) = [3, 0] := by decide +kernel

/-- R91: a pocket outstanding makes the withdraw BUSY; a FULL tray becomes ABSENT. -/
theorem test_trayWithdraw_answers :
    answer (.trayWithdraw (ask [15, 1])) (withTrayB .active State.reset) = [2, 0] ∧
    (after (.trayWithdraw (ask [15, 1])) (withTrayB .full State.reset)).bins[(15 : Fin 16)].trayB =
      ⟨.absent, none, 0, 0, 0⟩ := by decide +kernel

theorem witness_HeadRecoverBeginsRecovery :
    (inLot .run).hears (ask [1, 1]) = true ∧ (inLot .run).lotState ∈ [LotState.run, .pause, .drain] ∧
    2 ≤ fieldAt (ask [2, 0]).fields 0 1 ∧ 2 ≤ fieldAt (ask [1, 2]).fields 1 1 ∧
    fieldAt (ask [1, 1]).fields 0 1 = Head.east.num ∧ ((headsReady (inLot .run)).head .west).state = .ready ∧
    (recovering.head .east).state = .recovering ∧ (recovering.head .east).ticket = some 5 ∧
    ((inLot .run).head .east).state = .offline ∧ (inLot .run).completions.length < 4 ∧
    4 ≤ (fourTickets (inLot .run)).completions.length := by decide +kernel

/-- R130, R138: HEAD CONTROL with mode RESET goes to East's controller, and the answer is IN_PROGRESS with ticket 1. -/
theorem test_headRecover_sends_head_control :
    let t := after (.headRecover (ask [1, 1])) (inLot .run)
    t.downstream.sending = some ⟨3, 0, 0x33, 0, 0, [1]⟩ ∧ (t.head .east).state = .recovering ∧
    t.timer (.recover .east) = .running 10000 ∧ answer (.headRecover (ask [1, 1])) (inLot .run) = [1, 1] := by
  decide +kernel

theorem witness_PurgeAndLocateSelectedRecord :
    (inLot .run).hears (ask [0, 95, 0, 0, 0]) = true ∧ fieldAt (ask [0, 96, 0, 0, 0]).fields 1 4 = 96 ∧
    2 < fieldAt (ask [3, 0, 0, 0, 0]).fields 0 1 ∧ fieldAt (ask [1, 0, 0, 0, 0]).fields 1 4 = 0 ∧
    Place.ofCode (fieldAt (ask [2, 3, 8, 0, 0]).fields 1 1) (fieldAt (ask [2, 3, 8, 0, 0]).fields 2 1) = none ∧
    Place.ofCode (fieldAt (ask [2, 0, 63, 0, 0]).fields 1 1) (fieldAt (ask [2, 0, 63, 0, 0]).fields 2 1) =
      some (.socket 63) ∧
    (withDevice .soaking (inLot .run)).parts[(0 : Fin 96)] = some ⟨4100233, .socket 63, [], .none, none⟩ ∧
    (withDevice .soaking (inLot .run)).recordAt (.socket 63) = some 0 ∧
    (withDevice .testing (inLot .run)).sockets[(63 : Fin 64)].state = .testing ∧
    ((withDevice .soaking (inLot .run)).modPart 0 fun r => { r with plan := some 0 }).parts[(0 : Fin 96)] =
      some ⟨4100233, .socket 63, [], .none, some 0⟩ ∧
    (inLot .run).parts[(95 : Fin 96)] = none ∧ (inLot .run).recordAt (.socket 63) = none := by decide +kernel

/-- R35, R68: the answer carries index and tag, and the socket is EMPTY. -/
theorem test_partPurge_empties_the_socket :
    let t := after (.partPurge (ask [2, 0, 63, 0, 0])) (withDevice .soaking (inLot .run))
    t.sockets[(63 : Fin 64)].state = .empty ∧ t.parts[(0 : Fin 96)] = none ∧ t.counters.removed = 1 ∧
    answer (.partPurge (ask [2, 0, 63, 0, 0])) (withDevice .soaking (inLot .run)) = [0, 0, 0, 0x89, 0x90, 0x3E, 0] := by
  decide +kernel

/-- R36, R182: by tag; socket 63 in SOAKING, one attempt, no disposition, not reserved. -/
theorem test_locate_names_the_socket :
    answer (.locate (ask ([1] ++ leBytes 4 4100233))) ((withDevice .soaking (inLot .run)).modPart 0 fun r =>
      { r with attempts := [(2, 9)] }) =
      [0, 0, 0, 0x89, 0x90, 0x3E, 0, 0, 63, 3, 1, 2, 9, 255, 255, 255, 255, 255, 255] := by decide +kernel

/-- A tick on a state with a device under test, and with one in a soak. -/
theorem witness_StepKeepsLaws :
    step { testing63 with pending := [.tick] } = .next (after .tick testing63) ∧ testing63.linkBounded ∧
    testing63.ticketsLawful ∧ testing63.timersLawful ∧ testing63.eventsLawful ∧ testing63.custodyLawful ∧
    testing63.testsTimed := by
  refine ⟨rfl, ?_, ?_, ?_, ?_, ⟨?_, ?_⟩, ?_⟩
  · unfold State.linkBounded PortState.bounded
    decide +kernel
  · unfold State.ticketsLawful
    decide +kernel
  · have f : ∀ g : Fin 16, testing63.timer (.fill g) = .clear := by decide +kernel
    have y : testing63.timer (.yield .west) = .clear ∧ testing63.timer (.yield .east) = .clear := by decide +kernel
    have o : testing63.timer (.order .west) = .clear ∧ testing63.timer (.order .east) = .clear := by decide +kernel
    have r : testing63.timer (.recover .west) = .clear ∧ testing63.timer (.recover .east) = .clear := by decide +kernel
    have k : ∀ i : Fin 64, testing63.timer (.soak i) = .clear := by decide +kernel
    have w : ∀ i : Fin 64, testing63.timer (.watchdog i) = if i = 63 then .running 1000 else .clear := by
      decide +kernel
    intro id n
    cases id with
    | soak i => simp [TimerId.gated, k]
    | watchdog i =>
      rw [w]
      split <;> simp [TimerId.gated]
    | fill g => simp [TimerId.gated, f]
    | order h => cases h <;> simp [TimerId.gated, o]
    | yield h => cases h <;> simp [TimerId.gated, y]
    | recover h => cases h <;> simp [TimerId.gated, r]
  · unfold State.eventsLawful EventRecord.lawful
    decide +kernel
  · have s63 : testing63.recordAt (.socket 63) = some 0 := by decide +kernel
    have part : testing63.parts[(0 : Fin 96)] = some ⟨4100233, .socket 63, [], .none, none⟩ := by decide +kernel
    have s : ∀ i : Fin 64, i ≠ 63 → testing63.recordAt (.socket i) = none := by decide +kernel
    have w : ∀ n : Fin 4, testing63.recordAt (.nozzle .west n) = none := by decide +kernel
    have e : ∀ n : Fin 4, testing63.recordAt (.nozzle .east n) = none := by decide +kernel
    have i : ∀ i : Fin 8, testing63.recordAt (.input i) = none ∧ testing63.recordAt (.retest i) = none := by
      decide +kernel
    intro p k hp
    cases p with
    | socket j =>
      by_cases h : j = 63
      · subst h
        rw [s63] at hp
        cases hp
        exact ⟨_, part, rfl⟩
      · simp [s j h] at hp
    | nozzle h n => cases h <;> simp [w, e] at hp
    | input j => simp [i] at hp
    | retest j => simp [i] at hp
  · have none : ∀ k : Fin 96, k ≠ 0 → testing63.parts[k] = none := by decide +kernel
    intro j k q r hj hk _
    by_cases h : j = 0
    · by_cases h' : k = 0
      · rw [h, h']
      · rw [none k h'] at hk
        cases hk
    · rw [none j h] at hj
      cases hj
  · unfold State.testsTimed
    decide +kernel

end Sys2Proof.Tests
end

section
/-! PROOFS. The laws of the link, the completion list, the timers and the event records are closed under every change the
part makes (`Closed`), so every step keeps them. -/

namespace Sys2Proof.Machine

variable {s t : State}

/-! ## Ports through the arbiter -/

/-- Ending a transmission changes only the link. -/
@[simp] theorem offLink_endTransmission (p : Port) (s : State) : (endTransmission p s).offLink = s.offLink := by
  unfold endTransmission
  split
  · rfl
  · simp

theorem linkBounded_iff (s : State) : s.linkBounded ↔ ∀ p, (s.port p).bounded :=
  ⟨fun ⟨up, down⟩ p => by cases p <;> assumption, fun h => ⟨h .upstream, h .downstream⟩⟩

theorem linkBounded_congr (up : t.upstream = s.upstream) (down : t.downstream = s.downstream) (hs : s.linkBounded) :
    t.linkBounded := by
  unfold State.linkBounded
  rw [up, down]
  exact hs

theorem linkBounded_setPort (p : Port) {x : PortState} (hx : x.bounded) (hs : s.linkBounded) :
    (s.setPort p x).linkBounded := by
  rw [linkBounded_iff] at hs ⊢
  intro q
  rw [State.port_setPort]
  split
  · exact hx
  · exact hs q

/-- The arbiter only takes frames out of the queues. -/
theorem linkBounded_startSending (p : Port) (q : QueueKind) (hs : s.linkBounded) : (startSending p q s).linkBounded := by
  obtain ⟨through, own⟩ := (linkBounded_iff s).1 hs p
  unfold startSending
  dsimp only
  split
  · split
    · exact hs
    · next e => exact linkBounded_setPort p ⟨by rw [e] at through; exact Nat.le_of_succ_le through, own⟩ hs
  · split
    · exact hs
    · next e => exact linkBounded_setPort p ⟨through, by rw [e] at own; exact Nat.le_of_succ_le own⟩ hs

theorem linkBounded_arbitrate (p : Port) (hs : s.linkBounded) : (arbitrate p s).linkBounded := by
  unfold arbitrate
  dsimp only
  split
  · exact hs
  · split
    · exact hs
    · exact linkBounded_startSending _ _ hs
    · exact linkBounded_startSending _ _ hs
    · exact linkBounded_startSending _ _ hs

theorem port_draws (s : State) (n : Nat) (p : Port) : ({ s with draws := n } : State).port p = s.port p := by
  cases p <;> rfl

/-- The arbiter raises no event. -/
@[simp] theorem startSending_events (p : Port) (q : QueueKind) (s : State) : (startSending p q s).events = s.events := by
  unfold startSending
  dsimp only
  split <;> split <;> simp

@[simp] theorem arbitrate_events (p : Port) (s : State) : (arbitrate p s).events = s.events := by
  unfold arbitrate
  dsimp only
  split
  · rfl
  · split <;> simp

@[simp] theorem joinOwn_events (p : Port) (f : Frame) (s : State) : (joinOwn p f s).events = s.events := by simp [joinOwn]

@[simp] theorem joinThrough_events (p : Port) (f : Frame) (s : State) : (joinThrough p f s).events = s.events := by
  simp [joinThrough]

@[simp] theorem endTransmission_events (p : Port) (s : State) : (endTransmission p s).events = s.events := by
  unfold endTransmission
  split <;> simp

/-! ## The law of the link (R10 to R12) -/

/-- Only a queue with room takes a frame. -/
theorem closed_linkBounded : Closed State.linkBounded where
  same hs h := linkBounded_congr h.upstream h.downstream hs
  start _ _ _ := linkBounded_congr (by simp) (by simp)
  cancel _ _ := linkBounded_congr (by simp) (by simp)
  lot _ _ hs := hs
  note _ _ _ hs := hs
  forget _ _ hs := hs
  number p s hs := linkBounded_setPort p ((linkBounded_iff s).1 hs p) hs
  own p f s room hs := by
    obtain ⟨through, -⟩ := (linkBounded_iff s).1 hs p
    refine linkBounded_arbitrate p (linkBounded_setPort p ⟨through, ?_⟩ hs)
    rw [List.length_append]
    exact Nat.lt_of_not_le (of_decide_eq_false room)
  through p f s room hs := by
    obtain ⟨-, own⟩ := (linkBounded_iff s).1 hs p
    refine linkBounded_arbitrate p (linkBounded_setPort p ⟨?_, own⟩ hs)
    rw [List.length_append]
    exact Nat.lt_of_not_le (of_decide_eq_false room)
  sent p s hs := by
    unfold endTransmission
    split
    · exact hs
    · exact linkBounded_arbitrate p (linkBounded_setPort p ((linkBounded_iff s).1 hs p) hs)
  done _ _ hs := hs
  ticked hs := hs
  ticket _ _ _ _ hs := hs
  soft _ := ⟨⟨Nat.zero_le _, Nat.zero_le _⟩, ⟨Nat.zero_le _, Nat.zero_le _⟩⟩
  power _ _ _ := ⟨⟨Nat.zero_le _, Nat.zero_le _⟩, ⟨Nat.zero_le _, Nat.zero_le _⟩⟩
  silent hs := hs

/-! ## The law of the completion list (R163) -/

theorem nextNumber_range (used : List Nat) : ∀ k c, 1 ≤ nextNumber used k c ∧ nextNumber used k c ≤ 255
  | 0, c => by unfold nextNumber; omega
  | k + 1, c => by
    unfold nextNumber
    split
    · exact nextNumber_range used k _
    · omega

/-- A search that ends on a used value has found every value on its way used. -/
theorem nextNumber_used (used : List Nat) : ∀ k c, nextNumber used k c ∈ used → ∀ j, j ≤ k → (c + j) % 255 + 1 ∈ used
  | 0, c, h, j, hj => by
    obtain rfl : j = 0 := Nat.le_zero.mp hj
    exact h
  | k + 1, c, h, j, hj => by
    unfold nextNumber at h
    split at h
    · next hit =>
      cases j with
      | zero => exact hit
      | succ j =>
        have step := nextNumber_used used k _ h j (by omega)
        have e : (c % 255 + 1 + j) % 255 = (c + (j + 1)) % 255 := by omega
        rwa [e] at step
    · contradiction

/-- R114, R163: with fewer than 255 values used, a search as long as their list ends on a value that is not used. -/
theorem nextNumber_fresh {used : List Nat} (c : Nat) (few : used.length < 255) :
    nextNumber used used.length c ∉ used := by
  intro h
  have all := nextNumber_used used used.length c h
  have inj : Set.InjOn (fun j => (c + j) % 255 + 1) (Finset.range (used.length + 1)) := by
    intro i hi j hj e
    simp only [Finset.coe_range, Set.mem_Iio] at hi hj
    dsimp only at e
    omega
  have sub : (Finset.range (used.length + 1)).image (fun j => (c + j) % 255 + 1) ⊆ used.toFinset := by
    intro v hv
    obtain ⟨j, hj, rfl⟩ := Finset.mem_image.mp hv
    exact List.mem_toFinset.mpr (all j (Nat.le_of_lt_succ (Finset.mem_range.mp hj)))
  have card := (Finset.card_le_card sub).trans used.toFinset_card_le
  rw [Finset.card_image_of_injOn inj, Finset.card_range] at card
  omega

theorem ticketsLawful_congr (c : t.completions = s.completions) (n : t.ticketCounter = s.ticketCounter)
    (hs : s.ticketsLawful) : t.ticketsLawful := by
  unfold State.ticketsLawful
  rw [c, n]
  exact hs

theorem ticketsLawful_of_offLink (e : t.offLink = s.offLink) : s.ticketsLawful → t.ticketsLawful :=
  ticketsLawful_congr (offLink_completions e) (offLink_ticketCounter e)

/-- R163: the ticket of a new entry is in 1..255, and while the list has room no entry has it. -/
theorem newTicket_spec (room : completionsFull s = false) :
    1 ≤ newTicket s ∧ newTicket s ≤ 255 ∧ newTicket s ∉ s.completions.map Completion.ticket := by
  have short := (completionsFull_iff s).1 room
  have fresh := nextNumber_fresh (used := s.completions.map Completion.ticket) s.ticketCounter
    (by rw [List.length_map]; omega)
  rw [List.length_map] at fresh
  obtain ⟨low, high⟩ := nextNumber_range (s.completions.map Completion.ticket) s.completions.length s.ticketCounter
  exact ⟨low, high, fresh⟩

theorem closed_ticketsLawful : Closed State.ticketsLawful where
  same hs h := ticketsLawful_congr h.completions h.ticketCounter hs
  start _ _ _ := ticketsLawful_congr (by simp) (by simp)
  cancel _ _ := ticketsLawful_congr (by simp) (by simp)
  lot _ _ hs := hs
  note _ _ _ hs := hs
  forget _ _ hs := hs
  number _ _ := ticketsLawful_of_offLink (by simp)
  own _ _ _ _ := ticketsLawful_of_offLink (by simp)
  through _ _ _ _ := ticketsLawful_of_offLink (by simp)
  sent _ _ := ticketsLawful_of_offLink (by simp)
  done n s := fun ⟨len, nodup, range, counter⟩ =>
    ⟨(List.length_filter_le _ _).trans len, nodup.sublist (List.filter_sublist.map _),
      fun c hc => range c (List.mem_filter.mp hc).1, counter⟩
  ticked hs := hs
  ticket code subject s room := by
    rintro ⟨len, nodup, range, -⟩
    obtain ⟨low, high, fresh⟩ := newTicket_spec room
    refine ⟨?_, ?_, fun c hc => ?_, high⟩
    · simp only [takeTicket, List.length_append, List.length_singleton]
      exact Nat.succ_le_succ ((completionsFull_iff s).1 room)
    · simp only [takeTicket, List.map_append, List.map_cons, List.map_nil]
      refine List.nodup_append.mpr ⟨nodup, List.nodup_singleton _, fun a ha b hb => ?_⟩
      rw [List.mem_singleton.mp hb]
      exact fun e => fresh (e ▸ ha)
    · rcases List.mem_append.mp hc with old | last
      · exact range c old
      · rw [List.mem_singleton.mp last]
        exact ⟨low, high⟩
  soft _ := ⟨Nat.zero_le _, List.nodup_nil, fun _ h => absurd h List.not_mem_nil, Nat.zero_le _⟩
  power _ _ _ := ⟨Nat.zero_le _, List.nodup_nil, fun _ h => absurd h List.not_mem_nil, Nat.zero_le _⟩
  silent hs := hs

/-! ## The law of the timers (R148, R152) -/

theorem timer_of_timers (e : t.timers = s.timers) (id : TimerId) : t.timer id = s.timer id := by
  cases id <;> simp only [State.timer, e]

/-- R154: in the initial pool every timer is CLEAR. -/
theorem timer_initial (e : s.timers = .initial) (id : TimerId) : s.timer id = .clear := by
  cases id with
  | order h => cases h <;> simp [State.timer, e, Timers.initial, PerHead.get]
  | yield h => cases h <;> simp [State.timer, e, Timers.initial, PerHead.get]
  | recover h => cases h <;> simp [State.timer, e, Timers.initial, PerHead.get]
  | _ => simp [State.timer, e, Timers.initial]

theorem timersLawful_congr (e : t.timers = s.timers) (l : t.lotState = s.lotState) (hs : s.timersLawful) :
    t.timersLawful := by
  unfold State.timersLawful
  simp only [timer_of_timers e, l]
  exact hs

theorem timersLawful_of_offLink (e : t.offLink = s.offLink) : s.timersLawful → t.timersLawful :=
  timersLawful_congr (offLink_timers e) (offLink_lotState e)

theorem timersLawful_initial (e : s.timers = .initial) : s.timersLawful := fun id n => by
  simp [timer_initial e id]

/-- R149: a timer that counts from now is not held. -/
theorem Timer.count_ne_held (k n : Nat) : Timer.count k ≠ .held n := by cases k <;> simp [Timer.count]

theorem Timer.start_held {counts : Bool} {k n : Nat} (h : Timer.start counts k = .held n) : counts = false := by
  cases counts
  · rfl
  · exact absurd h (Timer.count_ne_held k n)

theorem Timer.start_running {counts : Bool} {k n : Nat} (h : Timer.start counts k = .running n) : counts = true := by
  cases counts
  · cases h
  · rfl

theorem Timer.tick_held {x : Timer} {n : Nat} : x.tick = .held n ↔ x = .held n := by
  unfold Timer.tick
  split <;> simp

theorem Timer.tick_running {x : Timer} {n : Nat} (h : x.tick = .running n) : ∃ m, x = .running m := by
  unfold Timer.tick at h
  split at h
  · cases h
  · exact ⟨_, rfl⟩
  · exact ⟨n, h⟩

theorem Timer.hold_ne_running (x : Timer) (n : Nat) : x.hold ≠ .running n := by cases x <;> simp [Timer.hold]

theorem Timer.resume_ne_held (x : Timer) (n : Nat) : x.resume ≠ .held n := by
  cases x <;> simp [Timer.resume, Timer.count_ne_held]

theorem timer_endTick (s : State) (id : TimerId) : (endTick s).timer id = (s.timer id).tick :=
  (timer_of_timers (s := { s with timers := s.timers.mapAll Timer.tick }) rfl id).trans (s.timer_mapAll Timer.tick id)

theorem closed_timersLawful : Closed State.timersLawful where
  same hs h := timersLawful_congr h.timers h.lotState hs
  start id k s hs := fun other n => by
    rw [timer_startTimer, startTimer_lotState]
    split
    · next e =>
      subst e
      refine ⟨fun free h => ?_, fun _ active h => ?_, fun gated idle h => ?_⟩
      · simpa [free] using Timer.start_held h
      · simpa [active] using Timer.start_held h
      · simpa [gated, idle] using Timer.start_running h
    · exact hs other n
  cancel id s hs := fun other n => by
    rw [timer_cancelTimer, cancelTimer_lotState]
    split
    · simp
    · exact hs other n
  lot l s hs := fun id n => by
    obtain ⟨free, active, idle⟩ := hs id n
    rw [timer_changeLot, changeLot_lotState]
    cases gated : id.gated
    · exact ⟨fun _ => by simpa using free gated, by simp, by simp⟩
    · refine ⟨by simp, fun _ la => ?_, fun _ li => ?_⟩
      · cases sa : s.lotState.active
        · simp [la, Timer.resume_ne_held]
        · simpa [la] using active gated sa
      · cases sa : s.lotState.active
        · simpa [li] using idle gated sa
        · simp [li, Timer.hold_ne_running]
  note _ _ _ hs := hs
  forget _ _ hs := hs
  number _ _ := timersLawful_of_offLink (by simp)
  own _ _ _ _ := timersLawful_of_offLink (by simp)
  through _ _ _ _ := timersLawful_of_offLink (by simp)
  sent _ _ := timersLawful_of_offLink (by simp)
  done _ _ hs := hs
  ticked {s} hs := fun id n => by
    obtain ⟨free, active, -⟩ := hs id n
    rw [timer_endTick]
    refine ⟨fun g h => free g (Timer.tick_held.1 h), fun g a h => active g a (Timer.tick_held.1 h), fun g i h => ?_⟩
    obtain ⟨m, hm⟩ := Timer.tick_running h
    exact (hs id m).2.2 g i hm
  ticket _ _ _ _ hs := hs
  soft _ := timersLawful_initial rfl
  power _ _ _ := timersLawful_initial rfl
  silent hs := hs

/-! ## The law of the event records (R171) -/

theorem EventRecord.lawful_initial : EventRecord.initial.lawful :=
  ⟨fun _ => ⟨rfl, rfl⟩, fun h => Bool.noConfusion h⟩

/-- R171: an occurrence makes a record pending with a first detail and a count within its range. -/
theorem EventRecord.lawful_occur {e : EventRecord} (d : Nat) (h : e.lawful) : (e.occur d).lawful := by
  refine ⟨fun clear => Bool.noConfusion clear, fun _ => ⟨?_, ?_, Nat.min_le_right _ _⟩⟩
  · cases hp : e.pending
    · simp [EventRecord.occur, hp]
    · simpa [EventRecord.occur, hp] using (h.2 hp).1
  · show 1 ≤ min (e.count + 1) Config.occurrenceMax
    exact le_min (Nat.le_add_left 1 _) (by decide)

theorem eventsLawful_congr (e : t.events = s.events) (hs : s.eventsLawful) : t.eventsLawful := by
  unfold State.eventsLawful
  rw [e]
  exact hs

/-- Clearing records one after another leaves each of them lawful. -/
theorem lawful_clear (ks : List (Fin 21)) (v : Vector EventRecord 21) (hv : ∀ k : Fin 21, v[k].lawful) (k : Fin 21) :
    (ks.foldl (fun v (k : Fin 21) => v.set k .initial) v)[k].lawful := by
  induction ks generalizing v with
  | nil => exact hv k
  | cons j ks ih =>
    refine ih _ fun i => ?_
    simp only [Fin.getElem_fin, Vector.getElem_set]
    split
    · exact EventRecord.lawful_initial
    · exact hv i

theorem eventsLawful_initial (e : s.events = Vector.replicate 21 .initial) : s.eventsLawful := fun k => by
  simpa [e] using EventRecord.lawful_initial

theorem closed_eventsLawful : Closed State.eventsLawful where
  same hs h := eventsLawful_congr h.events hs
  start _ _ _ := eventsLawful_congr (by simp)
  cancel _ _ := eventsLawful_congr (by simp)
  lot _ _ hs := hs
  note k d s hs := fun j => by
    rw [event_noteEvent]
    split
    · exact EventRecord.lawful_occur d (hs _)
    · exact hs j
  forget set s hs := lawful_clear (kindsOf set) s.events hs
  number _ _ := eventsLawful_congr (by simp [advanceSequence])
  own _ _ _ _ := eventsLawful_congr (by simp)
  through _ _ _ _ := eventsLawful_congr (by simp)
  sent _ _ := eventsLawful_congr (by simp)
  done _ _ hs := hs
  ticked hs := hs
  ticket _ _ _ _ hs := hs
  soft _ := eventsLawful_initial rfl
  power _ _ _ := eventsLawful_initial rfl
  silent hs := hs

end Sys2Proof.Machine
end

section
/-! PROOFS. The law of the tests: a TESTING socket has its watchdog started and a SOAKING one its soak timer. Inside a command
one socket may be without its timer for a moment, so every operation is shown to keep the law for all sockets but one. -/

namespace Sys2Proof.Machine

variable {s t : State} {x : Option (Fin 64)}

/-- R54, R57: the law of the tests for every socket but `x`. -/
def State.timedBut (s : State) (x : Option (Fin 64)) : Prop :=
  ∀ i : Fin 64, some i ≠ x → (s.sockets[i].state = .testing → s.timer (.watchdog i) ≠ .clear) ∧
    (s.sockets[i].state = .soaking → s.timer (.soak i) ≠ .clear)

theorem testsTimed_iff (s : State) : s.testsTimed ↔ s.timedBut none :=
  ⟨fun h i _ => h i, fun h i => h i (by simp)⟩

theorem State.timedBut.weaken (h : s.timedBut none) (x : Option (Fin 64)) : s.timedBut x := fun i _ => h i (by simp)

/-- A socket in a state without a timer meets the law. -/
theorem State.timedBut.restore {i : Fin 64} (h : s.timedBut (some i)) (test : s.sockets[i].state ≠ .testing)
    (soak : s.sockets[i].state ≠ .soaking) : s.timedBut none := fun j _ => by
  by_cases e : j = i
  · subst e
    exact ⟨fun h => absurd h test, fun h => absurd h soak⟩
  · exact h j (by simpa using e)

/-! ## Changes of the state -/

theorem timedBut_same (e : t.sockets = s.sockets) (w : t.timers = s.timers) (h : s.timedBut x) : t.timedBut x := by
  intro i hi
  rw [e, timer_of_timers w, timer_of_timers w]
  exact h i hi

theorem timedBut_of_offLink (e : t.offLink = s.offLink) (h : s.timedBut x) : t.timedBut x :=
  timedBut_same (offLink_sockets e) (offLink_timers e) h

theorem timedBut_modCounters (f : Counters → Counters) (l : s.timedBut x) : (s.modCounters f).timedBut x :=
  timedBut_same rfl rfl l

theorem timedBut_modPart (k : Fin 96) (f : PartRecord → PartRecord) (l : s.timedBut x) : (s.modPart k f).timedBut x :=
  timedBut_same rfl rfl l

theorem timedBut_raiseEvent (k : EventKind) (d : Nat) (l : s.timedBut x) : (raiseEvent k d s).timedBut x :=
  timedBut_of_offLink (offLink_raiseEvent _ _ _) l

/-- A socket takes no state with a timer by a change of this form. -/
def Calm (f : Socket → Socket) : Prop :=
  ∀ y, (f y).state = y.state ∨ (f y).state ≠ .testing ∧ (f y).state ≠ .soaking

theorem timedBut_modSocket (i : Fin 64) {f : Socket → Socket} (hf : Calm f) (h : s.timedBut x) :
    (s.modSocket i f).timedBut x := by
  intro j hj
  rw [State.socket_modSocket, timer_of_timers (State.modSocket_timers s i f), timer_of_timers (State.modSocket_timers s i f)]
  split
  · next e =>
    subst e
    rcases hf s.sockets[i] with same | ⟨test, soak⟩
    · rw [same]
      exact h i hj
    · exact ⟨fun e => absurd e test, fun e => absurd e soak⟩
  · exact h j hj

/-- A started timer is not CLEAR. -/
theorem Timer.start_ne_clear (counts : Bool) (n : Nat) : Timer.start counts n ≠ .clear := by
  cases counts <;> cases n <;> simp [Timer.start, Timer.count]

theorem timedBut_startTimer (id : TimerId) (n : Nat) (h : s.timedBut x) : (startTimer id n s).timedBut x := by
  intro i hi
  obtain ⟨test, soak⟩ := h i hi
  rw [startTimer_sockets, timer_startTimer, timer_startTimer]
  refine ⟨fun e => ?_, fun e => ?_⟩
  · split
    · exact Timer.start_ne_clear _ _
    · exact test e
  · split
    · exact Timer.start_ne_clear _ _
    · exact soak e

/-- Cancelling a timer leaves the law for the sockets whose timer it is not. -/
theorem timedBut_cancelTimer (id : TimerId) (hid : ∀ i, id = .soak i ∨ id = .watchdog i → some i = x)
    (h : s.timedBut x) : (cancelTimer id s).timedBut x := by
  intro i hi
  rw [cancelTimer_sockets, timer_cancelTimer, timer_cancelTimer, if_neg fun e => hi (hid i (.inr e)),
    if_neg fun e => hi (hid i (.inl e))]
  exact h i hi

theorem timedBut_cancelOther (id : TimerId) (soak : ∀ i, id ≠ .soak i) (watchdog : ∀ i, id ≠ .watchdog i)
    (h : s.timedBut x) : (cancelTimer id s).timedBut x :=
  timedBut_cancelTimer id (fun i e => e.elim (absurd · (soak i)) (absurd · (watchdog i))) h

theorem timedBut_changeLot (l : LotState) (h : s.timedBut x) : (changeLot l s).timedBut x := by
  intro i hi
  rw [timer_changeLot, timer_changeLot]
  exact h i hi

theorem timedBut_endTick (h : s.timedBut x) : (endTick s).timedBut x := by
  have stays (y : Timer) (hy : y ≠ .clear) : y.tick ≠ .clear := by
    unfold Timer.tick
    split <;> simp_all
  intro i hi
  obtain ⟨test, soak⟩ := h i hi
  rw [timer_endTick, timer_endTick]
  exact ⟨fun e => stays _ (test e), fun e => stays _ (soak e)⟩

/-! ## Opportunities, queues and plans -/

theorem timedBut_opportunity (h : Head) (l : s.timedBut x) : (opportunity h s).timedBut x := by
  unfold opportunity
  split <;> exact timedBut_same rfl rfl l

theorem timedBut_opportunityBoth (l : s.timedBut x) : (opportunityBoth s).timedBut x :=
  timedBut_opportunity _ (timedBut_opportunity _ l)

theorem timedBut_opportunityServing (i : Fin 64) (l : s.timedBut x) : (opportunityServing i s).timedBut x := by
  have served (h : Head) (u : State) (l : u.timedBut x) :
      (if servedBy u i h then opportunity h u else u).timedBut x := by
    split
    · exact timedBut_opportunity h l
    · exact l
  exact served .east _ (served .west _ l)

theorem timedBut_fillTray (b : Fin 16) (y : TrayId) (l : s.timedBut x) : (fillTray b y s).timedBut x := by
  unfold fillTray
  dsimp only
  split
  · exact timedBut_raiseEvent _ _ (timedBut_same rfl rfl l)
  · exact l

theorem timedBut_holeOf (o : Order) (l : s.timedBut x) : (holeOf o s).timedBut x := by
  unfold holeOf
  split
  · exact timedBut_fillTray _ _ (timedBut_same rfl rfl l)
  · exact l

theorem timedBut_dropPlan (p : Nat) (l : s.timedBut x) : (dropPlan p s).timedBut x := by
  refine timedBut_opportunityBoth fun i hi => ?_
  simp only [Fin.getElem_fin, mapVec_getElem]
  exact l i hi

theorem timedBut_endPlan (h : Head) (p : Option Nat) (l : s.timedBut x) : (endPlan h p s).timedBut x := by
  unfold endPlan
  split
  · exact l
  · split
    · exact l
    · exact timedBut_dropPlan _ l

theorem timedBut_leaveQueue (h : Head) (n : Nat) (l : s.timedBut x) : (leaveQueue h n s).timedBut x :=
  timedBut_same rfl rfl l

theorem timedBut_cancelPoint (h : Head) (o : Order) (l : s.timedBut x) : (cancelPoint h o s).timedBut x := by
  unfold cancelPoint
  split <;> exact timedBut_same rfl rfl l

theorem timedBut_cancelPending (h : Head) (o : Order) (l : s.timedBut x) : (cancelPending h o s).timedBut x :=
  timedBut_opportunity _ (timedBut_endPlan _ _ (timedBut_holeOf _ (timedBut_leaveQueue _ _ (timedBut_cancelPoint _ _ l))))

theorem timedBut_cancelWhere (h : Head) (test : Order → Bool) (l : s.timedBut x) : (cancelWhere h test s).timedBut x :=
  foldl_keeps (P := (State.timedBut · x)) (fun _ o l => timedBut_cancelPending h o l) _ l

theorem timedBut_cancelPlacesInto (i : Fin 64) (l : s.timedBut x) : (cancelPlacesInto i s).timedBut x :=
  timedBut_cancelWhere _ _ (timedBut_cancelWhere _ _ l)

theorem timedBut_cancelCarrying (k : Fin 96) (p : Option Nat) (l : s.timedBut x) :
    (cancelCarrying k p s).timedBut x := by
  unfold cancelCarrying
  split
  · exact l
  · exact timedBut_cancelWhere _ _ (timedBut_cancelWhere _ _ l)

theorem timedBut_convert (k : Fin 96) (l : s.timedBut x) : (convert k s).timedBut x := by
  unfold convert
  split
  · split
    · have cancelled (u : State) (hu : u.timedBut x) (p : Option Nat) : (carriedOpportunity k (cancelCarrying k p u)).timedBut x := by
        have c := timedBut_cancelCarrying k p hu
        unfold carriedOpportunity
        split
        · split
          · exact c
          · exact timedBut_opportunity _ c
        · exact c
      refine cancelled _ ?_ _
      split
      · exact timedBut_raiseEvent _ _ (timedBut_same rfl rfl l)
      · exact timedBut_same rfl rfl l
    · exact l
  · exact l

theorem timedBut_convertAll (l : s.timedBut x) : (convertAll s).timedBut x :=
  foldl_keeps (P := (State.timedBut · x)) (fun _ k l => timedBut_convert k l) _ l

theorem timedBut_reexamine (l : s.timedBut x) : (reexamine s).timedBut x := by
  refine foldl_keeps (P := (State.timedBut · x)) (fun s k l => ?_) _ l
  split
  · split
    · exact timedBut_convert k l
    · exact l
  · exact l

theorem timedBut_complete (code : Byte) (y : Subject) (f : FinalCode) (l : s.timedBut x) :
    (complete code y f s).timedBut x := by
  unfold complete
  split
  · exact l
  · next c _ =>
    have sent := timedBut_of_offLink (offLink_produceCompletion c f
      { s with completions := s.completions.filter fun d => !(d.ticket == c.ticket) }) (timedBut_same rfl rfl l)
    unfold slotFreed
    split
    · exact timedBut_raiseEvent _ _ (timedBut_same rfl rfl sent)
    · exact sent

/-! ## Sockets and groups -/

/-- R61: a socket that goes to TESTING has its watchdog started. -/
theorem timedBut_beginTest (i : Fin 64) (l : s.timedBut x) : (beginTest s i).timedBut x := by
  intro j hj
  obtain ⟨test, soak⟩ := l j hj
  have e : (beginTest s i).sockets[j] = if i = j then { s.sockets[i] with state := .testing } else s.sockets[j] := by
    unfold beginTest
    rw [startTimer_sockets]
    exact s.socket_modSocket i j fun y => { y with state := .testing }
  have w (id : TimerId) : (beginTest s i).timer id =
      if .watchdog i = id then Timer.start true s.lot.testLimit else s.timer id := timer_startTimer _ _ _ _
  rw [e, w, w]
  by_cases d : i = j
  · subst d
    rw [if_pos rfl, if_pos rfl]
    exact ⟨fun _ => Timer.start_ne_clear _ _, nofun⟩
  · rw [if_neg d, if_neg (by simpa using d), if_neg (by simp)]
    exact ⟨test, soak⟩

theorem timedBut_startGroup (g : Fin 16) (l : s.timedBut x) : (startGroup g s).timedBut x := by
  unfold startGroup
  dsimp only
  refine timedBut_same rfl rfl (timedBut_cancelOther (.fill g) (by simp) (by simp) ?_)
  exact foldl_keeps (P := (State.timedBut · x)) (fun _ i l => timedBut_beginTest i l) _
    (timedBut_of_offLink (offLink_produce _ _ _ _ _) l)

theorem timedBut_fillUpdate (g : Fin 16) (l : s.timedBut x) : (fillUpdate g s).timedBut x := by
  unfold fillUpdate
  split
  · split
    · exact timedBut_startTimer _ _ l
    · exact l
  · exact timedBut_cancelOther (.fill g) (by simp) (by simp) l

theorem timedBut_groupUpdate (g : Fin 16) (l : s.timedBut x) : (groupUpdate g s).timedBut x := by
  unfold groupUpdate
  split
  · exact timedBut_startGroup g l
  · exact timedBut_fillUpdate g l

theorem timedBut_updateGroupOf (i : Fin 64) (l : s.timedBut x) : (updateGroupOf i s).timedBut x := by
  unfold updateGroupOf
  split
  · exact timedBut_groupUpdate _ l
  · exact l

theorem timedBut_updateGroups (l : s.timedBut x) : (updateGroups s).timedBut x :=
  foldl_keeps (P := (State.timedBut · x)) (fun _ g l => timedBut_groupUpdate g l) _ l

theorem timedBut_afterOff (i : Fin 64) (l : s.timedBut x) : (afterOff i s).timedBut x :=
  timedBut_updateGroupOf i (timedBut_reexamine (timedBut_opportunityServing i l))

theorem timedBut_goOff (i : Fin 64) (l : s.timedBut x) : (goOff i s).timedBut x := by
  have off : (completeDisable i (s.modSocket i fun y => { y with state := .off, pendingDisable := none })).timedBut x :=
    timedBut_complete _ _ _ (timedBut_modSocket i (fun _ => .inr (by simp)) l)
  unfold goOff
  dsimp only
  refine timedBut_afterOff i ?_
  split
  · exact timedBut_raiseEvent _ _ off
  · exact off

/-- A socket that enters EMPTY needs no timer any more. -/
theorem timedBut_enterEmpty_restores {i : Fin 64} (l : s.timedBut (some i)) : (enterEmpty i s).timedBut none := by
  have state : (s.modSocket i fun y => { y with state := .empty }).sockets[i].state = .empty := by
    rw [State.socket_modSocket_self]
  have empty : (opportunityServing i (s.modSocket i fun y => { y with state := .empty })).timedBut none :=
    timedBut_opportunityServing i ((timedBut_modSocket i (fun _ => .inr (by simp)) l).restore
      (by rw [state]; decide) (by rw [state]; decide))
  unfold enterEmpty
  dsimp only
  split
  · exact timedBut_goOff i empty
  · exact empty

theorem timedBut_enterEmpty (i : Fin 64) (l : s.timedBut x) : (enterEmpty i s).timedBut x := by
  have empty : (opportunityServing i (s.modSocket i fun y => { y with state := .empty })).timedBut x :=
    timedBut_opportunityServing i (timedBut_modSocket i (fun _ => .inr (by simp)) l)
  unfold enterEmpty
  dsimp only
  split
  · exact timedBut_goOff i empty
  · exact empty

theorem timedBut_enterTested (i : Fin 64) (l : s.timedBut x) : (enterTested i s).timedBut x :=
  timedBut_opportunityServing i (timedBut_modSocket i (fun _ => .inr (by simp)) l)

theorem timedBut_setPendingDisable (i : Fin 64) (c : DisableCause) (l : s.timedBut x) :
    (setPendingDisable i c s).timedBut x := by
  have set : (updateGroupOf i (reexamine (cancelPlacesInto i
      (s.modSocket i fun y => { y with pendingDisable := some c })))).timedBut x :=
    timedBut_updateGroupOf i (timedBut_reexamine (timedBut_cancelPlacesInto i
      (timedBut_modSocket i (fun _ => .inl rfl) l)))
  unfold setPendingDisable
  dsimp only
  split
  · exact timedBut_goOff i set
  · exact set

theorem timedBut_noteFault (i : Fin 64) (k : FaultKind) (l : s.timedBut x) : (noteFault i k s).timedBut x := by
  have noted := timedBut_modSocket i (f := fun y => { y with faults := y.faults.add k, faultCount := faultSucc y.faultCount })
    (fun _ => .inl rfl) l
  unfold noteFault checkThreshold
  dsimp only
  split
  · exact timedBut_setPendingDisable i _ noted
  · exact noted

theorem timedBut_becomeReady (i : Fin 64) (l : s.timedBut x) : (becomeReady i s).timedBut x :=
  timedBut_updateGroupOf i (timedBut_modSocket i (fun _ => .inr (by simp)) l)

theorem timedBut_clearPartFaults (i : Fin 64) (l : s.timedBut x) : (clearPartFaults i s).timedBut x := by
  unfold clearPartFaults
  split
  · exact timedBut_modSocket i (fun _ => .inl rfl) l
  · exact l

/-- R56: a socket that goes to SOAKING has its soak timer started. -/
theorem timedBut_soak (i : Fin 64) (n : Nat) (l : s.timedBut x) :
    (startTimer (.soak i) n (s.modSocket i fun y => { y with state := .soaking })).timedBut x := by
  intro j hj
  obtain ⟨test, soak⟩ := l j hj
  rw [startTimer_sockets, State.socket_modSocket, timer_startTimer, timer_startTimer,
    timer_of_timers (State.modSocket_timers s i _), timer_of_timers (State.modSocket_timers s i _)]
  by_cases d : i = j
  · subst d
    rw [if_pos rfl, if_pos rfl]
    exact ⟨nofun, fun _ => Timer.start_ne_clear _ _⟩
  · rw [if_neg d, if_neg (by simp), if_neg (by simpa using d)]
    exact ⟨test, soak⟩

theorem timedBut_beginSoak (i : Fin 64) (l : s.timedBut x) : (beginSoak i s).timedBut x := by
  have cleared := timedBut_clearPartFaults i l
  unfold beginSoak
  dsimp only
  split
  · exact timedBut_becomeReady i cleared
  · exact timedBut_soak i _ cleared

/-- A test that ends with its socket TESTED, its watchdog cancelled before, leaves the law of every socket. -/
theorem timedBut_finishTest {i : Fin 64} (l : s.timedBut (some i)) : (finishTest i s).timedBut none := by
  refine timedBut_updateGroupOf i (timedBut_opportunityServing i ?_)
  have state : (s.modSocket i fun y => { y with state := .tested }).sockets[i].state = .tested := by
    rw [State.socket_modSocket_self]
  exact (timedBut_modSocket i (fun _ => .inr (by simp)) l).restore (by rw [state]; decide) (by rw [state]; decide)

theorem timedBut_setDisposition (i : Fin 64) (code : Byte) (l : s.timedBut x) : (setDisposition i code s).timedBut x := by
  unfold setDisposition
  split
  · exact l
  · dsimp only
    split
    · split
      · exact timedBut_raiseEvent _ _ (timedBut_modCounters _ (timedBut_modPart _ _ l))
      · exact timedBut_modCounters _ (timedBut_modPart _ _ l)
    · split
      · exact timedBut_raiseEvent _ _ (timedBut_modPart _ _ l)
      · exact timedBut_modPart _ _ l

theorem timedBut_decideResult (i : Fin 64) (code : Byte) (time : Nat) (l : s.timedBut (some i)) :
    (decideResult i code time s).timedBut (some i) := by
  have cancelled := timedBut_cancelTimer (.watchdog i) (by simp) l
  have recorded : (recordAttempt i code time (cancelTimer (.watchdog i) s)).timedBut (some i) := by
    have last := timedBut_modSocket i (f := fun y => { y with last := some (code, time) }) (fun _ => .inl rfl) cancelled
    unfold recordAttempt
    dsimp only
    split
    · exact timedBut_same rfl rfl last
    · exact last
  exact timedBut_setDisposition i code recorded

theorem timedBut_takeResult (i : Fin 64) (code : Byte) (time : Nat) (l : s.timedBut none) :
    (takeResult i code time s).timedBut none := by
  have decided := timedBut_decideResult i code time (l.weaken (some i))
  unfold takeResult
  dsimp only
  refine timedBut_finishTest ?_
  split
  · exact timedBut_noteFault i _ decided
  · exact timedBut_modSocket i (fun _ => .inl rfl) decided

theorem timedBut_takeTimeout {i : Fin 64} (l : s.timedBut (some i)) : (takeTimeout i s).timedBut none := by
  have noted := timedBut_noteFault i .timeout (timedBut_decideResult i s.lot.timeoutCode s.lot.testLimit l)
  unfold takeTimeout
  dsimp only
  refine timedBut_modCounters _ (timedBut_raiseEvent _ _ (timedBut_finishTest ?_))
  split
  · exact timedBut_noteFault i _ noted
  · exact noted

end Sys2Proof.Machine
end

section
/-! PROOFS. The law of the tests through grants, heads, the planner and the custody unit. -/

namespace Sys2Proof.Machine

variable {s t : State} {x : Option (Fin 64)}

/-! ## Grants -/

theorem timedBut_modHead (h : Head) (f : HeadRecord → HeadRecord) (l : s.timedBut x) : (s.modHead h f).timedBut x :=
  timedBut_same rfl rfl l

theorem timedBut_grantPoint (h : Head) (l : s.timedBut x) : (grantPoint h s).timedBut x := timedBut_same rfl rfl l

theorem timedBut_yieldCheck (h : Head) (l : s.timedBut x) : (yieldCheck h s).timedBut x := timedBut_same rfl rfl l

theorem timedBut_points (y : Points) (l : s.timedBut x) : ({ s with points := y } : State).timedBut x :=
  timedBut_same rfl rfl l

theorem timedBut_draws (n : Nat) (l : s.timedBut x) : ({ s with draws := n } : State).timedBut x :=
  timedBut_same rfl rfl l

theorem timedBut_tellOther (h : Head) (old : Span) (l : s.timedBut x) : (tellOther h old s).timedBut x :=
  timedBut_same (by simp) (by simp) l

theorem timedBut_recomputeHoldings (h : Head) (l : s.timedBut x) : (recomputeHoldings h s).timedBut x :=
  timedBut_tellOther _ _ (timedBut_modHead _ _ l)

theorem timedBut_produce (p : Port) (d k : Byte) (pl : List Byte) (l : s.timedBut x) : (produce p d k pl s).timedBut x :=
  timedBut_of_offLink (offLink_produce _ _ _ _ _) l

theorem timedBut_issueOrder (h : Head) (c : Order × Resolved) (l : s.timedBut x) : (issueOrder h c s).timedBut x :=
  timedBut_produce _ _ _ _ (timedBut_modHead _ _ l)

theorem timedBut_grantSocket (o : Order) (l : s.timedBut x) : (grantSocket o s).timedBut x := by
  unfold grantSocket
  split
  · exact timedBut_modSocket _ (fun _ => .inr (by simp)) l
  · refine timedBut_modSocket _ (fun y => ?_) l
    dsimp only
    split
    · exact .inr (by simp)
    · exact .inl rfl
  · exact l

theorem timedBut_joinHoldings (h : Head) (claim : Span) (l : s.timedBut x) : (joinHoldings h claim s).timedBut x :=
  timedBut_tellOther _ _ (timedBut_modHead _ _ l)

theorem timedBut_grantClaim (h : Head) (claim : List (Order × Resolved)) (l : s.timedBut x) :
    (grantClaim h claim s).timedBut x := by
  have issued := foldl_keeps (P := (State.timedBut · x)) (fun _ c l => timedBut_issueOrder h c l) claim l
  have taken := foldl_keeps (P := (State.timedBut · x)) (f := fun s (c : Order × Resolved) => grantSocket c.1 s)
    (fun _ c l => timedBut_grantSocket c.1 l) claim issued
  have joined := timedBut_joinHoldings h (claimSpan claim) taken
  unfold grantClaim
  dsimp only
  refine timedBut_opportunity _ ?_
  split
  · split
    · exact timedBut_startTimer _ _ joined
    · exact joined
  · exact joined

theorem timedBut_syncYield (h : Head) (l : s.timedBut x) : (syncYield h s).timedBut x := by
  unfold syncYield
  dsimp only
  split
  · exact timedBut_modHead _ _ l
  · exact timedBut_modHead _ _ (timedBut_cancelOther (.yield h) (by simp) (by simp) (timedBut_modHead _ _ l))

theorem timedBut_markWaiting (h : Head) (l : s.timedBut x) : (markWaiting h s).timedBut x := by
  unfold markWaiting
  split
  · exact l
  · split
    · exact timedBut_startTimer _ _ (timedBut_modHead _ _ l)
    · exact l

theorem timedBut_considerFront (h : Head) : ∀ (k : Nat) {s}, s.timedBut x → (considerFront h k s).timedBut x
  | 0, _, l => l
  | k + 1, s, l => by
    unfold considerFront
    split
    · exact timedBut_considerFront h k (timedBut_syncYield _ (timedBut_grantClaim _ _ l))
    · exact timedBut_markWaiting _ l

theorem timedBut_takeGrantPoint (h : Head) (l : s.timedBut x) : (takeGrantPoint h s).timedBut x :=
  timedBut_considerFront _ _ (timedBut_points _ l)

theorem timedBut_insertPark (h : Head) (l : s.timedBut x) : (insertPark h s).timedBut x :=
  timedBut_grantPoint _ (timedBut_modHead _ _ l)

theorem timedBut_makeYieldPark (h : Head) (l : s.timedBut x) : (makeYieldPark h s).timedBut x :=
  timedBut_takeGrantPoint _ (timedBut_raiseEvent _ _ (timedBut_syncYield _ (timedBut_insertPark _ (timedBut_modHead _ _ l))))

theorem timedBut_takeMove (m : Move) (l : s.timedBut x) : (takeMove m s).timedBut x := by
  cases m with
  | grant h => exact timedBut_takeGrantPoint h l
  | yieldCheck h =>
    show (takeYieldCheck h s).timedBut x
    unfold takeYieldCheck
    dsimp only
    split
    · exact timedBut_makeYieldPark h (timedBut_points _ l)
    · exact timedBut_points _ l

theorem timedBut_settleLoop : ∀ (k : Nat) {s}, s.timedBut x → (settleLoop k s).timedBut x
  | 0, _, l => l
  | k + 1, s, l => by
    unfold settleLoop
    split
    · exact l
    · exact timedBut_settleLoop k (timedBut_takeMove _ l)
    · exact timedBut_settleLoop k (timedBut_takeMove _ (timedBut_draws _ l))

theorem timedBut_settle (l : s.timedBut x) : (settle s).timedBut x :=
  timedBut_points _ (timedBut_settleLoop _ (timedBut_syncYield _ (timedBut_syncYield _ l)))

theorem timedBut_endEvent (l : s.timedBut x) : (endEvent s).timedBut x := by
  unfold endEvent checkDrain
  split
  · exact timedBut_complete _ _ _ (timedBut_settle l)
  · exact timedBut_settle l

theorem timedBut_yieldFalls (h : Head) (l : s.timedBut x) : (yieldFalls h s).timedBut x :=
  timedBut_yieldCheck _ (timedBut_modHead _ _ l)

theorem timedBut_yieldAtOnce (h : Head) (l : s.timedBut x) : (yieldAtOnce h s).timedBut x :=
  timedBut_endEvent (timedBut_yieldFalls _ (timedBut_cancelOther (.yield h) (by simp) (by simp) l))

theorem timedBut_atOnceLoop : ∀ (k : Nat) {s}, s.timedBut x → (atOnceLoop k s).timedBut x
  | 0, _, l => l
  | k + 1, s, l => by
    unfold atOnceLoop
    split
    · exact l
    · exact timedBut_atOnceLoop k (timedBut_yieldAtOnce _ l)
    · exact timedBut_atOnceLoop k (timedBut_yieldAtOnce _ (timedBut_draws _ l))

theorem timedBut_finish (l : s.timedBut x) : (finish s).timedBut x := timedBut_atOnceLoop _ (timedBut_endEvent l)

/-! ## Devices that move -/

/-- Writing a record to a place changes no socket's state. -/
theorem timedBut_setRecordAt (p : Place) (r : Option (Fin 96)) (l : s.timedBut x) : (s.setRecordAt p r).timedBut x := by
  cases p with
  | socket i => exact timedBut_modSocket i (fun _ => .inl rfl) l
  | _ => exact timedBut_same rfl rfl l

theorem timedBut_moveRecord (a b : Place) (l : s.timedBut x) : (moveRecord a b s).timedBut x := by
  unfold moveRecord
  split
  · exact l
  · exact timedBut_modPart _ _ (timedBut_setRecordAt _ _ (timedBut_setRecordAt _ _ l))

theorem timedBut_releaseAt (p : Place) (l : s.timedBut x) : (releaseAt p s).timedBut x := by
  unfold releaseAt
  split
  · exact l
  · exact timedBut_same rfl rfl (timedBut_setRecordAt p none l)

theorem timedBut_clearSlot (i : Fin 8) (tag : Nat) (l : s.timedBut x) : (clearSlot i tag s).timedBut x :=
  timedBut_produce _ _ _ _ (timedBut_opportunityBoth (timedBut_same rfl rfl l))

theorem timedBut_placePocket (b : Fin 16) (y : TrayId) (l : s.timedBut x) : (placePocket b y s).timedBut x :=
  timedBut_fillTray b y (timedBut_modCounters _ (timedBut_same rfl rfl l))

/-! ## Heads -/

theorem timedBut_doneEffect (h : Head) (o : Order) (l : s.timedBut x) : (doneEffect h o s).timedBut x := by
  unfold doneEffect
  split
  · unfold socketPicked
    split
    · exact timedBut_modSocket _ (fun _ => .inr (by simp)) (timedBut_moveRecord _ _ l)
    · exact timedBut_enterEmpty _ (timedBut_moveRecord _ _ l)
  · exact timedBut_clearSlot _ _ (timedBut_moveRecord _ _ l)
  · exact timedBut_opportunityBoth (timedBut_moveRecord _ _ l)
  · split
    · exact timedBut_beginSoak _ (timedBut_moveRecord _ _ l)
    · exact timedBut_enterEmpty _ (timedBut_clearPartFaults _ l)
  · exact timedBut_opportunityBoth (timedBut_moveRecord _ _ l)
  · split
    · exact timedBut_releaseAt _ (timedBut_placePocket _ _ l)
    · exact timedBut_modCounters _ (timedBut_placePocket _ _ l)
  · exact l

theorem timedBut_retime (h : Head) (l : s.timedBut x) : (retime h s).timedBut x := by
  unfold retime
  split
  · exact timedBut_startTimer _ _ l
  · exact timedBut_cancelOther (.order h) (by simp) (by simp) l

theorem timedBut_setKnown (h : Head) (p : Pos) (l : s.timedBut x) : (setKnown h p s).timedBut x := timedBut_modHead _ _ l

/-- What follows every order that leaves its queue. -/
theorem timedBut_orderLeft (h : Head) (p : Option Nat) (l : s.timedBut x) :
    (grantPoint h (opportunity h (endPlan h p s))).timedBut x :=
  timedBut_grantPoint _ (timedBut_opportunity _ (timedBut_endPlan _ _ l))

theorem timedBut_resolveDone (h : Head) (o : Order) (l : s.timedBut x) : (resolveDone h o s).timedBut x :=
  timedBut_orderLeft _ _ (timedBut_retime _ (timedBut_recomputeHoldings _ (timedBut_modHead _ _
    (timedBut_doneEffect _ _ (timedBut_setKnown _ _ (timedBut_leaveQueue _ _ l))))))

theorem timedBut_notDoneEffect (o : Order) (l : s.timedBut x) : (notDoneEffect o s).timedBut x := by
  unfold notDoneEffect
  split
  · split
    · exact timedBut_enterTested _ l
    · exact l
  · split
    · exact timedBut_enterEmpty _ l
    · exact l
  · exact timedBut_holeOf _ l

theorem timedBut_resolveNotDone (h : Head) (o : Order) (l : s.timedBut x) : (resolveNotDone h o s).timedBut x :=
  timedBut_orderLeft _ _ (timedBut_recomputeHoldings _ (timedBut_notDoneEffect _ (timedBut_leaveQueue _ _ l)))

theorem timedBut_revertSocket (o : Order) (l : s.timedBut x) : (revertSocket o s).timedBut x := by
  unfold revertSocket
  split
  · split
    · exact timedBut_enterTested _ l
    · exact l
  · next i _ _ =>
    have back : (if s.sockets[i].state = .filling then
        opportunityServing i (s.modSocket i fun y => { y with state := .empty }) else s).timedBut x := by
      split
      · exact timedBut_opportunityServing _ (timedBut_modSocket _ (fun _ => .inr (by simp)) l)
      · exact l
    dsimp only
    generalize (if s.sockets[i].state = .filling then
        opportunityServing i (s.modSocket i fun y => { y with state := .empty }) else s) = u at back ⊢
    split
    · split
      · exact timedBut_goOff _ (timedBut_cancelPlacesInto _ back)
      · exact timedBut_cancelPlacesInto _ back
    · exact back
  · exact l

theorem timedBut_returnForRetry (h : Head) (failed : Option Nat) (l : s.timedBut x) :
    (returnForRetry h failed s).timedBut x :=
  timedBut_grantPoint _ (timedBut_opportunity _ (timedBut_recomputeHoldings _
    (timedBut_cancelOther (.order h) (by simp) (by simp)
      (foldl_keeps (P := (State.timedBut · x)) (fun _ o l => timedBut_revertSocket o l) _ (timedBut_modHead _ _ l)))))

theorem timedBut_lostFrom (o : Order) (l : s.timedBut x) : (lostFrom o s).timedBut x := by
  unfold lostFrom
  split
  · exact timedBut_afterOff _ (timedBut_complete _ _ _ (timedBut_raiseEvent _ _ (timedBut_noteFault _ _
      (timedBut_modSocket _ (fun _ => .inr (by simp)) (timedBut_modCounters _ (timedBut_releaseAt _ l))))))
  · exact timedBut_clearSlot _ _ (timedBut_modCounters _ (timedBut_releaseAt _ l))
  · exact timedBut_opportunityBoth (timedBut_modCounters _ (timedBut_releaseAt _ l))
  · exact l

theorem timedBut_finalMiss (h : Head) (o : Order) (l : s.timedBut x) : (finalMiss h o s).timedBut x :=
  timedBut_grantPoint _ (timedBut_opportunity _ (timedBut_raiseEvent _ _ (timedBut_endPlan _ _ (timedBut_lostFrom _
    (foldl_keeps (P := (State.timedBut · x)) (fun _ q l => timedBut_resolveNotDone h q l) _
      (timedBut_leaveQueue _ _ l))))))

theorem timedBut_stuckAt (o : Order) (l : s.timedBut x) : (stuckAt o s).timedBut x := by
  unfold stuckAt
  split
  · next i _ =>
    have dropped := timedBut_modSocket i (f := fun y => { y with plan := none }) (fun _ => .inl rfl) l
    dsimp only
    refine timedBut_noteFault _ _ ?_
    split
    · exact timedBut_enterEmpty _ dropped
    · exact dropped
  · exact timedBut_same rfl rfl l
  · exact timedBut_holeOf _ l

theorem timedBut_raiseStuck (tag : Option Nat) (l : s.timedBut x) : (raiseStuck tag s).timedBut x := by
  unfold raiseStuck
  split
  · exact timedBut_raiseEvent _ _ l
  · exact timedBut_raiseEvent _ _ (timedBut_draws _ l)

theorem timedBut_finalStuck (h : Head) (o : Order) (l : s.timedBut x) : (finalStuck h o s).timedBut x :=
  timedBut_grantPoint _ (timedBut_opportunity _ (timedBut_raiseStuck _ (timedBut_endPlan _ _ (timedBut_stuckAt _
    (timedBut_leaveQueue _ _ l)))))

theorem timedBut_stopQueue (h : Head) (l : s.timedBut x) : (stopQueue h s).timedBut x :=
  timedBut_cancelWhere _ _ (timedBut_cancelOther (.order h) (by simp) (by simp)
    (timedBut_yieldCheck _ (timedBut_modHead _ _ l)))

theorem timedBut_failGranted (h : Head) (l : s.timedBut x) : (failGranted h s).timedBut x :=
  foldl_keeps (P := (State.timedBut · x)) (fun _ o l => timedBut_resolveNotDone h o l) _ l

theorem timedBut_stopTimeout (h : Head) (l : s.timedBut x) : (stopTimeout h s).timedBut x :=
  timedBut_raiseEvent _ _ (timedBut_raiseEvent _ _ (timedBut_modHead _ _ (timedBut_stopQueue h l)))

theorem timedBut_compareNozzle (h : Head) (presence : Byte) (n : Fin 4) (l : s.timedBut x) :
    (compareNozzle h presence s n).timedBut x := by
  unfold compareNozzle
  split
  · split
    · exact timedBut_modHead _ _ l
    · exact l
  · unfold clearNozzle removeFromNozzle
    refine timedBut_modHead _ _ ?_
    split
    · exact timedBut_modCounters _ (timedBut_releaseAt _ l)
    · exact l

theorem timedBut_resolveByPresence (h : Head) (presence : Byte) :
    ∀ (os : List Order) (failed : Bool) {s}, s.timedBut x → (resolveByPresence h presence os failed s).timedBut x
  | [], _, _, l => l
  | o :: os, failed, s, l => by
    have keep (f : Bool) : (resolveByPresence h presence os f (resolveNotDone h o s)).timedBut x :=
      timedBut_resolveByPresence h presence os f (timedBut_resolveNotDone h o l)
    have done : (resolveByPresence h presence os false (resolveDone h o s)).timedBut x :=
      timedBut_resolveByPresence h presence os false (timedBut_resolveDone h o l)
    unfold resolveByPresence
    split
    · split
      · exact done
      · exact keep true
    · split
      · exact done
      · exact keep true
    · exact keep failed

theorem timedBut_reconcile (h : Head) (presence : Byte) (l : s.timedBut x) : (reconcile h presence s).timedBut x := by
  have compared := foldl_keeps (P := (State.timedBut · x)) (fun _ n l => timedBut_compareNozzle h presence n l)
    (List.finRange 4) (timedBut_resolveByPresence h presence ((s.head h).queue.filter fun o => o.state == .unknown) false l)
  unfold reconcile compareNozzles
  dsimp only
  split
  · exact timedBut_raiseEvent _ _ compared
  · exact compared

theorem timedBut_standAt (h : Head) (p : Pos) (l : s.timedBut x) : (standAt h p s).timedBut x := by
  unfold standAt
  dsimp only
  split
  · exact timedBut_tellOther _ _ (timedBut_modHead _ _ l)
  · exact timedBut_raiseEvent _ _ (timedBut_tellOther _ _ (timedBut_modHead _ _ l))

theorem timedBut_recoverReady (h : Head) (presence : Byte) (p : Pos) (l : s.timedBut x) :
    (recoverReady h presence p s).timedBut x := by
  have stood := timedBut_standAt h p (timedBut_modHead h (fun y => { y with state := .ready }) (timedBut_setKnown h p
    (timedBut_reconcile h presence (timedBut_cancelOther (.recover h) (by simp) (by simp) l))))
  unfold recoverReady
  dsimp only
  refine timedBut_grantPoint _ (timedBut_opportunity _ ?_)
  split
  · exact timedBut_complete _ _ _ (timedBut_modHead _ _ stood)
  · exact stood

theorem timedBut_restartReady (h : Head) (presence : Byte) (p : Pos) (l : s.timedBut x) :
    (restartReady h presence p s).timedBut x :=
  timedBut_grantPoint _ (timedBut_opportunity _ (timedBut_standAt _ _ (timedBut_setKnown _ _ (timedBut_reconcile _ _
    (timedBut_modHead _ _ (timedBut_cancelOther (.order h) (by simp) (by simp) (timedBut_raiseEvent _ _ l)))))))

theorem timedBut_takeOutcome (h : Head) (y : HeadOutcome) (o : Order) (l : s.timedBut x) :
    (takeOutcome h y o s).timedBut x := by
  unfold takeOutcome
  split
  · exact timedBut_resolveDone h o l
  · split
    · exact timedBut_returnForRetry _ _ l
    · exact timedBut_returnForRetry _ _ (timedBut_finalMiss h o l)
  · split
    · exact timedBut_returnForRetry _ _ l
    · exact timedBut_raiseEvent _ _ (timedBut_failGranted _ (timedBut_stopQueue _ (timedBut_finalStuck h o l)))
  · exact l

theorem timedBut_takeLate (h : Head) (y : HeadOutcome) (o : Order) (l : s.timedBut x) : (takeLate h y o s).timedBut x := by
  unfold takeLate
  split
  · exact timedBut_resolveDone h o l
  · refine timedBut_failGranted _ ?_
    split
    · exact timedBut_resolveNotDone h o l
    · exact timedBut_finalMiss h o l
  · refine timedBut_failGranted _ ?_
    split
    · exact timedBut_resolveNotDone h o l
    · exact timedBut_finalStuck h o l
  · exact l

theorem timedBut_takeHeadStatus (h : Head) (payload : List Byte) (l : s.timedBut x) :
    (takeHeadStatus h payload s).timedBut x := by
  have raised := timedBut_raiseEvent .headProtocol h.num l
  unfold takeHeadStatus
  dsimp only
  split
  · split
    · exact raised
    · split
      · exact timedBut_restartReady _ _ _ l
      · exact timedBut_recoverReady _ _ _ l
    · split
      · exact timedBut_raiseEvent _ _ (timedBut_setKnown _ _ (timedBut_modHead _ _ (timedBut_stopQueue _ l)))
      · exact timedBut_setKnown _ _ l
    · unfold orderStatus
      split
      · split
        · split
          · exact timedBut_takeOutcome _ _ _ l
          · exact timedBut_takeLate _ _ _ l
        · exact raised
      · exact raised
  · exact raised

/-! ## Shuttle reports -/

theorem timedBut_register (i : Fin 8) (tag : Nat) (l : s.timedBut x) : (register i tag s).timedBut x := by
  unfold register
  split
  · exact l
  · exact timedBut_opportunityBoth (timedBut_same rfl rfl l)

theorem timedBut_takeIn (i : Fin 8) (tag : Nat) (l : s.timedBut x) : (takeIn i tag s).timedBut x := by
  unfold takeIn
  split
  · exact timedBut_raiseEvent _ _ l
  · exact timedBut_register _ _ l

theorem timedBut_takeShuttleReport (payload : List Byte) (l : s.timedBut x) :
    (takeShuttleReport payload s).timedBut x := by
  have emptied (i : Fin 8) : (emptySlot i s).timedBut x := timedBut_opportunityBoth (timedBut_same rfl rfl l)
  unfold takeShuttleReport
  dsimp only
  split
  · exact timedBut_raiseEvent _ _ l
  · split
    · unfold reportHeld
      split
      · split
        · exact l
        · exact timedBut_raiseEvent _ _ l
      · split
        · exact l
        · exact timedBut_raiseEvent _ _ l
    · unfold reportVacant
      split
      · split
        · exact l
        · exact timedBut_takeIn _ _ l
      · split
        · exact emptied _
        · split
          · exact l
          · exact timedBut_takeIn _ _ (emptied _)

/-! ## The planner -/

theorem timedBut_reserveSocket (p : Nat) (i : Fin 64) (l : s.timedBut x) : (reserveSocket p i s).timedBut x :=
  timedBut_modSocket i (fun _ => .inl rfl) l

theorem timedBut_openPlan (h : Head) (k : PlanKind) (l : s.timedBut x) : (openPlan h k s).timedBut x :=
  timedBut_same rfl rfl l

theorem timedBut_reservePart (p : Nat) (k : Option (Fin 96)) (l : s.timedBut x) : (reservePart p k s).timedBut x := by
  unfold reservePart
  split
  · exact timedBut_modPart _ _ l
  · exact l

theorem timedBut_orderPick (h : Head) (p : Nat) (loc : Location) (k : Option (Fin 96)) (n : Fin 4) (l : s.timedBut x) :
    (orderPick h p loc k n s).timedBut x :=
  timedBut_grantPoint _ (timedBut_modHead _ _ (timedBut_modHead _ _ (timedBut_reservePart _ _ l)))

theorem timedBut_orderPlace (h : Head) (p : Nat) (loc : Location) (k : Fin 96) (n : Fin 4) (l : s.timedBut x) :
    (orderPlace h p loc k n s).timedBut x :=
  timedBut_grantPoint _ (timedBut_modHead _ _ (timedBut_modHead _ _ (timedBut_reservePart _ _ l)))

theorem timedBut_tryUnload (h : Head) (l : s.timedBut x) (ht : tryUnload h s = some t) : t.timedBut x := by
  have opened (k : PlanKind) (p : Nat) (i : Fin 64) (pos : Nat) :
      (reserveSocket p i (movePointer h pos (openPlan h k s))).timedBut x :=
    timedBut_reserveSocket _ _ (timedBut_modHead _ _ (timedBut_openPlan _ _ l))
  unfold tryUnload at ht
  split at ht
  · cases ht
  · split at ht
    · cases ht
    · dsimp only at ht
      split at ht <;> cases ht
      · exact timedBut_orderPick _ _ _ _ _ (opened _ _ _ _)
      · exact timedBut_orderPlace _ _ _ _ _ (timedBut_orderPick _ _ _ _ _ (opened _ _ _ _))

theorem timedBut_tryLoad (h : Head) (l : s.timedBut x) (ht : tryLoad h s = some t) : t.timedBut x := by
  unfold tryLoad at ht
  split at ht
  · cases ht
  · split at ht
    · cases ht
    · split at ht <;> cases ht
      exact timedBut_orderPlace _ _ _ _ _ (timedBut_reserveSocket _ _ (timedBut_modHead _ _ (timedBut_openPlan _ _ l)))

theorem timedBut_tryFetch (h : Head) (l : s.timedBut x) (ht : tryFetch h s = some t) : t.timedBut x := by
  unfold tryFetch at ht
  split at ht
  · dsimp only at ht
    split at ht
    · cases ht
      exact timedBut_orderPick _ _ _ _ _ (timedBut_same rfl rfl (timedBut_openPlan h .fetch l))
    · split at ht
      · cases ht
      · split at ht <;> cases ht
        exact timedBut_orderPick _ _ _ _ _ (timedBut_same rfl rfl (timedBut_openPlan h .fetch l))
  · cases ht

theorem timedBut_checkStarved (h : Head) (l : s.timedBut x) : (checkStarved h s).timedBut x := by
  unfold checkStarved
  split
  · exact l
  · split
    · exact l
    · split
      · exact l
      · exact timedBut_raiseEvent _ _ l

theorem timedBut_stowPlan (h : Head) (loc : Location) (k : Fin 96) (n : Fin 4) (l : s.timedBut x) :
    (stowPlan h loc k n s).timedBut x := by
  have opened := timedBut_openPlan h .stow l
  unfold stowPlan
  dsimp only
  refine timedBut_orderPlace _ _ _ _ _ ?_
  split
  · exact timedBut_same rfl rfl opened
  · exact opened

theorem timedBut_moveActive (b : Fin 16) (y : TrayId) (l : s.timedBut x) : (moveActive b y s).timedBut x := by
  unfold moveActive
  split
  · exact timedBut_opportunityBoth (timedBut_same rfl rfl l)
  · exact timedBut_same rfl rfl l

theorem timedBut_askPocket (b : Fin 16) (l : s.timedBut x) : (askPocket b s).1.timedBut x := by
  have taken (c : Fin 16) (y : TrayId) : (takePocket c y s).1.timedBut x := by
    unfold takePocket
    dsimp only
    split
    · exact timedBut_moveActive _ _ (timedBut_same rfl rfl l)
    · exact timedBut_same rfl rfl l
  unfold askPocket
  split
  · exact timedBut_same rfl rfl (taken _ _)
  · dsimp only
    split
    · exact timedBut_same rfl rfl l
    · exact timedBut_raiseEvent _ _ (timedBut_same rfl rfl l)

theorem timedBut_stowFirst (h : Head) (cs : List (Fin 4 × Fin 96 × PartRecord)) (l : s.timedBut x) :
    (stowFirst h cs s).1.timedBut x := by
  induction cs generalizing s with
  | nil => exact l
  | cons c cs ih =>
    unfold stowFirst
    split
    · exact ih l
    · next b _ =>
      have asked := timedBut_askPocket b l
      split
      · next e => rw [e] at asked; exact timedBut_stowPlan _ _ _ _ asked
      · next e => rw [e] at asked; exact ih asked

theorem timedBut_stowRetest (h : Head) (l : s.timedBut x) : (stowRetest h s).1.timedBut x := by
  unfold stowRetest
  split
  · split
    · exact l
    · next n k r _ =>
      split
      · exact timedBut_stowPlan _ _ _ _ l
      · have full : (overflow k r.tag s).timedBut x := timedBut_raiseEvent _ _ (timedBut_convert k l)
        dsimp only
        split
        · exact timedBut_stowFirst _ _ full
        · exact full
  · exact l

theorem timedBut_tryStow (h : Head) (l : s.timedBut x) : (tryStow h s).1.timedBut x := by
  have first := timedBut_stowFirst h (carried s h) l
  unfold tryStow
  split
  · next e => rw [e] at first; exact first
  · next e => rw [e] at first; exact timedBut_stowRetest _ first

theorem timedBut_onePass (h : Head) (l : s.timedBut x) : (onePass h s).1.timedBut x := by
  unfold onePass
  split
  · next e => exact timedBut_tryUnload h l e
  · split
    · next e => exact timedBut_tryLoad h l e
    · have stowed := timedBut_tryStow h (timedBut_checkStarved h l)
      split
      · next e => rw [e] at stowed; exact stowed
      · next e =>
        rw [e] at stowed
        split
        · next f => exact timedBut_tryFetch h stowed f
        · exact stowed

theorem timedBut_passes (h : Head) : ∀ (k : Nat) {s}, s.timedBut x → (passes h k s).timedBut x
  | 0, _, l => l
  | k + 1, s, l => by
    have passed := timedBut_onePass h l
    unfold passes
    split
    · split
      · next e => rw [e] at passed; exact timedBut_passes h k passed
      · next e => rw [e] at passed; exact passed
    · exact l

end Sys2Proof.Machine
end

section
/-! PROOFS. An induction over every command for the laws of the deck. A law of sockets, timers, heads, part records and slots
that the operations of the blocks keep is kept by every command and every step, `DeckLaw.exec` and `DeckLaw.step`; the laws of
custody and of the tests are two such laws. -/

namespace Sys2Proof.Machine

variable {P : State → Prop} {s t : State}

/-- Two states with the same sockets, timers, heads, part records and slots. -/
structure SameDeck (s t : State) : Prop where
  sockets : t.sockets = s.sockets
  timers : t.timers = s.timers
  heads : t.heads = s.heads
  parts : t.parts = s.parts
  inputs : t.inputs = s.inputs
  retests : t.retests = s.retests

theorem SameDeck.of_offLink (e : t.offLink = s.offLink) : SameDeck s t :=
  ⟨offLink_sockets e, offLink_timers e, offLink_heads e, offLink_parts e, offLink_inputs e, offLink_retests e⟩

/-- A property of the deck that the operations of the blocks keep. -/
structure DeckLaw (P : State → Prop) : Prop where
  same : ∀ {s t}, P s → SameDeck s t → P t
  power : ∀ a q n, P { State.reset with ownAddress := a, pending := q, draws := n }
  soft : ∀ {s}, P (softReset s)
  lot : ∀ l {s}, P s → P (changeLot l s)
  ticked : ∀ {s}, P s → P (endTick s)
  modHead : ∀ h (f : HeadRecord → HeadRecord) {s}, (∀ y, (f y).nozzles = y.nozzles) → P s → P (s.modHead h f)
  modSocket : ∀ i {f : Socket → Socket} {s}, Calm f → (∀ y, (f y).record = y.record) → P s → P (s.modSocket i f)
  modInput : ∀ i {f : InputSlot → InputSlot} {s}, (∀ y, (f y).record = y.record) → P s → P (s.modInput i f)
  start : ∀ id n {s}, P s → P (startTimer id n s)
  release : ∀ p {s}, P s → P (releaseAt p s)
  purged : ∀ p {s}, P s → P (purgedPlace p s)
  afterOff : ∀ i {s}, P s → P (afterOff i s)
  enterEmpty : ∀ i {s}, P s → P (enterEmpty i s)
  setPendingDisable : ∀ i c {s}, P s → P (setPendingDisable i c s)
  convertAll : ∀ {s}, P s → P (convertAll s)
  updateGroups : ∀ {s}, P s → P (updateGroups s)
  settle : ∀ {s}, P s → P (settle s)
  takeAtOnce : ∀ {s}, P s → P (takeAtOnce s)
  finish : ∀ {s}, P s → P (finish s)
  expiry : ∀ id {s}, P s → P (ownerActs id (cancelTimer id s))
  result : ∀ i code time {s}, P s → P (takeResult i code time s)
  status : ∀ h payload {s}, P s → P (takeHeadStatus h payload s)
  shuttle : ∀ payload {s}, P s → P (takeShuttleReport payload s)
  passes : ∀ h k {s}, P s → P (passes h k s)

namespace DeckLaw

theorem link (c : DeckLaw P) (e : t.offLink = s.offLink) (hs : P s) : P t := c.same hs (.of_offLink e)

/-- An answer to a request, after a change that keeps the law. -/
theorem answered (c : DeckLaw P) (r : Request) (code : ResultCode) (n : Nat) (fs : List Byte) (hs : P s) :
    P (respondWith r code n fs s) := c.link (offLink_respondWith _ _ _ _ _) hs

theorem opportunity (c : DeckLaw P) (h : Head) (hs : P s) : P (opportunity h s) := by
  unfold Machine.opportunity
  split
  · exact c.modHead _ _ (fun _ => rfl) hs
  · exact hs

theorem opportunityBoth (c : DeckLaw P) (hs : P s) : P (opportunityBoth s) := c.opportunity _ (c.opportunity _ hs)

theorem takeRequest (c : DeckLaw P) (r : Request) (a b : Bool) {act : State → State} (ha : ∀ {s}, P s → P (act s))
    (hs : P s) : P (takeRequest r a b act s) := by
  unfold Machine.takeRequest
  split
  · split
    · exact ha hs
    · exact c.answered _ _ _ _ hs
  · exact c.answered _ _ _ _ hs

theorem listFull (c : DeckLaw P) (r : Request) (hs : P s) : P (respondListFull r s) :=
  c.answered _ _ _ _ (c.same hs ⟨rfl, rfl, rfl, rfl, rfl, rfl⟩)

/-! ## Lot requests -/

theorem openPoints (c : DeckLaw P) (hs : P s) : P (openPoints s) := c.same hs ⟨rfl, rfl, rfl, rfl, rfl, rfl⟩

theorem enterActive (c : DeckLaw P) (l : LotState) (hs : P s) : P (enterActive l s) :=
  c.openPoints (c.opportunityBoth (c.updateGroups (c.lot l hs)))

theorem zeroPointers (c : DeckLaw P) (hs : P s) : P (zeroPointers s) :=
  c.modHead _ _ (fun _ => rfl) (c.modHead _ _ (fun _ => rfl) hs)

theorem lotStart (c : DeckLaw P) (r : Request) (hs : P s) : P (lotStartRequest r s) := by
  refine c.takeRequest r _ _ (fun {s} hs => ?_) hs
  split
  · exact c.answered _ _ _ _ hs
  · exact c.finish (c.answered _ _ _ _ (c.enterActive _ (c.zeroPointers
      (c.same hs ⟨rfl, rfl, rfl, rfl, rfl, rfl⟩))))

theorem lotPause (c : DeckLaw P) (r : Request) (hs : P s) : P (lotPauseRequest r s) := by
  refine c.takeRequest r _ _ (fun {s} hs => ?_) hs
  split
  · exact c.answered _ _ _ _ hs
  · exact c.answered _ _ _ _ (c.lot _ (c.same hs ⟨rfl, rfl, rfl, rfl, rfl, rfl⟩))

theorem lotResume (c : DeckLaw P) (r : Request) (hs : P s) : P (lotResumeRequest r s) :=
  c.takeRequest r _ _ (fun hs => c.finish (c.answered _ _ _ _ (c.enterActive _
    (c.same hs ⟨rfl, rfl, rfl, rfl, rfl, rfl⟩)))) hs

theorem drainTicket (c : DeckLaw P) (r : Request) (hs : P s) : P (drainTicket r s) :=
  c.answered _ _ _ _ (c.same hs ⟨rfl, rfl, rfl, rfl, rfl, rfl⟩)

theorem lotDrain (c : DeckLaw P) (r : Request) (hs : P s) : P (lotDrainRequest r s) := by
  refine c.takeRequest r _ _ (fun {s} hs => ?_) hs
  split
  · unfold drainFromRun
    split
    · exact c.listFull r hs
    · have settled := c.settle (c.enterActive .drain (c.convertAll hs))
      dsimp only
      split
      · exact c.answered _ _ _ _ settled
      · exact c.takeAtOnce (c.drainTicket r settled)
  · unfold drainAgain
    split
    · exact c.answered _ _ _ _ hs
    · split
      · exact c.answered _ _ _ _ hs
      · split
        · exact c.listFull r hs
        · exact c.drainTicket r hs

theorem returnSlot (c : DeckLaw P) (i : Fin 8) (hs : P s) : P (returnSlot s i) := by
  unfold Machine.returnSlot
  refine c.modInput i (fun _ => rfl) ?_
  split
  · exact c.same (c.release (.input i) hs) ⟨rfl, rfl, rfl, rfl, rfl, rfl⟩
  · exact hs

theorem removeFromNozzles (c : DeckLaw P) (h : Head) (hs : P s) : P (removeFromNozzles h s) := by
  refine foldl_keeps (fun s n hs => ?_) _ hs
  unfold removeFromNozzle
  split
  · exact c.same (c.release (.nozzle h n) hs) ⟨rfl, rfl, rfl, rfl, rfl, rfl⟩
  · exact hs

theorem emptyCustody (c : DeckLaw P) (hs : P s) : P (emptyCustody s) :=
  c.removeFromNozzles _ (c.removeFromNozzles _ (foldl_keeps (fun _ i hs => c.returnSlot i hs) _ hs))

theorem parkHead (c : DeckLaw P) (h : Head) (hs : P s) : P (parkHead h s) := by
  unfold Machine.parkHead
  split
  · exact c.modHead _ _ (fun _ => rfl) (c.modHead _ _ (fun _ => rfl) (c.link (offLink_produce _ _ _ _ _)
      (c.modHead _ _ (fun _ => rfl) (c.modHead _ _ (fun _ => rfl) hs))))
  · exact hs

theorem holdPark (c : DeckLaw P) (h : Head) (z : Nat) (hs : P s) : P (holdPark h z s) := by
  unfold Machine.holdPark
  split
  · exact c.modHead _ _ (fun _ => rfl) hs
  · exact hs

theorem lotEnd (c : DeckLaw P) (r : Request) (hs : P s) : P (lotEndRequest r s) :=
  c.takeRequest r _ _ (fun hs => c.answered _ _ _ _ (c.lot _ (c.holdPark _ _ (c.holdPark _ _ (c.parkHead _ (c.parkHead _
    (c.emptyCustody hs))))))) hs

theorem bypassEnter (c : DeckLaw P) (r : Request) (hs : P s) : P (bypassEnterRequest r s) :=
  c.takeRequest r _ _ (fun hs => c.answered _ _ _ _ (c.lot _ hs)) hs

theorem bypassExit (c : DeckLaw P) (r : Request) (hs : P s) : P (bypassExitRequest r s) :=
  c.takeRequest r _ _ (fun hs => c.answered _ _ _ _ (c.lot _ hs)) hs

theorem reset (c : DeckLaw P) (r : Request) (hs : P s) : P (resetRequest r s) :=
  c.takeRequest r _ _ (fun {_} _ => foldl_keeps (fun _ x hs => c.link (offLink_produceCompletion x _ _) hs) _
    (c.answered _ _ _ _ c.soft)) hs

/-! ## Tables, status and events -/

theorem dropUnfitted (c : DeckLaw P) (i : Fin 64) (hs : P s) : P (dropUnfitted s i) := by
  unfold Machine.dropUnfitted
  split
  · exact c.afterOff i (c.modSocket i (fun _ => .inr (by simp)) (fun _ => rfl) hs)
  · exact hs

theorem map_ok_inv {ε α β : Type} {x : Except ε α} {f : α → β} {u : β} (h : x.map f = .ok u) :
    ∃ a, x = .ok a ∧ f a = u := by
  cases x with
  | error e => cases h
  | ok a => exact ⟨a, rfl, Except.ok.inj h⟩

/-- An accepted write changes its table, and one of SITE_GEOMETRY the sockets it takes out of service as well. -/
theorem writeTable_ok {table : TableId} {n : Nat} {es : List (List Byte)} {u : State}
    (h : writeTable table n es s = .ok u) :
    SameDeck s u ∨ ∃ v, u = (List.finRange 64).foldl Machine.dropUnfitted { s with siteGeometry := v } := by
  cases table
  case node =>
    simp only [writeTable] at h
    split at h <;> cases h
    exact .inl ⟨rfl, rfl, rfl, rfl, rfl, rfl⟩
  case serviceList =>
    cases h
    exact .inl ⟨rfl, rfl, rfl, rfl, rfl, rfl⟩
  case siteGeometry =>
    simp only [writeTable] at h
    obtain ⟨xs, -, e⟩ := map_ok_inv h
    exact .inr ⟨putFrom s.siteGeometry n (xs.map some), e.symm⟩
  all_goals
    simp only [writeTable] at h
    obtain ⟨xs, -, rfl⟩ := map_ok_inv h
    exact .inl ⟨rfl, rfl, rfl, rfl, rfl, rfl⟩

theorem writeTable (c : DeckLaw P) {table : TableId} {n : Nat} {es : List (List Byte)} {u : State} (hs : P s)
    (h : Machine.writeTable table n es s = .ok u) : P u := by
  rcases writeTable_ok h with same | ⟨v, written⟩
  · exact c.same hs same
  · rw [written]
    refine foldl_keeps (fun _ i hs => c.dropUnfitted i hs) _ ?_
    exact c.same hs ⟨rfl, rfl, rfl, rfl, rfl, rfl⟩

theorem setCursor (c : DeckLaw P) (table : TableId) (n : Nat) (hs : P s) : P (setCursor table n s) :=
  c.same hs ⟨rfl, rfl, rfl, rfl, rfl, rfl⟩

theorem writeServiceList (c : DeckLaw P) (r : Request) (m : Nat) (bs : List Byte) (hs : P s) :
    P (writeServiceList r m bs s) := by
  have listed {u : State} (hu : P u) : P (answerServiceList r u) := c.answered _ _ _ _ (c.setCursor _ _ hu)
  unfold Machine.writeServiceList
  split
  · exact listed hs
  · extract_lets fresh start
    split
    · exact c.answered _ _ _ _ hs
    · split
      · exact c.answered _ _ _ _ hs
      · refine c.opportunityBoth (listed ?_)
        split
        · exact c.zeroPointers (c.same hs ⟨rfl, rfl, rfl, rfl, rfl, rfl⟩)
        · exact c.same hs ⟨rfl, rfl, rfl, rfl, rfl, rfl⟩

theorem writeRequest (c : DeckLaw P) (r : Request) (hs : P s) : P (writeRequest r s) := by
  unfold Machine.writeRequest
  extract_lets mode
  split
  · exact c.answered _ _ _ _ hs
  · split
    · exact c.answered _ _ _ _ hs
    · exact c.writeServiceList _ _ _ hs
  · split
    · exact c.answered _ _ _ _ hs
    · split
      · exact c.answered _ _ _ _ (c.link (offLink_raiseEvent _ _ _) hs)
      · extract_lets start entries
        split
        · exact c.answered _ _ _ _ hs
        · split
          · exact c.answered _ _ _ _ hs
          · next written => exact c.answered _ _ _ _ (c.setCursor _ _ (c.writeTable hs written))

theorem tableWrite (c : DeckLaw P) (r : Request) (hs : P s) : P (tableWriteRequest r s) :=
  c.takeRequest r _ _ (c.writeRequest r) hs

theorem tableRead (c : DeckLaw P) (r : Request) (hs : P s) : P (tableReadRequest r s) := by
  refine c.takeRequest r _ _ (fun {s} hs => ?_) hs
  unfold readRequest
  dsimp only
  split
  · exact c.answered _ _ _ _ hs
  · split
    · exact c.answered _ _ _ _ hs
    · split
      · exact c.answered _ _ _ _ hs
      · split <;> exact c.answered _ _ _ _ hs

theorem cursorReset (c : DeckLaw P) (r : Request) (hs : P s) : P (cursorResetRequest r s) := by
  refine c.takeRequest r _ _ (fun {s} hs => ?_) hs
  unfold cursorRequest
  split
  · exact c.answered _ _ _ _ hs
  · exact c.answered _ _ _ _ (c.setCursor _ _ hs)

theorem statusRead (c : DeckLaw P) (r : Request) (hs : P s) : P (statusReadRequest r s) := by
  refine c.takeRequest r _ _ (fun {s} hs => ?_) hs
  unfold statusRequest
  dsimp only
  split
  · exact c.answered _ _ _ _ hs
  · split <;> exact c.answered _ _ _ _ hs

theorem eventAck (c : DeckLaw P) (r : Request) (hs : P s) : P (eventAckRequest r s) := by
  refine c.takeRequest r _ _ (fun {s} hs => ?_) hs
  unfold ackEvents
  split
  · exact c.answered _ _ _ _ hs
  · exact c.answered _ _ _ _ (c.same hs ⟨rfl, rfl, rfl, rfl, rfl, rfl⟩)

theorem eventMask (c : DeckLaw P) (r : Request) (hs : P s) : P (eventMaskRequest r s) := by
  refine c.takeRequest r _ _ (fun {s} hs => ?_) hs
  unfold maskEvents
  split
  · exact c.answered _ _ _ _ hs
  · refine foldl_keeps (fun s k hs => ?_) _ (c.answered _ _ _ _ (c.same hs ⟨rfl, rfl, rfl, rfl, rfl, rfl⟩))
    unfold announce
    dsimp only
    split
    · exact c.link (by simp) hs
    · exact c.link (by simp) hs

/-! ## Requests on the deck -/

theorem withSocket (c : DeckLaw P) (r : Request) {act : Fin 64 → State → State} (ha : ∀ i {s}, P s → P (act i s))
    (hs : P s) : P (withSocket r act s) := by
  unfold Machine.withSocket
  split
  · exact c.answered _ _ _ _ hs
  · exact ha _ hs

theorem socketEnable (c : DeckLaw P) (r : Request) (hs : P s) : P (socketEnableRequest r s) := by
  refine c.takeRequest r _ _ (c.withSocket r (fun i {s} hs => ?_)) hs
  unfold enableSocket
  split
  · split
    · exact c.answered _ _ _ _ (c.enterEmpty i hs)
    · exact c.answered _ _ _ _ hs
  · split <;> exact c.answered _ _ _ _ hs

theorem socketDisable (c : DeckLaw P) (r : Request) (hs : P s) : P (socketDisableRequest r s) := by
  refine c.takeRequest r _ _ (c.withSocket r (fun i {s} hs => ?_)) hs
  unfold disableSocket
  split
  · exact c.answered _ _ _ _ hs
  · split
    · exact c.finish (c.answered _ _ _ _ (c.setPendingDisable _ _ hs))
    · split
      · exact c.answered _ _ _ _ hs
      · split
        · exact c.listFull r hs
        · have ticketed := c.same (t := takeTicket codeSocketDisable (.socket i) s) hs ⟨rfl, rfl, rfl, rfl, rfl, rfl⟩
          refine c.finish (c.answered _ _ _ _ ?_)
          unfold requestDisable
          split
          · exact ticketed
          · exact c.setPendingDisable _ _ ticketed

theorem socketClear (c : DeckLaw P) (r : Request) (hs : P s) : P (socketClearRequest r s) :=
  c.takeRequest r _ _ (c.withSocket r fun i {_} hs =>
    c.answered _ _ _ _ (c.modSocket i (fun _ => .inl rfl) (fun _ => rfl) hs)) hs

theorem withTray (c : DeckLaw P) (r : Request) {act : Fin 16 → TrayId → State → State}
    (ha : ∀ b y {s}, P s → P (act b y s)) (hs : P s) : P (withTray r act s) := by
  unfold Machine.withTray
  split
  · exact ha _ _ hs
  · exact c.answered _ _ _ _ hs

theorem modTray (c : DeckLaw P) (b : Fin 16) (y : TrayId) (f : TrayRecord → TrayRecord) (hs : P s) : P (s.modTray b y f) :=
  c.same hs ⟨rfl, rfl, rfl, rfl, rfl, rfl⟩

theorem modBin (c : DeckLaw P) (b : Fin 16) (f : Bin → Bin) (hs : P s) : P (s.modBin b f) :=
  c.same hs ⟨rfl, rfl, rfl, rfl, rfl, rfl⟩

theorem trayReady (c : DeckLaw P) (r : Request) (hs : P s) : P (trayReadyRequest r s) := by
  refine c.takeRequest r _ _ (c.withTray r (fun b y {s} hs => ?_)) hs
  unfold declareTray
  dsimp only
  split
  · split
    · exact c.answered _ _ _ _ hs
    · split
      · exact c.answered _ _ _ _ hs
      · refine c.answered _ _ _ _ ?_
        unfold activateTray
        split
        · exact c.opportunityBoth (c.modBin _ _ (c.modTray _ _ _ (c.modTray _ _ _ hs)))
        · exact c.modTray _ _ _ hs
  · exact c.answered _ _ _ _ hs

theorem trayWithdraw (c : DeckLaw P) (r : Request) (hs : P s) : P (trayWithdrawRequest r s) := by
  refine c.takeRequest r _ _ (c.withTray r (fun b y {s} hs => ?_)) hs
  have moved : P (moveActive b y (removeTray b y s)) := by
    unfold moveActive
    split
    · exact c.opportunityBoth (c.modBin _ _ (c.modTray _ _ _ (c.modTray _ _ _ hs)))
    · exact c.modBin _ _ (c.modTray _ _ _ hs)
  unfold withdrawTray
  dsimp only
  split
  · exact c.answered _ _ _ _ hs
  · exact c.answered _ _ _ _ (c.modTray _ _ _ hs)
  · exact c.answered _ _ _ _ (c.modTray _ _ _ hs)
  · split
    · exact c.answered _ _ _ _ moved
    · exact c.answered _ _ _ _ hs
  · exact c.answered _ _ _ _ hs

theorem takeTicket (c : DeckLaw P) (code : Byte) (x : Subject) (hs : P s) : P (takeTicket code x s) :=
  c.same hs ⟨rfl, rfl, rfl, rfl, rfl, rfl⟩

theorem beginRecovery (c : DeckLaw P) (h : Head) (mode : Nat) (hs : P s) : P (beginRecovery h mode s) := by
  have told (old : Span) {u : State} (hu : P u) : P (tellOther h old u) :=
    c.same hu ⟨by simp, by simp, by simp, by simp, by simp, by simp⟩
  unfold Machine.beginRecovery
  dsimp only
  refine c.takeTicket _ _ (c.start _ _ (told _ (c.modHead h _ (fun _ => ?_) (c.modHead h _ (fun _ => ?_)
    (c.link (offLink_produce _ _ _ _ _) hs)))))
  · rfl
  · rfl

theorem headRecover (c : DeckLaw P) (r : Request) (hs : P s) : P (headRecoverRequest r s) := by
  refine c.takeRequest r _ _ (fun {s} hs => ?_) hs
  unfold recoverChecked
  split
  · exact c.answered _ _ _ _ hs
  · next h _ =>
    split
    · exact c.answered _ _ _ _ hs
    · unfold recoverHead
      split
      · exact c.answered _ _ _ _ hs
      · exact c.answered _ _ _ _ hs
      · split
        · exact c.listFull r hs
        · exact c.finish (c.answered _ _ _ _ (c.beginRecovery h _ hs))

theorem partPurge (c : DeckLaw P) (r : Request) (hs : P s) : P (partPurgeRequest r s) := by
  refine c.takeRequest r _ _ (fun {s} hs => ?_) hs
  unfold purgeSelected
  split
  · exact c.answered _ _ _ _ hs
  · split
    · exact c.answered _ _ _ _ hs
    · split
      · exact c.answered _ _ _ _ hs
      · unfold purgeRecord
        split
        · exact c.answered _ _ _ _ hs
        · split
          · exact c.answered _ _ _ _ hs
          · exact c.finish (c.answered _ _ _ _ (c.purged _
              (c.same (c.release _ hs) ⟨rfl, rfl, rfl, rfl, rfl, rfl⟩)))

theorem locate (c : DeckLaw P) (r : Request) (hs : P s) : P (locateHandler r s) := by
  refine c.takeRequest r _ _ (fun {s} hs => ?_) hs
  unfold locateRequest
  split
  · exact c.answered _ _ _ _ hs
  · split
    · exact c.answered _ _ _ _ hs
    · split <;> exact c.answered _ _ _ _ hs

/-! ## Expiries -/

theorem takeExpiry (c : DeckLaw P) (id : TimerId) (hs : P s) : P (takeExpiry id s) := by
  unfold Machine.takeExpiry
  split
  · exact c.finish (c.expiry id hs)
  · exact hs

theorem takeDueLoop (c : DeckLaw P) : ∀ (k : Nat) {s}, P s → P (takeDueLoop k s)
  | 0, _, hs => hs
  | k + 1, s, hs => by
    unfold Machine.takeDueLoop
    split
    · exact hs
    · exact c.takeDueLoop k (c.takeExpiry _ hs)
    · exact c.takeDueLoop k (c.takeExpiry _ (c.link (offLink_draws _ _) hs))

theorem takeDue (c : DeckLaw P) (hs : P s) : P (takeDue s) := by
  unfold Machine.takeDue
  split
  · exact hs
  · exact c.takeDueLoop _ hs

/-! ## Arrivals -/

theorem deliver (c : DeckLaw P) (o : Owner) (f : Frame) (hs : P s) : P (deliver o f s).1 := by
  cases o with
  | site =>
    show P (siteDelivery f s).1
    unfold siteDelivery
    split
    · exact c.link (offLink_raiseEvent _ _ _) hs
    · split
      · dsimp only
        exact c.result _ _ _ hs
      · exact c.link (offLink_raiseEvent _ _ _) hs
  | head h => exact c.status _ _ hs
  | shuttle => exact c.shuttle _ hs

theorem requestByCode (c : DeckLaw P) (code : Byte) (r : Request) (hs : P s) : P (requestByCode code r s) := by
  have either {q : Prop} [Decidable q] {a b : State} (ha : P a) (hb : P b) : P (if q then a else b) := by
    split <;> assumption
  unfold Machine.requestByCode
  refine either (c.lotStart r hs) (either (c.lotPause r hs) (either (c.lotResume r hs) ?_))
  refine either (c.lotDrain r hs) (either (c.lotEnd r hs) (either (c.bypassEnter r hs) ?_))
  refine either (c.bypassExit r hs) (either (c.reset r hs) (either (c.tableWrite r hs) ?_))
  refine either (c.tableRead r hs) (either (c.cursorReset r hs) (either (c.statusRead r hs) ?_))
  refine either (c.eventAck r hs) (either (c.eventMask r hs) (either (c.socketEnable r hs) ?_))
  refine either (c.socketDisable r hs) (either (c.socketClear r hs) (either (c.trayReady r hs) ?_))
  refine either (c.trayWithdraw r hs) (either (c.headRecover r hs) (either (c.partPurge r hs) ?_))
  exact either (c.locate r hs) (c.answered _ _ _ _ hs)

theorem arrive (c : DeckLaw P) (p : Port) (bytes : List Byte) (hs : P s) : P (arrive p bytes s) := by
  have failed : P (failFrame p s) := c.link (offLink_failFrame _ _) hs
  unfold Machine.arrive
  split
  · exact hs
  · split
    · exact failed
    · split
      · unfold classify
        split
        · unfold consume
          split
          · split
            · exact hs
            · split
              · exact c.requestByCode _ _ hs
              · exact failed
          · split
            · exact hs
            · split
              · exact c.finish (c.deliver _ _ hs)
              · exact failed
        · split
          · exact c.link (offLink_forward _ _ _) hs
          · unfold carry
            split
            · exact c.link (offLink_offer _ _ _) hs
            · split
              · exact c.link (offLink_offer _ _ _) (c.finish (c.deliver _ _ hs))
              · exact failed
      · exact failed

theorem requestArrives (c : DeckLaw P) (r : Request) {act : Request → State → State}
    (ha : ∀ {s}, P s → P (act r s)) (hs : P s) : P (requestArrives r act (Machine.takeDue s)) := by
  have due := c.takeDue hs
  unfold Machine.requestArrives
  split
  · exact due
  · split
    · exact due
    · split
      · exact c.link (offLink_raiseEvent _ _ _) due
      · exact ha due

/-! ## Every command and every step -/

/-- A law of the deck that holds before a command holds after it. -/
theorem exec (c : DeckLaw P) (i : Instr) (hs : P s) : ∀ t, exec i s = .next t → P t := by
  intro t ht
  cases i <;> cases ht
  case powerOn => exact c.power _ _ _
  case resetNAssertion => exact c.same hs ⟨rfl, rfl, rfl, rfl, rfl, rfl⟩
  case tick =>
    split
    · exact hs
    · exact c.ticked (c.takeDue hs)
  case planningPass h =>
    show P (Machine.planningPass h _)
    unfold Machine.planningPass
    split
    · exact c.takeDue hs
    · exact c.finish (c.passes h _ (c.modHead h _ (fun _ => rfl) (c.takeDue hs)))
  case frameArrival => exact c.arrive _ _ (c.takeDue hs)
  case siteReport => exact c.arrive _ _ (c.takeDue hs)
  case headStatus => exact c.arrive _ _ (c.takeDue hs)
  case shuttleReport => exact c.arrive _ _ (c.takeDue hs)
  case transmissionEnd => exact c.link (offLink_endTransmission _ _) (c.takeDue hs)
  case soakExpiry => exact c.takeExpiry _ hs
  case watchdogExpiry => exact c.takeExpiry _ hs
  case fillWaitExpiry => exact c.takeExpiry _ hs
  case orderTimerExpiry => exact c.takeExpiry _ hs
  case yieldTimerExpiry => exact c.takeExpiry _ hs
  case recoverTimerExpiry => exact c.takeExpiry _ hs
  case lotStart r => exact c.requestArrives r (c.lotStart r) hs
  case lotPause r => exact c.requestArrives r (c.lotPause r) hs
  case lotResume r => exact c.requestArrives r (c.lotResume r) hs
  case lotDrain r => exact c.requestArrives r (c.lotDrain r) hs
  case lotEnd r => exact c.requestArrives r (c.lotEnd r) hs
  case bypassEnter r => exact c.requestArrives r (c.bypassEnter r) hs
  case bypassExit r => exact c.requestArrives r (c.bypassExit r) hs
  case reset r => exact c.requestArrives r (c.reset r) hs
  case tableWrite r => exact c.requestArrives r (c.tableWrite r) hs
  case tableRead r => exact c.requestArrives r (c.tableRead r) hs
  case cursorReset r => exact c.requestArrives r (c.cursorReset r) hs
  case statusRead r => exact c.requestArrives r (c.statusRead r) hs
  case eventAck r => exact c.requestArrives r (c.eventAck r) hs
  case eventMask r => exact c.requestArrives r (c.eventMask r) hs
  case socketEnable r => exact c.requestArrives r (c.socketEnable r) hs
  case socketDisable r => exact c.requestArrives r (c.socketDisable r) hs
  case socketClear r => exact c.requestArrives r (c.socketClear r) hs
  case trayReady r => exact c.requestArrives r (c.trayReady r) hs
  case trayWithdraw r => exact c.requestArrives r (c.trayWithdraw r) hs
  case headRecover r => exact c.requestArrives r (c.headRecover r) hs
  case partPurge r => exact c.requestArrives r (c.partPurge r) hs
  case locate r => exact c.requestArrives r (c.locate r) hs

/-- A law of the deck that holds before a step holds after it. -/
theorem step (c : DeckLaw P) (hs : P s) : ∀ t, step s = .next t → P t := by
  intro t ht
  unfold Machine.step at ht
  split at ht
  · cases ht
    unfold refclkCycle
    split
    · exact hs
    · have due := c.takeDue hs
      unfold countCycle
      split
      · exact c.same due ⟨rfl, rfl, rfl, rfl, rfl, rfl⟩
      · split
        · exact c.same due ⟨rfl, rfl, rfl, rfl, rfl, rfl⟩
        · exact c.ticked due
  · next rest _ =>
    have taken : P { s with pending := rest } := c.same hs ⟨rfl, rfl, rfl, rfl, rfl, rfl⟩
    exact c.exec _ taken t ht

end DeckLaw

end Sys2Proof.Machine
end

section
/-! PROOFS. O59 and O60: every step keeps the laws of the device, and the power-on state has them. -/

namespace Sys2Proof.Machine

variable {s t : State}

/-! ## The law of custody is a law of the deck -/

theorem custodyLawful_same (l : s.custodyLawful) (e : SameDeck s t) : t.custodyLawful := by
  have places (p : Place) : t.recordAt p = s.recordAt p := by
    cases p <;> simp only [State.recordAt, State.head, e.sockets, e.heads, e.inputs, e.retests]
  unfold State.custodyLawful
  simp only [places, e.parts]
  exact l

/-- With no record at any place and none in use the law of custody holds. -/
theorem custodyLawful_empty (places : ∀ p, s.recordAt p = none) (parts : ∀ k : Fin 96, s.parts[k] = none) :
    s.custodyLawful :=
  ⟨fun p k h => absurd h (by simp [places]), fun j k q r h => absurd h (by simp [parts])⟩

theorem HeadRecord.initial_record (h : Head) (n : Fin 4) : ((HeadRecord.initial h).nozzles[n]).record = none := by
  simp [HeadRecord.initial, Nozzle.initial]

theorem custodyLawful_reset : State.reset.custodyLawful := by
  refine custodyLawful_empty (fun p => ?_) (fun k => by simp [State.reset])
  cases p with
  | nozzle h n => cases h <;> exact HeadRecord.initial_record _ n
  | _ => simp [State.recordAt, State.reset, Socket.initial, InputSlot.initial, RetestSlot.initial]

theorem custodyLawful_softReset (s : State) : (softReset s).custodyLawful := by
  refine custodyLawful_empty (fun p => ?_) (fun k => by simp [softReset])
  cases p with
  | nozzle h n => cases h <;> exact HeadRecord.initial_record _ n
  | socket i =>
    simp only [State.recordAt, softReset, Fin.getElem_fin, mapVec_getElem, resetSocket]
    split <;> rfl
  | _ => simp [State.recordAt, softReset, InputSlot.initial, RetestSlot.initial]

/-- R35: the emptied place of a purged device goes on without a device that moves. -/
theorem custody_purgedPlace (p : Place) (s : State) : (purgedPlace p s).custody = s.custody := by
  cases p with
  | socket i =>
    have emptied : (enterEmpty i (if s.sockets[i].state = .soaking then cancelTimer (.soak i) s else s)).custody =
        s.custody := by
      rw [custody_enterEmpty]
      split
      · exact custody_cancelTimer _ _
      · rfl
    show (purgedSocket i s).custody = s.custody
    unfold purgedSocket
    dsimp only
    split
    · split
      · exact (custody_fillUpdate _ _).trans emptied
      · exact emptied
    · exact emptied
  | nozzle h n => rfl
  | input i => exact custody_opportunityBoth s
  | retest i => exact custody_opportunityBoth s

theorem custodyLawful_ownerActs (id : TimerId) (l : s.custodyLawful) : (ownerActs id s).custodyLawful := by
  cases id with
  | soak i => exact custodyLawful_of_custody (custody_becomeReady i s) l
  | watchdog i =>
    have decided := custodyLawful_decideResult i s.lot.timeoutCode s.lot.testLimit l
    show (takeTimeout i s).custodyLawful
    unfold takeTimeout
    dsimp only
    refine custodyLawful_modCounters _ (custodyLawful_of_custody ?_ decided)
    rw [custody_raiseEvent, custody_finishTest]
    split
    · rw [custody_noteFault, custody_noteFault]
    · exact custody_noteFault _ _ _
  | fill g =>
    exact custodyLawful_of_custody (custody_raiseEvent _ _ _)
      (custodyLawful_modCounters _ (custodyLawful_of_custody (custody_startGroup g s) l))
  | order h => exact custodyLawful_of_custody (custody_stopTimeout h s) l
  | yield h =>
    exact custodyLawful_of_custody ((custody_yieldCheck h _).trans (custody_modHead_rest h _ (fun _ => by rfl) s)) l
  | recover h =>
    exact custodyLawful_of_custody (((custody_complete _ _ _ _).trans (custody_widenHoldings h _)).trans
      (custody_modHead_rest h _ (fun _ => by rfl) s)) l

theorem custodyLawful_takeResult (i : Fin 64) (code : Byte) (time : Nat) (l : s.custodyLawful) :
    (takeResult i code time s).custodyLawful := by
  refine custodyLawful_of_custody ?_ (custodyLawful_decideResult i code time l)
  unfold takeResult
  dsimp only
  rw [custody_finishTest]
  split
  · exact custody_noteFault _ _ _
  · exact custody_modSocket _ _ (fun _ => by rfl) _

/-- R21, R22: the law of custody is kept by every operation of the deck. -/
theorem deckLaw_custodyLawful : DeckLaw State.custodyLawful where
  same := custodyLawful_same
  power _ _ _ := custodyLawful_same custodyLawful_reset ⟨rfl, rfl, rfl, rfl, rfl, rfl⟩
  soft := custodyLawful_softReset _
  lot _ _ := custodyLawful_of_custody (custody_changeLot _ _)
  ticked := custodyLawful_of_custody (custody_ext (fun p => by cases p <;> rfl) (fun _ => rfl) rfl)
  modHead h f _ hf := custodyLawful_of_custody (custody_modHead_rest h f hf _)
  modSocket i f _ _ hf := custodyLawful_of_custody (custody_modSocket i f hf _)
  modInput i f _ hf := custodyLawful_of_custody (custody_modInput i f hf _)
  start _ _ _ := custodyLawful_of_custody (custody_startTimer _ _ _)
  release p _ := custodyLawful_releaseAt p
  purged p _ := custodyLawful_of_custody (custody_purgedPlace p _)
  afterOff _ _ := custodyLawful_of_custody (custody_afterOff _ _)
  enterEmpty _ _ := custodyLawful_of_custody (custody_enterEmpty _ _)
  setPendingDisable _ _ _ := custodyLawful_of_custody (custody_setPendingDisable _ _ _)
  convertAll := custodyLawful_of_custody (custody_convertAll _)
  updateGroups := custodyLawful_of_custody (custody_updateGroups _)
  settle := custodyLawful_of_custody (custody_settle _)
  takeAtOnce := custodyLawful_of_custody (custody_takeAtOnce _)
  finish := custodyLawful_of_custody (custody_finish _)
  expiry id _ l := custodyLawful_ownerActs id (custodyLawful_of_custody (custody_cancelTimer _ _) l)
  result i code time _ := custodyLawful_takeResult i code time
  status h payload _ := custodyLawful_takeHeadStatus h payload
  shuttle payload _ := custodyLawful_takeShuttleReport payload
  passes h k _ := custodyLawful_of_custody (custody_passes h k _)

/-! ## The law of the tests is a law of the deck -/

/-- Where no socket is TESTING or SOAKING the law of the tests holds. -/
theorem timedBut_idle (x : Option (Fin 64))
    (h : ∀ i : Fin 64, s.sockets[i].state ≠ .testing ∧ s.sockets[i].state ≠ .soaking) : s.timedBut x :=
  fun i _ => ⟨fun e => absurd e (h i).1, fun e => absurd e (h i).2⟩

theorem timedBut_reset : State.reset.timedBut none :=
  timedBut_idle none fun i => by simp [State.reset, Socket.initial]

theorem timedBut_softReset (s : State) : (softReset s).timedBut none := by
  refine timedBut_idle none fun i => ?_
  simp only [softReset, Fin.getElem_fin, mapVec_getElem, resetSocket]
  split <;> simp [Socket.initial]

theorem timedBut_purgedPlace (p : Place) (l : s.timedBut none) : (purgedPlace p s).timedBut none := by
  cases p with
  | socket i =>
    have cancelled : (if s.sockets[i].state = .soaking then cancelTimer (.soak i) s else s).timedBut (some i) := by
      split
      · exact timedBut_cancelTimer (.soak i) (by simp) (l.weaken (some i))
      · exact l.weaken (some i)
    have emptied : (enterEmpty i (if s.sockets[i].state = .soaking then cancelTimer (.soak i) s else s)).timedBut none :=
      timedBut_enterEmpty_restores cancelled
    show (purgedSocket i s).timedBut none
    unfold purgedSocket
    dsimp only
    split
    · split
      · exact timedBut_fillUpdate _ emptied
      · exact emptied
    · exact emptied
  | nozzle h n => exact l
  | input i => exact timedBut_opportunityBoth l
  | retest i => exact timedBut_opportunityBoth l

/-- The expiry of a socket's timer ends the state that needs it. -/
theorem timedBut_expiry (id : TimerId) (l : s.timedBut none) : (ownerActs id (cancelTimer id s)).timedBut none := by
  cases id with
  | soak i =>
    have state : ((cancelTimer (.soak i) s).modSocket i fun y => { y with state := .ready }).sockets[i].state = .ready := by
      rw [State.socket_modSocket_self]
    have cancelled := timedBut_cancelTimer (.soak i) (by simp) (l.weaken (some i))
    exact timedBut_updateGroupOf i ((timedBut_modSocket i (fun _ => .inr (by simp)) cancelled).restore
      (by rw [state]; decide) (by rw [state]; decide))
  | watchdog i => exact timedBut_takeTimeout (timedBut_cancelTimer (.watchdog i) (by simp) (l.weaken (some i)))
  | fill g =>
    exact timedBut_raiseEvent _ _ (timedBut_modCounters _ (timedBut_startGroup g
      (timedBut_cancelOther (.fill g) (by simp) (by simp) l)))
  | order h => exact timedBut_stopTimeout h (timedBut_cancelOther (.order h) (by simp) (by simp) l)
  | yield h => exact timedBut_yieldFalls h (timedBut_cancelOther (.yield h) (by simp) (by simp) l)
  | recover h =>
    exact timedBut_complete _ _ _ (timedBut_tellOther _ _ (timedBut_modHead _ _ (timedBut_modHead _ _
      (timedBut_cancelOther (.recover h) (by simp) (by simp) l))))

/-- R54, R57: the law of the tests is kept by every operation of the deck. -/
theorem deckLaw_timedBut : DeckLaw (State.timedBut · none) where
  same l e := timedBut_same e.sockets e.timers l
  power _ _ _ := timedBut_same rfl rfl timedBut_reset
  soft := timedBut_softReset _
  lot l _ := timedBut_changeLot l
  ticked := timedBut_endTick
  modHead h f _ _ := timedBut_modHead h f
  modSocket i _ _ calm _ := timedBut_modSocket i calm
  modInput _ _ _ _ := timedBut_same rfl rfl
  start id n _ := timedBut_startTimer id n
  release p _ := timedBut_releaseAt p
  purged p _ := timedBut_purgedPlace p
  afterOff i _ := timedBut_afterOff i
  enterEmpty i _ := timedBut_enterEmpty i
  setPendingDisable i c _ := timedBut_setPendingDisable i c
  convertAll := timedBut_convertAll
  updateGroups := timedBut_updateGroups
  settle := timedBut_settle
  takeAtOnce := timedBut_atOnceLoop _
  finish := timedBut_finish
  expiry id _ := timedBut_expiry id
  result i code time _ := timedBut_takeResult i code time
  status h payload _ := timedBut_takeHeadStatus h payload
  shuttle payload _ := timedBut_takeShuttleReport payload
  passes h k _ := timedBut_passes h k

/-- Settles O59: four of the laws are closed under every change the part makes, and two are laws of the deck. -/
theorem stepKeepsLaws : Obligations.StepKeepsLaws := by
  intro s t step
  refine ⟨fun h => closed_linkBounded.step h t step, fun h => closed_ticketsLawful.step h t step,
    fun h => closed_timersLawful.step h t step, fun h => closed_eventsLawful.step h t step,
    fun h => deckLaw_custodyLawful.step h t step, fun h => ?_⟩
  exact (testsTimed_iff t).2 (deckLaw_timedBut.step ((testsTimed_iff s).1 h) t step)

end Sys2Proof.Machine
end

section
/-! PROOFS. O60: the state after power-on has the laws of the device. -/

namespace Sys2Proof.Machine

theorem reset_head (h : Head) : State.reset.head h = .initial h := by cases h <;> rfl

theorem queueLawful_initial (h : Head) : (HeadRecord.initial h).queueLawful := by
  refine ⟨Nat.zero_le _, Nat.zero_le _, Nat.zero_le _, List.nodup_nil, ?_, Nat.zero_le _, ?_, ?_⟩ <;>
    simp [HeadRecord.initial]

theorem queuesLawful_reset : State.reset.queuesLawful := fun h => by
  rw [reset_head]
  exact queueLawful_initial h

theorem reset_bin (b : Fin 16) : State.reset.bins[b] = .initial := by simp [State.reset]

/-- R93: an ABSENT tray without geometry meets the law of the trays. -/
theorem traysLawful_reset : State.reset.traysLawful := fun b y => by
  have absent : Bin.initial.tray y = .initial := by cases y <;> rfl
  have queue : State.reset.heads.west.queue = [] ∧ State.reset.heads.east.queue = [] := ⟨rfl, rfl⟩
  unfold State.trayLawful
  rw [reset_bin, absent]
  simp [pocketsHeld, queue, Bin.initial, TrayRecord.initial, TrayRecord.capacity]

theorem headHolds_reset (h : Head) : State.reset.headHolds h := by
  have clear (id : TimerId) : State.reset.timer id = .clear := timer_initial rfl id
  unfold State.headHolds
  rw [reset_head]
  simp [HeadRecord.initial, clear]

theorem railLawful_reset : State.reset.railLawful := by
  have park (k : Fin 18) : State.reset.deck[k] = none := by simp [State.reset]
  refine ⟨by unfold State.railClear; decide, headHolds_reset, fun p h => ?_, fun p h => ?_, fun h => ?_⟩
  · rw [park] at h
    cases h
  · rw [park] at h
    cases h
  · cases h

/-- Settles O60: each block's power-on value has its law. -/
theorem powerOnStateLawful : Obligations.PowerOnStateLawful :=
  ⟨closed_linkBounded.power (some 0) [] 0, closed_ticketsLawful.power (some 0) [] 0, timersLawful_initial rfl,
    eventsLawful_initial rfl, custodyLawful_reset, (testsTimed_iff _).2 timedBut_reset, queuesLawful_reset,
    traysLawful_reset, railLawful_reset⟩

end Sys2Proof.Machine
end

section
/-! PROOFS. Frames and table entries as bytes: O1 and O2. -/

namespace Sys2Proof.Machine

/-! ## Little-endian fields (R178) -/

theorem byte_toNat_self (b : Byte) : byte b.toNat = b := BitVec.eq_of_toNat_eq (by simp [byte])

@[simp] theorem byte_toNat (n : Nat) : (byte n).toNat = n % 256 := BitVec.toNat_ofNat n 8

@[simp] theorem length_leBytes (n v : Nat) : (leBytes n v).length = n := by
  induction n generalizing v with
  | zero => rfl
  | succ n ih => simp [leBytes, ih]

/-- The bytes of a number below `256 ^ n` give it back. -/
theorem leNat_leBytes (n v : Nat) : leNat (leBytes n v) = v % 256 ^ n := by
  induction n generalizing v with
  | zero => simp [leBytes, leNat, Nat.mod_one]
  | succ n ih =>
    show (byte v).toNat + 256 * leNat (leBytes n (v / 256)) = _
    rw [ih, byte_toNat, pow_succ', Nat.mod_mul]

theorem leNat_leBytes_of_lt {n v : Nat} (h : v < 256 ^ n) : leNat (leBytes n v) = v := by
  rw [leNat_leBytes, Nat.mod_eq_of_lt h]

theorem leNat_lt (bs : List Byte) : leNat bs < 256 ^ bs.length := by
  induction bs with
  | nil => simp [leNat]
  | cons b bs ih =>
    have := b.isLt
    simp only [leNat, List.length_cons, pow_succ]
    omega

theorem leBytes_leNat (bs : List Byte) : leBytes bs.length (leNat bs) = bs := by
  induction bs with
  | nil => rfl
  | cons b bs ih =>
    have := b.isLt
    have low : byte (b.toNat + 256 * leNat bs) = b := BitVec.eq_of_toNat_eq (by rw [byte_toNat]; omega)
    have high : (b.toNat + 256 * leNat bs) / 256 = leNat bs := by omega
    simp only [List.length_cons, leNat, leBytes, low, high, ih]

/-! ## Frames (R2, R179) -/

theorem wire_eq (f : Frame) : f.wire =
    f.destination :: f.source :: f.kind :: f.attention :: f.correlator :: byte f.payload.length ::
      (f.payload ++ leBytes 4 (crc32c f.body).toNat) := rfl

/-- R2: the bytes of a frame whose payload fits are read as that frame. -/
theorem parse_wire {f : Frame} (fits : f.payload.length ≤ 240) : Frame.parse f.wire = some f := by
  have len : (byte f.payload.length).toNat = f.payload.length := by rw [byte_toNat]; omega
  rw [wire_eq]
  unfold Frame.parse
  dsimp only
  rw [len, if_pos ⟨fits, by simp⟩, List.take_left, List.drop_left]
  exact if_pos (leNat_leBytes_of_lt (crc32c f.body).isLt)

/-- R2: bytes that are read as a frame are what that frame is sent as. -/
theorem wire_of_parse {bytes : List Byte} {f : Frame} (h : Frame.parse bytes = some f) :
    bytes = f.wire ∧ f.payload.length ≤ 240 := by
  unfold Frame.parse at h
  split at h
  · next dst src kind att cor len rest =>
    split at h
    · next fits =>
      obtain ⟨short, total⟩ := fits
      dsimp only at h
      split at h
      · next crc =>
        cases h
        have payload : (rest.take len.toNat).length = len.toNat := by rw [List.length_take]; omega
        have trailer : (rest.drop len.toNat).length = 4 := by rw [List.length_drop]; omega
        refine ⟨?_, payload.trans_le short⟩
        rw [wire_eq, ← crc, ← trailer, leBytes_leNat]
        simp only [payload, byte_toNat_self, List.take_append_drop]
      · cases h
    · cases h
  · cases h

/-- Settles O1. -/
theorem frameRoundTrip : Obligations.FrameRoundTrip := by
  refine fun bytes f => ⟨wire_of_parse, ?_⟩
  rintro ⟨rfl, fits⟩
  exact parse_wire fits

/-! ## Fields of an entry (R183) -/

theorem leNat_one {v : Nat} (h : v < 256) : leNat [byte v] = v := leNat_leBytes_of_lt (n := 1) h

theorem leNat_two {v : Nat} (h : v < 65536) : leNat [byte v, byte (v / 256)] = v := leNat_leBytes_of_lt (n := 2) h

theorem leNat_four {v : Nat} (h : v < 4294967296) :
    leNat [byte v, byte (v / 256), byte (v / 256 / 256), byte (v / 256 / 256 / 256)] = v :=
  leNat_leBytes_of_lt (n := 4) h

/-- R178: a signed value within 32 bits is read back from its two's complement. -/
theorem ofNat_signedBytes (v : Int) (low : -2147483648 ≤ v) (high : v < 2147483648) :
    (BitVec.ofNat 32 (leNat (signedBytes v))).toInt = v := by
  have e : leNat (signedBytes v) = (BitVec.ofInt 32 v).toNat := leNat_leBytes_of_lt (BitVec.ofInt 32 v).isLt
  rw [e, BitVec.ofNat_toNat, BitVec.setWidth_eq, BitVec.toInt_ofInt]
  exact Int.bmod_eq_of_le (by omega) (by omega)

theorem finOf_val {n : Nat} (i : Fin n) : finOf n i.val = some i := dif_pos i.isLt

theorem readFlag_flagByte (b : Bool) : readFlag (flagByte b) = b := by cases b <;> rfl

theorem readSite_siteBytes (g : SiteGeometry) (hx : g.x ≤ 1599999) (hy : g.y ≤ 599999) :
    readSite (siteBytes (some (some g))) = some (some g) := by
  obtain ⟨x, y, group, home⟩ := g
  have fx : fieldAt (siteBytes (some (some ⟨x, y, group, home⟩))) 1 4 = x := leNat_four (hx.trans_lt (by decide))
  have fy : fieldAt (siteBytes (some (some ⟨x, y, group, home⟩))) 5 4 = y := leNat_four (hy.trans_lt (by decide))
  have fg : fieldAt (siteBytes (some (some ⟨x, y, group, home⟩))) 9 1 = group.val := leNat_one (group.isLt.trans (by decide))
  have fl : readFlag (byteAt (siteBytes (some (some ⟨x, y, group, home⟩))) 0) = true := readFlag_flagByte true
  have range : x ≤ Config.railMaxX ∧ y ≤ Config.railMaxY := ⟨hx, hy⟩
  unfold readSite
  simp only [fx, fy, fg, fl, finOf_val, if_true, if_pos range]
  cases home <;> rfl

theorem readDeck_posBytes (p : Pos) (hx : p.x ≤ 1599999) (hy : p.y ≤ 599999) : readDeck (posBytes (some p)) = some p := by
  have fx : fieldAt (posBytes (some p)) 0 4 = p.x := leNat_four (by omega)
  have fy : fieldAt (posBytes (some p)) 4 4 = p.y := leNat_four (by omega)
  unfold readDeck
  simp only [fx, fy]
  exact if_pos ⟨hx, hy⟩

theorem readOffset_offsetBytes (o : Offset) (lx : -40000 ≤ o.dx) (hx : o.dx ≤ 40000) (ly : -40000 ≤ o.dy)
    (hy : o.dy ≤ 40000) : readOffset (offsetBytes (some o)) = some o := by
  have fx : signedAt (offsetBytes (some o)) 0 = o.dx := ofNat_signedBytes o.dx (by omega) (by omega)
  have fy : signedAt (offsetBytes (some o)) 4 = o.dy := ofNat_signedBytes o.dy (by omega) (by omega)
  unfold readOffset
  simp only [fx, fy]
  exact if_pos ⟨lx, hx, ly, hy⟩

theorem readMotion_motionBytes (m : Motion) (lx : 50 ≤ m.vx) (hx : m.vx ≤ 5000) (ly : 50 ≤ m.vy) (hy : m.vy ≤ 5000)
    (hb : m.base ≤ 2000) (hk : m.pick ≤ 2000) (hp : m.place ≤ 2000) : readMotion (motionBytes (some m)) = some m := by
  have fx : fieldAt (motionBytes (some m)) 0 2 = m.vx := leNat_two (by omega)
  have fy : fieldAt (motionBytes (some m)) 2 2 = m.vy := leNat_two (by omega)
  have fb : fieldAt (motionBytes (some m)) 4 2 = m.base := leNat_two (by omega)
  have fk : fieldAt (motionBytes (some m)) 6 2 = m.pick := leNat_two (by omega)
  have fp : fieldAt (motionBytes (some m)) 8 2 = m.place := leNat_two (by omega)
  unfold readMotion
  simp only [fx, fy, fb, fk, fp]
  exact if_pos ⟨lx, hx, ly, hy, hb, hk, hp⟩

theorem readLot_lotBytes (t : LotTable) (hs : t.soak ≤ 600000) (hf : t.fillWait ≤ 60000) (lt : 100 ≤ t.testLimit)
    (ht : t.testLimit ≤ 600000) (hr : t.retestLimit ≤ 2) (hth : t.faultThreshold ≤ 15) (hy : t.yieldDelay ≤ 10000) :
    readLot (lotBytes (some t)) = some t := by
  obtain ⟨soak, fill, limit, code, retest, avoid, hold, threshold, mode, yield⟩ := t
  dsimp only at hs hf lt ht hr hth hy
  generalize e : lotBytes (some ⟨soak, fill, limit, code, retest, avoid, hold, threshold, mode, yield⟩) = bs
  have fs : fieldAt bs 0 4 = soak := e ▸ leNat_four (hs.trans_lt (by decide))
  have ff : fieldAt bs 4 2 = fill := e ▸ leNat_two (hf.trans_lt (by decide))
  have fl : fieldAt bs 6 4 = limit := e ▸ leNat_four (ht.trans_lt (by decide))
  have fc : byteAt bs 10 = code := e ▸ rfl
  have fr : fieldAt bs 11 1 = retest := e ▸ leNat_one (hr.trans_lt (by decide))
  have fa : fieldAt bs 12 1 = avoid.toNat := by subst e; cases avoid <;> rfl
  have fh : fieldAt bs 13 1 = hold.val := e ▸ leNat_one (hold.isLt.trans (by decide))
  have ft : fieldAt bs 14 1 = threshold := e ▸ leNat_one (hth.trans_lt (by decide))
  have fm : fieldAt bs 15 1 = match mode with | .sticky => 0 | .perPart => 1 := by subst e; cases mode <;> rfl
  have fy : fieldAt bs 16 2 = yield := e ▸ leNat_two (hy.trans_lt (by decide))
  unfold readLot
  simp only [fs, ff, fl, fc, fr, fa, fh, ft, fm, fy, finOf_val]
  have flag : (avoid.toNat == 1) = avoid := by cases avoid <;> rfl
  have bit : avoid.toNat ≤ 1 := avoid.toNat_le
  cases mode <;> simp [flag, bit, hs, hf, lt, ht, hr, hth, hy]

theorem readBinEntry_binEntryBytes (e : BinEntry) : readBinEntry (binEntryBytes (some e)) = some (some e) := by
  obtain ⟨cls, bin, final, mark⟩ := e
  have fb : fieldAt (binEntryBytes (some ⟨cls, bin, final, mark⟩)) 1 1 = bin.val := leNat_one (bin.isLt.trans (by decide))
  have ff : fieldAt (binEntryBytes (some ⟨cls, bin, final, mark⟩)) 2 1 = final.val := leNat_one (final.isLt.trans (by decide))
  have fm : readFlag (byteAt (binEntryBytes (some ⟨cls, bin, final, mark⟩)) 3) = mark := readFlag_flagByte mark
  unfold readBinEntry
  simp only [fb, ff, fm, finOf_val]
  cases cls <;> rfl

theorem readPolicy_policyBytes (i : Nat) (p : BinPolicy) (other : p.policy = .divert → p.divertBin.val ≠ i) :
    readPolicy i (policyBytes (some p)) = some p := by
  obtain ⟨policy, bin⟩ := p
  have fb : fieldAt (policyBytes (some ⟨policy, bin⟩)) 1 1 = bin.val := leNat_one (bin.isLt.trans (by decide))
  unfold readPolicy
  simp only [fb, finOf_val]
  cases policy with
  | swap => rfl
  | divert =>
    have one : fieldAt (policyBytes (some ⟨.divert, bin⟩)) 0 1 = 1 := rfl
    simp [one, other rfl]

/-- R8: an address to match within its limit, ANY included, is read back. -/
theorem readMatch_getD (limit : Nat) (few : limit < 255) (m : Option Byte) (h : ∀ a, m = some a → a.toNat ≤ limit) :
    readMatch limit (m.getD 255) = some m := by
  cases m with
  | none => rfl
  | some a =>
    have ha := h a rfl
    have any : a ≠ 255 := by
      rintro rfl
      exact absurd ha (by simpa using few)
    exact (if_neg any).trans (if_pos ha)

theorem readForward_forwardBytes (e : ForwardRule) (hs : ∀ a, e.source = some a → a.toNat ≤ 30)
    (hd : ∀ a, e.destination = some a → a.toNat ≤ 31) : readForward (forwardBytes (some (some e))) = some (some e) := by
  obtain ⟨source, destination, kind, direction, action⟩ := e
  generalize eq : forwardBytes (some (some ⟨source, destination, kind, direction, action⟩)) = bs
  have used : readFlag (byteAt bs 0) = true := eq ▸ readFlag_flagByte true
  have any : readFlag (byteAt bs 3) = kind.isNone := eq ▸ readFlag_flagByte _
  have kd : byteAt bs 4 = kind.getD 255 := eq ▸ rfl
  have src : readMatch 30 (byteAt bs 1) = some source := eq ▸ readMatch_getD 30 (by decide) source hs
  have dst : readMatch 31 (byteAt bs 2) = some destination := eq ▸ readMatch_getD 31 (by decide) destination hd
  have dir : fieldAt bs 5 1 = match direction with | .up => 0 | .down => 1 | .both => 2 := by
    subst eq; cases direction <;> rfl
  have act : fieldAt bs 6 1 = match action with | .pass => 0 | .drop => 1 | .passInIdle => 2 := by
    subst eq; cases action <;> rfl
  unfold readForward
  simp only [used, any, kd, src, dst, dir, act, if_true]
  cases kind <;> cases direction <;> cases action <;> rfl

theorem readTimeBase_timeBaseBytes (t : TimeBase) (lp : 1 ≤ t.prescaler) (hp : t.prescaler ≤ 65535)
    (ld : 1 ≤ t.divider) (hd : t.divider ≤ 65535) : readTimeBase (timeBaseBytes t) = some t := by
  have fp : fieldAt (timeBaseBytes t) 0 2 = t.prescaler := leNat_two (by omega)
  have fd : fieldAt (timeBaseBytes t) 2 2 = t.divider := leNat_two (by omega)
  unfold readTimeBase
  simp only [fp, fd]
  exact if_pos ⟨lp, ld⟩

/-! ## What TABLE READ answers (R168, R183) -/

/-- R168: a written mark and the bytes of the value, or all-ones bytes where none is written (log 14). -/
def shownEntry (n : Nat) : Option (List Byte) → List Byte
  | some bytes => 1 :: bytes
  | none => 0 :: List.replicate n 255

theorem flagged_eq {α : Type} {n : Nat} {bytes : Option α → List Byte} (unwritten : bytes none = absentBytes n)
    (e : Option α) : flagByte e.isSome :: bytes e = shownEntry n (e.map fun x => bytes (some x)) := by
  cases e with
  | none => rw [unwritten]; rfl
  | some x => rfl

/-- R168: entry `i` of a table of optional values is shown with its written mark. -/
theorem flagged_entry {α : Type} {n m : Nat} {bytes : Option α → List Byte} (unwritten : bytes none = absentBytes n)
    (v : Vector (Option α) m) (i : Fin m) :
    flagByte v[i.val]?.join.isSome :: bytes v[i.val]?.join = shownEntry n (v[i].map fun x => bytes (some x)) := by
  rw [Vector.getElem?_eq_getElem i.isLt]
  exact flagged_eq unwritten v[i]

theorem readEntry_node (s : State) (i : Fin 5) :
    readEntry .node i s = [flagByte s.node[i].isSome, s.node[i].getD 255] := by
  show [flagByte s.node[i.val]?.join.isSome, s.node[i.val]?.join.getD 255] = _
  rw [Vector.getElem?_eq_getElem i.isLt]
  rfl

theorem readEntry_serviceList (s : State) (k : Nat) :
    readEntry .serviceList k s =
      [flagByte s.serviceList[k]?.isSome, (s.serviceList[k]?.map fun i => byte i.val).getD 255] := by
  unfold readEntry
  dsimp only
  cases s.serviceList[k]? <;> rfl

theorem siteBytes_present (g : SiteGeometry) : siteBytes (some (some g)) =
    [1] ++ leBytes 4 g.x ++ leBytes 4 g.y ++ [byte g.group.val, byte ([Home.west, .east, .either].idxOf g.home)] := by
  obtain ⟨x, y, group, home⟩ := g
  cases home <;> rfl

theorem lotBytes_written (t : LotTable) : lotBytes (some t) =
    leBytes 4 t.soak ++ leBytes 2 t.fillWait ++ leBytes 4 t.testLimit ++
      [t.timeoutCode, byte t.retestLimit, if t.groupAvoidance then 1 else 0, byte t.holdBin.val, byte t.faultThreshold,
        byte ([FaultMode.sticky, .perPart].idxOf t.faultMode)] ++ leBytes 2 t.yieldDelay := by
  obtain ⟨soak, fill, limit, code, retest, avoid, hold, threshold, mode, yield⟩ := t
  cases mode <;> rfl

theorem binEntryBytes_written (e : BinEntry) : binEntryBytes (some e) =
    [byte ([BinClass.bin, .retest, .hold].idxOf e.cls), byte e.bin.val, byte e.finalBin.val,
      if e.faultMark then 1 else 0] := by
  obtain ⟨cls, bin, final, mark⟩ := e
  cases cls <;> rfl

theorem policyBytes_written (p : BinPolicy) :
    policyBytes (some p) = [byte ([Policy.swap, .divert].idxOf p.policy), byte p.divertBin.val] := by
  obtain ⟨policy, bin⟩ := p
  cases policy <;> rfl

theorem forwardBytes_used (e : ForwardRule) : forwardBytes (some (some e)) =
    [1, e.source.getD 255, e.destination.getD 255, if e.kind = none then 1 else 0, e.kind.getD 255,
      byte ([Direction.up, .down, .both].idxOf e.direction),
      byte ([ForwardAction.pass, .drop, .passInIdle].idxOf e.action)] := by
  obtain ⟨source, destination, kind, direction, action⟩ := e
  cases kind <;> cases direction <;> cases action <;> rfl

/-- Settles O2: each entry is read back from its bytes, field by field. -/
theorem tableEntriesRoundTrip : Obligations.TableEntriesRoundTrip := by
  refine ⟨readSite_siteBytes, rfl, readDeck_posBytes, readOffset_offsetBytes, readMotion_motionBytes, readLot_lotBytes,
    readBinEntry_binEntryBytes, readPolicy_policyBytes, readForward_forwardBytes, rfl, readTimeBase_timeBaseBytes,
    siteBytes_present, rfl, fun _ => rfl, fun _ => rfl, fun _ => rfl, lotBytes_written, binEntryBytes_written,
    policyBytes_written, forwardBytes_used, rfl, fun _ => rfl, fun s => ?_, fun s i a h => ?_, fun s i h => ?_,
    fun s k i h => ?_, fun s k h => ?_⟩
  · exact ⟨flagged_entry rfl s.siteGeometry, flagged_entry rfl s.deck, flagged_entry rfl s.nozzleTable,
      flagged_entry rfl s.motion, flagged_eq rfl s.lotTable, flagged_entry rfl s.binMap, flagged_entry rfl s.binPolicy,
      flagged_entry rfl s.forwarding, rfl⟩
  · rw [readEntry_node, h]
    rfl
  · rw [readEntry_node, h]
    rfl
  · rw [readEntry_serviceList, h]
    rfl
  · rw [readEntry_serviceList, List.getElem?_eq_none h]
    rfl

end Sys2Proof.Machine
end

section
/-! PROOFS. Ports, queues, arbiters and the stamp: O6 to O10. -/

namespace Sys2Proof.Machine

variable {s t : State}

/-! ## Ports -/

@[simp] theorem State.setPort_setPort (s : State) (p : Port) (x y : PortState) :
    (s.setPort p x).setPort p y = s.setPort p y := by cases p <;> rfl

@[simp] theorem port_advanceSequence (p : Port) (s : State) :
    (advanceSequence p s).port p = { s.port p with sequence := (s.port p).sequence + 1 } := State.port_setPort_self _ _ _

@[simp] theorem downstream_setUpstream (s : State) (x : PortState) :
    (s.setPort .upstream x).downstream = s.downstream := rfl

/-! ## The stamp (R16, R17, R179) -/

/-- Bits 3 to 6 of the attention field are clear. -/
theorem attentionByte_reserved (s : State) : attentionByte s &&& 0x78 = 0 := by
  unfold attentionByte
  cases s.lotState <;> cases attentionMark s <;> decide

theorem attentionByte_lot (s : State) : (attentionByte s &&& 7).toNat = s.lotState.num := by
  unfold attentionByte
  cases s.lotState <;> cases attentionMark s <;> decide

theorem attentionByte_mark (s : State) : (attentionByte s).getLsbD 7 = attentionMark s := by
  unfold attentionByte
  cases s.lotState <;> cases attentionMark s <;> decide

theorem attentionMark_iff (s : State) :
    attentionMark s = true ↔ ∃ k : Fin 21, s.events[k].pending = true ∧ s.eventMask.getLsbD k = true := by
  simp [attentionMark]

theorem unstamped_reserved (n : Nat) : Config.unstampedAttention n &&& 0x87 &&& 0x78 = 0 := by
  rw [BitVec.and_assoc]
  exact BitVec.and_zero

theorem stamped_bypass_own (f : Frame) (h : s.lotState = .bypass) :
    stamped .upstream .own f s = { f with attention := Config.unstampedAttention s.draws &&& 0x87 } := if_pos h

theorem stamped_upstream (q : QueueKind) (f : Frame) (h : s.lotState ≠ .bypass) :
    stamped .upstream q f s = { f with attention := attentionByte s } := if_neg h

/-- Of an own frame sent upstream bits 3 to 6 of the attention field are clear in every lot state. -/
theorem stamped_own_reserved (f : Frame) (s : State) :
    ∃ a : Byte, (a &&& 0x78) = 0 ∧ stamped .upstream .own f s = { f with attention := a } := by
  by_cases h : s.lotState = .bypass
  · exact ⟨_, unstamped_reserved _, stamped_bypass_own f h⟩
  · exact ⟨_, attentionByte_reserved s, stamped_upstream .own f h⟩

/-- Settles O10. -/
theorem upstreamStamp : Obligations.UpstreamStamp := by
  refine fun s q f => ⟨rfl, fun h => ⟨if_pos h, ?_⟩, fun h => ?_⟩
  · exact ⟨_, stamped_bypass_own f h, unstamped_reserved _⟩
  · refine ⟨_, stamped_upstream q f h, attentionByte_lot s, attentionByte_reserved s, ?_⟩
    rw [attentionByte_mark, attentionMark_iff]

/-- The stamp reads the lot state, the event records and the mask, and in BYPASS the draws. -/
theorem stamped_congr (p : Port) (q : QueueKind) (f : Frame) (l : t.lotState = s.lotState) (e : t.events = s.events)
    (m : t.eventMask = s.eventMask) (free : ¬ (p = .upstream ∧ s.lotState = .bypass)) :
    stamped p q f t = stamped p q f s := by
  cases p with
  | downstream => rfl
  | upstream =>
    have out : s.lotState ≠ .bypass := fun h => free ⟨rfl, h⟩
    have mark : attentionMark t = attentionMark s := by unfold attentionMark; rw [e, m]
    rw [stamped_upstream q f out, stamped_upstream q f (l ▸ out)]
    unfold attentionByte
    rw [mark, l]

/-! ## The arbiter (R14) -/

theorem startSending_through (p : Port) {f : Frame} {rest : List Frame} (h : (s.port p).through = f :: rest) :
    startSending p .through s =
      s.setPort p { s.port p with through := rest, lastTaken := .through, sending := some (stamped p .through f s) } := by
  simp [startSending, h]

/-- An own frame is sent as it is stamped; in BYPASS the model draws the free value of its attention field. -/
theorem startSending_own (p : Port) {f : Frame} {rest : List Frame} (h : (s.port p).own = f :: rest) :
    ∃ g, (startSending p .own s).port p = { s.port p with own := rest, lastTaken := .own, sending := some g } ∧
      (¬ (p = .upstream ∧ s.lotState = .bypass) → g = stamped p .own f s) ∧
      (p = .upstream → ∃ a : Byte, (a &&& 0x78) = 0 ∧ g = { f with attention := a }) ∧
      (p = .downstream → g = f) := by
  let drawn : State := { s with draws := s.draws + if p = .upstream ∧ QueueKind.own = .own ∧ s.lotState = .bypass then 1 else 0 }
  have e : startSending p .own s =
      drawn.setPort p { s.port p with own := rest, lastTaken := .own, sending := some (stamped p .own f drawn) } := by
    unfold startSending
    dsimp only
    rw [h]
  refine ⟨stamped p .own f drawn, by rw [e, State.port_setPort_self], stamped_congr p .own f rfl rfl rfl, ?_, ?_⟩
  · rintro rfl
    exact stamped_own_reserved f drawn
  · rintro rfl
    rfl

theorem startSending_port_other (p : Port) (q : QueueKind) (s : State) :
    (startSending p q s).port p.other = s.port p.other := by
  unfold startSending
  dsimp only
  split <;> split <;> simp [port_draws]

theorem arbitrate_busy {p : Port} (h : (s.port p).sending.isSome = true) : arbitrate p s = s := if_pos h

@[simp] theorem arbitrate_port_other (p : Port) (s : State) : (arbitrate p s).port p.other = s.port p.other := by
  unfold arbitrate
  dsimp only
  split
  · rfl
  · split <;> simp [startSending_port_other]

/-- An idle port with nothing waiting stays idle. -/
theorem arbitrate_empty {p : Port} (through : (s.port p).through = []) (own : (s.port p).own = []) : arbitrate p s = s := by
  unfold arbitrate
  dsimp only
  rw [through, own]
  exact ite_self _

theorem arbitrate_through {p : Port} {f : Frame} {rest : List Frame} (idle : (s.port p).sending = none)
    (through : (s.port p).through = f :: rest) (own : (s.port p).own = []) :
    arbitrate p s = startSending p .through s := by
  unfold arbitrate
  dsimp only
  rw [idle, through, own]
  rfl

theorem arbitrate_own {p : Port} {f : Frame} {rest : List Frame} (idle : (s.port p).sending = none)
    (through : (s.port p).through = []) (own : (s.port p).own = f :: rest) :
    arbitrate p s = startSending p .own s := by
  unfold arbitrate
  dsimp only
  rw [idle, through, own]
  rfl

/-- With both queues occupied the arbiter takes from the one it did not take from last. -/
theorem arbitrate_both {p : Port} {f g : Frame} {rest rest' : List Frame} (idle : (s.port p).sending = none)
    (through : (s.port p).through = f :: rest) (own : (s.port p).own = g :: rest') :
    arbitrate p s = startSending p (if (s.port p).lastTaken = .through then .own else .through) s := by
  unfold arbitrate
  dsimp only
  rw [idle, through, own]
  rfl

/-! ## Forwarding (R8, R9, R11) -/

theorem matchField_iff (rule : Option Byte) (b : Byte) : matchField rule b = true ↔ ∀ a, rule = some a → b = a := by
  cases rule with
  | none => simp [matchField]
  | some a =>
    simp only [matchField, Option.isNone_some, Bool.false_or, beq_iff_eq, Option.some.injEq]
    exact ⟨fun e _ h => e.symm.trans h, fun h => (h a rfl).symm⟩

theorem direction_covers_iff (d : Direction) (p : Port) : d.covers p = true ↔
    d = .both ∨ d = .up ∧ p = .downstream ∨ d = .down ∧ p = .upstream := by
  cases d <;> cases p <;> simp [Direction.covers]

theorem covers_iff (e : ForwardRule) (p : Port) (f : Frame) : e.covers p f = true ↔
    (∀ a, e.source = some a → f.source = a) ∧ (∀ a, e.destination = some a → f.destination = a) ∧
    (∀ a, e.kind = some a → f.kind = a) ∧
    (e.direction = .both ∨ e.direction = .up ∧ p = .downstream ∨ e.direction = .down ∧ p = .upstream) := by
  unfold ForwardRule.covers
  rw [Bool.and_eq_true, Bool.and_eq_true, Bool.and_eq_true, matchField_iff, matchField_iff, matchField_iff,
    direction_covers_iff]
  tauto

/-- What one entry of the forwarding table says of a frame. -/
def entryAction (p : Port) (f : Frame) (e : Option (Option ForwardRule)) : Option ForwardAction :=
  match e.join with
  | some rule => if rule.covers p f then some rule.action else none
  | none => none

theorem forwardAction_eq (p : Port) (f : Frame) (s : State) :
    forwardAction p f s = s.forwarding.toList.findSome? (entryAction p f) := rfl

theorem entryAction_none {p : Port} {f : Frame} {e : Option (Option ForwardRule)}
    (h : ∀ d, e = some (some d) → d.covers p f = false) : entryAction p f e = none := by
  rcases e with _ | _ | d
  · rfl
  · rfl
  · simp [entryAction, h d rfl]

/-- R9: with no matching entry no action is named. -/
theorem forwardAction_none {p : Port} {f : Frame}
    (h : ∀ (j : Fin 32) (d : ForwardRule), s.forwarding[j] = some (some d) → d.covers p f = false) :
    forwardAction p f s = none := by
  rw [forwardAction_eq, List.findSome?_eq_none_iff]
  intro e he
  obtain ⟨j, hj, rfl⟩ := List.mem_iff_getElem.mp he
  exact entryAction_none (h ⟨j, by simpa using hj⟩)

/-- R9: the first matching entry names the action. -/
theorem forwardAction_first {p : Port} {f : Frame} {i : Fin 32} {e : ForwardRule}
    (hi : s.forwarding[i] = some (some e)) (he : e.covers p f = true)
    (before : ∀ j : Fin 32, j < i → ∀ d, s.forwarding[j] = some (some d) → d.covers p f = false) :
    forwardAction p f s = some e.action := by
  have len : i.val < s.forwarding.toList.length := by simp
  have cut := List.take_append_drop i.val s.forwarding.toList
  rw [List.drop_eq_getElem_cons len] at cut
  rw [forwardAction_eq, List.findSome?_eq_some_iff]
  refine ⟨_, _, _, cut.symm, ?_, fun x hx => ?_⟩
  · have entry : s.forwarding.toList[i.val] = some (some e) := hi
    rw [entry]
    exact if_pos he
  · obtain ⟨j, hj, rfl⟩ := List.mem_iff_getElem.mp hx
    rw [List.length_take] at hj
    rw [List.getElem_take]
    exact entryAction_none (before ⟨j, by omega⟩ (Fin.mk_lt_of_lt_val (by omega)))

theorem offer_eq (p : Port) (f : Frame) (s : State) : offer p f s =
    match forwardAction p f s with
    | none => forward p f s
    | some .pass => forward p f s
    | some .drop => s
    | some .passInIdle => if s.lotState = .idle then forward p f s else s := by
  unfold offer passes?
  cases forwardAction p f s with
  | none => rfl
  | some action => cases action <;> simp

/-- Settles O6. -/
theorem firstForwardingEntryDecides : Obligations.FirstForwardingEntryDecides := by
  refine ⟨fun s p f i e hi he before => ?_, fun s p f h => ?_, covers_iff⟩
  · rw [offer_eq, forwardAction_first hi he before]
    refine ⟨fun a => ?_, fun a => ?_, fun a => ?_⟩ <;> rw [a]
  · rw [offer_eq, forwardAction_none h]

theorem joinThrough_busy {p : Port} (f : Frame) (h : (s.port p).sending.isSome = true) :
    joinThrough p f s = s.setPort p { s.port p with through := (s.port p).through ++ [f] } :=
  arbitrate_busy (by rw [State.port_setPort_self]; exact h)

theorem joinOwn_busy {p : Port} (f : Frame) (h : (s.port p).sending.isSome = true) :
    joinOwn p f s = s.setPort p { s.port p with own := (s.port p).own ++ [f] } :=
  arbitrate_busy (by rw [State.port_setPort_self]; exact h)

/-- R11: an idle port with empty queues sends a forwarded frame at once. -/
theorem joinThrough_idle {p : Port} (f : Frame) (through : (s.port p).through = []) (own : (s.port p).own = [])
    (idle : (s.port p).sending = none) :
    joinThrough p f s =
      s.setPort p { s.port p with lastTaken := .through, sending := some (stamped p .through f s) } := by
  let x : PortState := { s.port p with through := [f] }
  have e : joinThrough p f s = arbitrate p (s.setPort p x) := by simp [joinThrough, x, through]
  have at_p : (s.setPort p x).port p = x := State.port_setPort_self _ _ _
  have sent : stamped p .through f (s.setPort p x) = stamped p .through f s := by
    cases p <;> rfl
  rw [e, arbitrate_through (by rw [at_p]; exact idle) (by rw [at_p]) (by rw [at_p]; exact own),
    startSending_through p (rest := []) (by rw [at_p]), at_p, State.setPort_setPort, sent]
  dsimp only [x]
  rw [through]

@[simp] theorem joinOwn_port_other (p : Port) (f : Frame) (s : State) :
    (joinOwn p f s).port p.other = s.port p.other := by simp [joinOwn]

@[simp] theorem joinThrough_port_other (p : Port) (f : Frame) (s : State) :
    (joinThrough p f s).port p.other = s.port p.other := by simp [joinThrough]

/-! ## LINK_CONGESTION (R171, R173) -/

theorem ownFull_iff (p : Port) (s : State) : ownFull p s = true ↔ 32 ≤ (s.port p).own.length := decide_eq_true_iff

theorem throughFull_iff (p : Port) (s : State) : throughFull p s = true ↔ 8 ≤ (s.port p).through.length :=
  decide_eq_true_iff

@[simp] theorem produceNotice_downstream (k : EventKind) (s : State) : (produceNotice k s).downstream = s.downstream := by
  unfold produceNotice joinOwnOrDrop
  split
  · rfl
  · exact joinOwn_port_other .upstream _ _

/-- R173: a full own queue loses the NOTICE, which uses its sequence number. -/
theorem produceNotice_full (k : EventKind) (h : ownFull .upstream s = true) :
    produceNotice k s = advanceSequence .upstream s := if_pos h

theorem produceNotice_through (k : EventKind) (h : s.upstream.sending.isSome = true) :
    (produceNotice k s).upstream.through = s.upstream.through := by
  unfold produceNotice joinOwnOrDrop
  split
  · rfl
  · rw [joinOwn_busy (p := .upstream) (s := advanceSequence .upstream s) _ h]
    rfl

theorem raiseCongestion_downstream (d : Nat) (s : State) : (raiseCongestion d s).downstream = s.downstream := by
  unfold raiseCongestion
  dsimp only
  split
  · split
    · exact produceNotice_downstream _ _
    · exact produceNotice_downstream _ _
  · rfl

theorem raiseCongestion_through (d : Nat) (h : s.upstream.sending.isSome = true) :
    (raiseCongestion d s).upstream.through = s.upstream.through := by
  unfold raiseCongestion
  dsimp only
  split
  · split
    · exact produceNotice_through .linkCongestion (s := noteEvent .linkCongestion d s) h
    · exact produceNotice_through .linkCongestion (s := noteEvent .linkCongestion d s) h
  · rfl

theorem raiseCongestion_own (d : Nat) (h : ownFull .upstream s = true) :
    (raiseCongestion d s).upstream.own = s.upstream.own := by
  unfold raiseCongestion
  dsimp only
  rw [if_pos h, produceNotice_full .linkCongestion (s := noteEvent .linkCongestion d s) h]
  split <;> rfl

theorem forward_room {p : Port} (f : Frame) (room : (s.port p.other).through.length < 8) :
    forward p f s = joinThrough p.other f s :=
  if_neg fun full => Nat.not_le_of_lt room ((throughFull_iff _ _).1 full)

theorem forward_full {p : Port} (f : Frame) (full : 8 ≤ (s.port p.other).through.length) :
    forward p f s = raiseCongestion p.other.num s := if_pos ((throughFull_iff _ _).2 full)

theorem Port.other_other (p : Port) : p.other.other = p := by cases p <;> rfl

/-- Settles O7. -/
theorem throughQueueJoin : Obligations.ThroughQueueJoin := by
  intro s p f
  refine ⟨fun room busy => ?_, fun through own idle => ?_, fun room => ?_, forward_full f, fun full busy => ?_,
    offLink_forward p f s⟩
  · rw [forward_room f room, joinThrough_busy f busy]
  · rw [forward_room f (by rw [through]; decide), joinThrough_idle f through own idle]
  · rw [forward_room f room, joinThrough_events]
    have other := joinThrough_port_other p.other f s
    rw [Port.other_other] at other
    exact ⟨other, rfl⟩
  · rw [forward_full f full]
    cases p with
    | upstream => exact congrArg PortState.through (raiseCongestion_downstream _ s)
    | downstream => exact raiseCongestion_through _ busy

/-! ## Own frames (R12, R13) -/

theorem ownFull_advanceSequence (p : Port) (s : State) : ownFull p (advanceSequence p s) = ownFull p s := by
  unfold ownFull
  rw [port_advanceSequence]

theorem produce_full {p : Port} (destination kind : Byte) (payload : List Byte) :
    32 ≤ (s.port p).own.length → produce p destination kind payload s =
      raiseCongestion (match p with | .upstream => 2 | .downstream => 3) (advanceSequence p s) := fun full =>
  if_pos ((ownFull_advanceSequence p s).trans ((ownFull_iff p s).2 full))

theorem produce_room {p : Port} (destination kind : Byte) (payload : List Byte) (room : (s.port p).own.length < 32) :
    produce p destination kind payload s =
      joinOwn p (ownFrame p destination kind payload s) (advanceSequence p s) :=
  if_neg fun full => Nat.not_le_of_lt room ((ownFull_iff p s).1 ((ownFull_advanceSequence p s).symm.trans full))

/-- R12: a port with nothing waiting sends an own frame at once. -/
theorem joinOwn_idle {p : Port} (f : Frame) (own : (s.port p).own = []) (through : (s.port p).through = [])
    (idle : (s.port p).sending = none) :
    ∃ g, (joinOwn p f s).port p = { s.port p with lastTaken := .own, sending := some g } ∧
      (¬ (p = .upstream ∧ s.lotState = .bypass) → g = stamped p .own f s) ∧
      (p = .upstream → ∃ a : Byte, (a &&& 0x78) = 0 ∧ g = { f with attention := a }) ∧
      (p = .downstream → g = f) := by
  let x : PortState := { s.port p with own := [f] }
  have e : joinOwn p f s = arbitrate p (s.setPort p x) := by simp [joinOwn, x, own]
  have at_p : (s.setPort p x).port p = x := State.port_setPort_self _ _ _
  have sent (free : ¬ (p = .upstream ∧ s.lotState = .bypass)) :
      stamped p .own f (s.setPort p x) = stamped p .own f s := stamped_congr p .own f (by simp) (by simp) (by simp) free
  rw [e, arbitrate_own (by rw [at_p]; exact idle) (by rw [at_p]; exact through) (by rw [at_p])]
  obtain ⟨g, port, outside, upstream, downstream⟩ :=
    startSending_own (s := s.setPort p x) p (f := f) (rest := []) (by rw [at_p])
  refine ⟨g, ?_, fun free => ?_, upstream, downstream⟩
  · rw [port, at_p]
    dsimp only [x]
    rw [own]
  · rw [outside (by simpa using free), sent free]

/-- Settles O8. -/
theorem ownFrameProduced : Obligations.OwnFrameProduced := by
  intro s p destination kind payload
  refine ⟨fun room busy => ?_, fun own through idle => ?_, fun full => ⟨produce_full _ _ _ full, fun busy => ?_⟩,
    offLink_produce _ _ _ _ _⟩
  · rw [produce_room _ _ _ room, joinOwn_busy _ (by rw [port_advanceSequence]; exact busy), port_advanceSequence]
    exact State.setPort_setPort _ _ _ _
  · obtain ⟨g, port, outside, upstream, downstream⟩ := joinOwn_idle (s := advanceSequence p s) (p := p)
      (ownFrame p destination kind payload s) (by simpa using own) (by simpa using through) (by simpa using idle)
    rw [produce_room _ _ _ (by rw [own]; decide), port, port_advanceSequence]
    refine ⟨fun free => ?_, ?_, own, through, rfl, rfl⟩
    · have lot : (advanceSequence p s).lotState = s.lotState := by simp [advanceSequence]
      rw [outside (by rw [lot]; exact free),
        stamped_congr p .own _ lot (by simp [advanceSequence]) (by simp [advanceSequence]) free]
      rfl
    · cases p with
      | upstream =>
        obtain ⟨a, clear, sent⟩ := upstream rfl
        exact ⟨a, clear, congrArg some sent⟩
      | downstream => exact ⟨0, by decide, congrArg some (downstream rfl)⟩
  · rw [produce_full _ _ _ full]
    cases p with
    | upstream => exact raiseCongestion_own _ ((ownFull_advanceSequence _ _).trans ((ownFull_iff .upstream s).2 full))
    | downstream =>
      show (raiseCongestion 3 (advanceSequence .downstream s)).downstream.own = s.downstream.own
      rw [raiseCongestion_downstream]
      rfl

/-! ## The end of a transmission (R14) -/

theorem exec_transmissionEnd {p : Port} (low : s.resetLow = false) (due : dueTimers s = [])
    (busy : (s.port p).sending.isSome = true) :
    exec (.transmissionEnd p) s = .next (arbitrate p (s.setPort p { s.port p with sending := none })) := by
  show Host.Outcome.next (endTransmission p (takeDue s)) = _
  rw [takeDue_of_none due]
  unfold endTransmission
  obtain ⟨f, sent⟩ := Option.isSome_iff_exists.mp busy
  rw [low, sent]
  rfl

/-- Settles O9. -/
theorem transmissionEndArbitrates : Obligations.TransmissionEndArbitrates := by
  intro s p low due busy
  refine ⟨_, exec_transmissionEnd low due busy, by simp, by simp, by simp, ?_⟩
  generalize free : s.setPort p { s.port p with sending := none } = u
  have at_p : u.port p = { s.port p with sending := none } := by rw [← free, State.port_setPort_self]
  have lot : u.lotState = s.lotState := by rw [← free]; simp
  have stamp (q : QueueKind) (f : Frame) (h : ¬ (p = .upstream ∧ s.lotState = .bypass)) :
      stamped p q f u = stamped p q f s := by
    refine stamped_congr p q f lot ?_ ?_ h <;> rw [← free] <;> simp
  have stampThrough (f : Frame) : stamped p .through f u = stamped p .through f s := by
    rw [← free]
    cases p <;> rfl
  have through {f : Frame} {rest : List Frame} (h : (s.port p).through = f :: rest) :
      (startSending p .through u).port p =
        { s.port p with through := rest, lastTaken := .through, sending := some (stamped p .through f s) } := by
    rw [startSending_through p (by rw [at_p]; exact h), State.port_setPort_self, at_p, stampThrough]
  have own {f : Frame} {rest : List Frame} (h : (s.port p).own = f :: rest) :
      (startSending p .own u).port p =
          { s.port p with own := rest, lastTaken := .own, sending := ((startSending p .own u).port p).sending } ∧
        (¬ (p = .upstream ∧ s.lotState = .bypass) →
          ((startSending p .own u).port p).sending = some (stamped p .own f s)) ∧
        (p = .upstream → s.lotState = .bypass →
          ∃ a : Byte, (a &&& 0x78) = 0 ∧ ((startSending p .own u).port p).sending = some { f with attention := a }) := by
    obtain ⟨g, port, outside, upstream, -⟩ := startSending_own (s := u) p (by rw [at_p]; exact h)
    rw [port, at_p]
    refine ⟨rfl, fun out => ?_, fun up _ => ?_⟩
    · rw [outside (by rw [lot]; exact out), stamp .own f out]
    · obtain ⟨a, clear, sent⟩ := upstream up
      exact ⟨a, clear, congrArg some sent⟩
  have idle : (u.port p).sending = none := by rw [at_p]
  have queues : (u.port p).through = (s.port p).through ∧ (u.port p).own = (s.port p).own ∧
      (u.port p).lastTaken = (s.port p).lastTaken := by rw [at_p]; exact ⟨rfl, rfl, rfl⟩
  obtain ⟨qt, qo, last⟩ := queues
  cases ht : (s.port p).through with
  | nil =>
    cases ho : (s.port p).own with
    | nil => simp only [arbitrate_empty (qt.trans ht) (qo.trans ho), at_p, ht, ho]
    | cons f rest =>
      have sent := own ho
      rw [arbitrate_own idle (qt.trans ht) (qo.trans ho)]
      simp only [ht, ho] at sent ⊢
      exact sent
  | cons f rest =>
    cases ho : (s.port p).own with
    | nil =>
      have sent := through ht
      rw [arbitrate_through idle (qt.trans ht) (qo.trans ho)]
      simp only [ht, ho] at sent ⊢
      exact sent
    | cons g rest' =>
      rw [arbitrate_both idle (qt.trans ht) (qo.trans ho), last]
      have sentOwn := own ho
      have sentThrough := through ht
      by_cases turn : (s.port p).lastTaken = .through
      · simp only [turn, ht, ho, if_pos] at sentOwn ⊢
        exact sentOwn
      · simp only [turn, ht, ho, if_false] at sentThrough ⊢
        exact sentThrough

end Sys2Proof.Machine
end

section
/-! PROOFS. Arriving frames and the request unit: O3, O4, O5 and O44. -/

namespace Sys2Proof.Machine

variable {s : State}

/-! ## Arrivals -/

/-- Log 23: the four arrival commands hand the bytes to one handling. -/
theorem exec_arrivals {p : Port} {bytes : List Byte} {c : Instr} (h : c ∈ arrivals p bytes) (s : State) :
    exec c s = .next (arrive p bytes (takeDue s)) := by
  simp only [arrivals, List.mem_cons, List.not_mem_nil, or_false] at h
  obtain rfl | rfl | rfl | rfl := h <;> rfl

theorem sourceFits_iff (f : Frame) (s : State) :
    sourceFits f s = true ↔ f.source ≠ broadcast ∧ s.ownAddress ≠ some f.source := by
  simp [sourceFits]

/-- R2: bytes that are no frame, or whose source fails the check, are discarded with LINK_INTEGRITY. -/
theorem arrive_bad {p : Port} {bytes : List Byte} (low : s.resetLow = false)
    (bad : ∀ f, Frame.parse bytes = some f → f.source = broadcast ∨ s.ownAddress = some f.source) :
    arrive p bytes s = failFrame p s := by
  unfold arrive
  rw [low]
  cases parsed : Frame.parse bytes with
  | none => rfl
  | some f =>
    rw [if_neg Bool.false_ne_true]
    refine if_neg fun fits => ?_
    obtain ⟨notAll, notOwn⟩ := (sourceFits_iff f s).1 fits
    exact (bad f parsed).elim notAll notOwn

/-- R2, R5: a frame that passes the checks is classified. -/
theorem exec_takes {p : Port} {bytes : List Byte} {f : Frame} {c : Instr} (h : c ∈ arrivals p bytes)
    (takes : s.takes bytes f) : exec c s = .next (classify p f s) := by
  obtain ⟨low, due, parsed, notAll, notOwn⟩ := takes
  rw [exec_arrivals h, takeDue_of_none due]
  unfold arrive
  rw [low, parsed]
  exact congrArg Host.Outcome.next (if_pos ((sourceFits_iff f s).2 ⟨notAll, notOwn⟩))

/-! ## Ownership and classification (R5, R7) -/

theorem ownerOf_ne_none_iff (p : Port) (f : Frame) (s : State) : ownerOf p f s ≠ none ↔ s.ownsFrame p f := by
  unfold ownerOf State.ownsFrame State.owned
  by_cases open_ : (s.lotState.working && p == .downstream && s.nodeWritten) = true
  · obtain ⟨⟨working, down⟩, written⟩ : (s.lotState.working = true ∧ p = .downstream) ∧ s.nodeWritten = true := by
      simpa using open_
    rw [if_pos open_]
    simp only [working, down, written, true_and]
    grind
  · rw [if_neg open_]
    have shut : ¬ (s.lotState.working = true ∧ p = .downstream ∧ s.nodeWritten = true) := by
      simpa [and_assoc] using open_
    grind

theorem ownerOf_none {p : Port} {f : Frame} (h : ¬ s.ownsFrame p f) : ownerOf p f s = none :=
  Classical.byContradiction fun some' => h ((ownerOf_ne_none_iff p f s).1 some')

/-- R5: an owned frame comes while a lot is working. -/
theorem State.ownsFrame.working {p : Port} {f : Frame} (h : s.ownsFrame p f) : s.lotState.working = true := by
  obtain ⟨w, -⟩ | ⟨w, -⟩ | ⟨w, -⟩ | ⟨w, -⟩ := h <;> exact w

theorem State.ownsFrame.kind_ne {p : Port} {f : Frame} (h : s.ownsFrame p f) : f.kind ≠ kindMgmtRequest := by
  obtain ⟨-, -, -, k, -⟩ | ⟨-, -, -, k, -⟩ | ⟨-, -, -, k, -⟩ | ⟨-, -, -, k, -⟩ := h <;> rw [k] <;> decide

/-- R3: a misfit for its owner is discarded, whether it is addressed to the part or not. -/
theorem classify_misfit_owned {p : Port} {f : Frame} (owned : s.ownsFrame p f)
    (misfit : lengthFits f.kind f.payload.length = false) : classify p f s = failFrame p s := by
  have owner := (ownerOf_ne_none_iff p f s).2 owned
  have notBypass : s.lotState ≠ .bypass := fun e => by simpa [e, LotState.working] using owned.working
  unfold classify consume carry
  rw [if_neg owned.kind_ne, if_neg notBypass]
  cases o : ownerOf p f s with
  | none => exact absurd o owner
  | some o => simp [misfit]

theorem classify_request {f : Frame} (own : s.ownAddress = some f.destination) (kind : f.kind = kindMgmtRequest) :
    classify .upstream f s =
      if lengthFits f.kind f.payload.length then requestByCode (byteAt f.payload 0) f.request s
      else failFrame .upstream s := by
  unfold classify consume
  rw [if_pos own, if_pos kind]

/-- Settles O4. -/
theorem badFramesDiscarded : Obligations.BadFramesDiscarded := by
  refine ⟨fun s p bytes low due bad c hc => ?_, fun s p bytes f takes misfit whose c hc => ?_⟩
  · rw [exec_arrivals hc, takeDue_of_none due, arrive_bad low bad]
    rfl
  · rw [exec_takes hc takes]
    refine congrArg Host.Outcome.next ?_
    obtain ⟨own, kind, rfl⟩ | owned := whose
    · rw [classify_request own kind, misfit]
      rfl
    · exact classify_misfit_owned owned misfit

/-- Settles O5. -/
theorem framesClassified : Obligations.FramesClassified := by
  intro s p bytes f takes c hc
  rw [exec_takes hc takes]
  refine ⟨fun own downward free => ?_, fun away bypass => ?_, fun away outside free => ?_⟩
  · unfold classify consume
    rw [if_pos own, ownerOf_none free]
    split
    · next kind => rw [downward kind]
    · rfl
  · unfold classify
    rw [if_neg away, if_pos bypass]
  · unfold classify carry
    rw [if_neg away, if_neg outside, ownerOf_none free]

/-! ## Requests (R156, R182) -/

/-- R182: each request command has a handler, which the request unit chooses for its code. -/
theorem requestCommands_handler (r : Request) : ∀ x ∈ requestCommands r, ∃ act : Request → State → State,
    (∀ s, exec x.2 s = .next (requestArrives r act (takeDue s))) ∧ ∀ s, requestByCode x.1 r s = act r s := by
  simp only [requestCommands, List.forall_mem_cons, List.not_mem_nil, false_implies, implies_true, and_true]
  and_intros <;> exact ⟨_, fun _ => rfl, fun _ => rfl⟩

/-- R182: the code of no request command is answered UNKNOWN. -/
theorem requestByCode_unknown (r : Request) {code : Byte} (h : ∀ x ∈ requestCommands r, x.1 ≠ code) (s : State) :
    requestByCode code r s = respond r .unknown s := by
  simp only [requestCommands, List.forall_mem_cons, List.not_mem_nil, false_implies, implies_true, and_true,
    ne_comm (b := code)] at h
  simp only [requestByCode, h, if_false]

theorem hears_iff (s : State) (r : Request) : s.hears r = true ↔
    s.resetLow = false ∧ dueTimers s = [] ∧ (∃ own, s.ownAddress = some own) ∧ r.source ≠ broadcast ∧
      s.ownAddress ≠ some r.source ∧ r.fields.length + 2 ≤ 240 := by
  simp only [State.hears, Bool.and_eq_true, Bool.not_eq_true', List.isEmpty_iff, Option.isSome_iff_exists,
    beq_eq_false_iff_ne, decide_eq_true_eq, and_assoc]

/-- R1, R2: a request that is heard reaches its handler. -/
theorem requestArrives_heard {r : Request} (act : Request → State → State) (h : s.hears r = true) :
    requestArrives r act (takeDue s) = act r s := by
  obtain ⟨low, due, ⟨own, address⟩, notAll, notOwn, short⟩ := (hears_iff s r).1 h
  rw [takeDue_of_none due]
  unfold requestArrives
  rw [low, address, if_neg Bool.false_ne_true]
  refine if_neg ?_
  rintro (all | mine | long)
  · exact notAll all
  · exact notOwn (by rw [address, mine])
  · exact absurd short (Nat.not_le_of_lt long)

theorem requestArrives_deaf {r : Request} (act : Request → State → State)
    (h : s.resetLow = true ∨ s.ownAddress = none) : requestArrives r act s = s := by
  unfold requestArrives
  obtain low | none' := h
  · rw [if_pos low]
  · rw [none']
    exact ite_self s

/-- R2: a request that fails the checks of a frame raises LINK_INTEGRITY with the upstream port. -/
theorem requestArrives_bad {r : Request} (act : Request → State → State) {own : Byte} (low : s.resetLow = false)
    (address : s.ownAddress = some own) (bad : r.source = broadcast ∨ r.source = own ∨ 240 < r.fields.length + 2) :
    requestArrives r act s = raiseEvent .linkIntegrity 0 s := by
  unfold requestArrives
  rw [low, address]
  exact if_pos bad

/-- R182: the frame of a request that is heard passes the checks on the upstream port. -/
theorem takes_requestFrame {r : Request} {own : Byte} (code : Byte) (h : s.hears r = true) :
    s.takes (r.frame own code).wire (r.frame own code) := by
  obtain ⟨low, due, -, notAll, notOwn, short⟩ := (hears_iff s r).1 h
  exact ⟨low, due, parse_wire short, notAll, notOwn⟩

/-- R7, R156: a request's frame reaches the request unit. -/
theorem exec_requestFrame {r : Request} {own : Byte} (code : Byte) (h : s.hears r = true)
    (address : s.ownAddress = some own) :
    exec (.frameArrival .upstream (r.frame own code).wire) s = .next (requestByCode code r s) := by
  obtain ⟨-, -, -, -, -, short⟩ := (hears_iff s r).1 h
  have fits : lengthFits (r.frame own code).kind (r.frame own code).payload.length = true :=
    decide_eq_true ⟨Nat.le_add_left _ _, short⟩
  rw [exec_takes (List.mem_cons_self ..) (takes_requestFrame code h), classify_request address rfl, if_pos fits]
  rfl

/-- Settles O3. -/
theorem requestFramesReachTheirCommand : Obligations.RequestFramesReachTheirCommand := by
  refine fun s r own h address => ⟨fun x hx => ?_, fun code unknown => ?_⟩
  · obtain ⟨act, command, chosen⟩ := requestCommands_handler r x hx
    rw [exec_requestFrame x.1 h address, command, chosen, requestArrives_heard act h]
  · rw [exec_requestFrame code h address, requestByCode_unknown r unknown]

/-! ## What a request is checked for (R156, R157) -/

/-- A command that, when heard, checks for so many field bytes and then for the lot states. -/
def ChecksFirst (r : Request) (s : State) (x : Instr × Nat × List LotState) : Prop :=
  ∃ (fits accepted : Bool) (act : State → State), exec x.1 s = .next (takeRequest r fits accepted act s) ∧
    (fits = true ↔ r.fields.length = x.2.1) ∧ (accepted = true → s.lotState ∈ x.2.2)

theorem ChecksFirst.misfit {r : Request} {x : Instr × Nat × List LotState} (h : ChecksFirst r s x)
    (wrong : r.fields.length ≠ x.2.1) : exec x.1 s = .next (respond r .unknown s) := by
  obtain ⟨fits, accepted, act, run, length, -⟩ := h
  rw [run]
  exact congrArg Host.Outcome.next (if_neg fun f => wrong (length.1 f))

theorem ChecksFirst.barred {r : Request} {x : Instr × Nat × List LotState} (h : ChecksFirst r s x)
    (right : r.fields.length = x.2.1) (lot : s.lotState ∉ x.2.2) : exec x.1 s = .next (respond r .state s) := by
  obtain ⟨fits, accepted, act, run, length, states⟩ := h
  rw [run]
  exact congrArg Host.Outcome.next ((if_pos (length.2 right)).trans (if_neg fun a => lot (states a)))

theorem checksFirst_of {r : Request} {c : Instr} {n : Nat} {lots : List LotState} {handler : Request → State → State}
    {fits accepted : Bool} {act : State → State} (h : s.hears r = true)
    (run : exec c s = .next (requestArrives r handler (takeDue s)))
    (checks : handler r s = takeRequest r fits accepted act s) (length : fits = true ↔ r.fields.length = n)
    (states : accepted = true → s.lotState ∈ lots) : ChecksFirst r s (c, n, lots) :=
  ⟨fits, accepted, act, by rw [run, requestArrives_heard handler h, checks], length, states⟩

theorem isEmpty_iff_length (l : List Byte) : l.isEmpty = true ↔ l.length = 0 := by simp

theorem mem_of_lotState_beq {a : LotState} {l : List LotState} (h : a ∈ l) : (s.lotState == a) = true → s.lotState ∈ l :=
  fun e => (beq_iff_eq.1 e).symm ▸ h

theorem mem_of_working : s.lotState.working = true → s.lotState ∈ [LotState.run, .pause, .drain] := by
  cases s.lotState <;> decide

theorem mem_of_open : s.lotState.open = true → s.lotState ∈ [LotState.idle, .run, .pause, .drain] := by
  cases s.lotState <;> decide

theorem mem_allLots : s.lotState ∈ [LotState.bypass, .idle, .run, .pause, .drain] := by cases s.lotState <;> decide

theorem mem_of_drains : (s.lotState == .run || draining s) = true → s.lotState ∈ [LotState.run, .pause, .drain] := by
  unfold draining
  cases s.lotState <;> simp

/-- R157: the payload length and the lot states of each request but TABLE WRITE. -/
theorem requests_checkFirst {r : Request} (h : s.hears r = true) :
    let inLot : List LotState := [.run, .pause, .drain]
    let inAll : List LotState := [.idle, .run, .pause, .drain]
    ∀ x ∈ ([(.lotStart r, 0, [.idle]), (.lotPause r, 0, inLot), (.lotResume r, 0, [.pause]), (.lotDrain r, 0, inLot),
        (.lotEnd r, 0, [.drain]), (.bypassEnter r, 0, [.idle]), (.bypassExit r, 0, [.bypass]),
        (.reset r, 0, .bypass :: inAll), (.tableRead r, 5, inAll), (.cursorReset r, 1, inAll),
        (.statusRead r, 7, .bypass :: inAll), (.eventAck r, 4, inAll), (.eventMask r, 4, inAll),
        (.socketEnable r, 1, inAll), (.socketDisable r, 1, inAll), (.socketClear r, 1, inAll),
        (.trayReady r, 17, inAll), (.trayWithdraw r, 2, inAll), (.headRecover r, 2, inLot), (.partPurge r, 5, inAll),
        (.locate r, 5, inAll)] : List (Instr × Nat × List LotState)), ChecksFirst r s x := by
  intro inLot inAll
  have empty := isEmpty_iff_length r.fields
  have counts (n : Nat) : (r.fields.length == n) = true ↔ r.fields.length = n := beq_iff_eq
  simp only [List.forall_mem_cons, List.not_mem_nil, false_implies, implies_true, and_true]
  refine ⟨?start, ?pause, ?resume, ?drain, ?end_, ?enter, ?exit_, ?reset, ?read, ?cursor, ?status, ?ack, ?mask, ?enable,
    ?disable, ?clear, ?ready, ?withdraw, ?recover, ?purge, ?locate⟩
  case start => exact checksFirst_of h rfl rfl empty (mem_of_lotState_beq (by decide))
  case pause => exact checksFirst_of h rfl rfl empty mem_of_working
  case resume => exact checksFirst_of h rfl rfl empty (mem_of_lotState_beq (by decide))
  case drain => exact checksFirst_of h rfl rfl empty mem_of_drains
  case end_ =>
    exact checksFirst_of h rfl rfl empty fun a => mem_of_lotState_beq (by decide) (Bool.and_eq_true_iff.1 a).1
  case enter => exact checksFirst_of h rfl rfl empty (mem_of_lotState_beq (by decide))
  case exit_ => exact checksFirst_of h rfl rfl empty (mem_of_lotState_beq (by decide))
  case reset => exact checksFirst_of h rfl rfl empty fun _ => mem_allLots
  case status => exact checksFirst_of h rfl rfl (counts 7) fun _ => mem_allLots
  case recover => exact checksFirst_of h rfl rfl (counts 2) mem_of_working
  all_goals exact checksFirst_of h rfl rfl (counts _) mem_of_open

theorem entryBytes_pos (t : TableId) : 0 < t.entryBytes := by cases t <;> decide

/-- R157, R165: field bytes that fit no TABLE WRITE. -/
theorem tableWriteFits_false {fields : List Byte}
    (h : fields.length < 4 ∨ ∃ t, TableId.ofNum (fieldAt fields 0 1) = some t ∧
        ((fields.length - 4) % t.entryBytes ≠ 0 ∨
          fields.length = 4 ∧ ¬ (t = .serviceList ∧ fieldAt fields 1 1 = 2))) :
    tableWriteFits fields = false := by
  unfold tableWriteFits
  obtain short | ⟨t, table, part | ⟨bare, other⟩⟩ := h
  · simp [Nat.not_le_of_lt short]
  · simp [table, part]
  · have pos := entryBytes_pos t
    have none' : ¬ t.entryBytes = 0 := by omega
    simpa [table, bare, none'] using other

theorem queueOwn_room {p : Port} (f : Frame) (room : (s.port p).own.length < 32) : queueOwn p f s = joinOwn p f s :=
  if_neg fun full => Nat.not_le_of_lt room ((ownFull_iff p s).1 full)

theorem startSending_sequence (p : Port) (q : QueueKind) (s : State) :
    ((startSending p q s).port p).sequence = (s.port p).sequence := by
  unfold startSending
  dsimp only
  split <;> split <;> simp [port_draws]

/-- The arbiter uses no sequence number. -/
theorem arbitrate_sequence (p : Port) (s : State) : ((arbitrate p s).port p).sequence = (s.port p).sequence := by
  unfold arbitrate
  dsimp only
  split
  · rfl
  · split <;> simp only [startSending_sequence]

theorem joinOwn_sequence (p : Port) (f : Frame) (s : State) :
    ((joinOwn p f s).port p).sequence = (s.port p).sequence :=
  (arbitrate_sequence p _).trans (by rw [State.port_setPort_self])

/-- Settles O44. -/
theorem requestsCheckedFirst : Obligations.RequestsCheckedFirst := by
  refine ⟨fun s r x hx => ⟨fun deaf => ?_, fun own low due address bad => ?_⟩, fun s r h x hx => ?_,
    fun s r h => ⟨fun misfit => ?_, fun fits bypass => ?_⟩, fun s r code ticket fields => ?_⟩
  · obtain ⟨act, command, -⟩ := requestCommands_handler r x hx
    rw [command]
    obtain low | ⟨none', due⟩ := deaf
    · rw [takeDue_of_resetLow low, requestArrives_deaf act (.inl low)]
    · rw [takeDue_of_none due, requestArrives_deaf act (.inr none')]
  · obtain ⟨act, command, -⟩ := requestCommands_handler r x hx
    rw [command, takeDue_of_none due, requestArrives_bad act low address]
    exact bad.imp_right (Or.imp_right fun long => by omega)
  · exact ⟨(requests_checkFirst h x hx).misfit, (requests_checkFirst h x hx).barred⟩
  · refine (congrArg Host.Outcome.next (requestArrives_heard tableWriteRequest h)).trans ?_
    unfold tableWriteRequest
    rw [tableWriteFits_false misfit]
    rfl
  · refine (congrArg Host.Outcome.next (requestArrives_heard tableWriteRequest h)).trans ?_
    unfold tableWriteRequest
    rw [fits, bypass]
    rfl
  · refine ⟨offLink_respondWith r code ticket fields s, fun room busy => ?_, fun room => ?_⟩
    · exact (queueOwn_room (p := .upstream) _ room).trans (joinOwn_busy _ busy)
    · have joined := queueOwn_room (s := s) (p := .upstream)
        { destination := r.source, source := s.ownAddress.getD broadcast, kind := kindMgmtResponse, attention := 0,
          correlator := r.correlator, payload := byte code.num :: byte ticket :: fields } room
      unfold respondWith
      rw [joined]
      exact ⟨joinOwn_sequence .upstream _ s, joinOwn_events _ _ _⟩

end Sys2Proof.Machine
end

section
/-! PROOFS. Power-on, RESET_N and the soft reset: O15, O16 and O49. -/

namespace Sys2Proof.Machine

variable {s t : State}

/-! ## Blocks at their power-on values -/

/-- R112, R117, R135, R145: what a head holds at power-on, but for its holdings. -/
theorem headRecord_initial (h : Head) :
    (HeadRecord.initial h).state = .offline ∧ (HeadRecord.initial h).known = none ∧ (HeadRecord.initial h).ticket = none ∧
      (HeadRecord.initial h).tagCounter = 0 ∧ (HeadRecord.initial h).queue = [] ∧ (HeadRecord.initial h).base = none ∧
      (HeadRecord.initial h).yieldDue = false ∧ (HeadRecord.initial h).pointer = 0 ∧
      ∀ n : Fin 4, (HeadRecord.initial h).nozzles[n] = ⟨none, false, none⟩ :=
  ⟨rfl, rfl, rfl, rfl, rfl, rfl, rfl, rfl, fun n => Vector.getElem_replicate n.isLt⟩

/-- R93: what a bin holds at power-on. -/
theorem bin_initial : Bin.initial.active = none ∧ Bin.initial.blocked = false ∧
    ∀ y, Bin.initial.tray y = ⟨.absent, none, 0, 0, 0⟩ :=
  ⟨rfl, rfl, fun y => by cases y <;> rfl⟩

theorem getElem_of_eq_replicate {α : Type} {n : Nat} {v : Vector α n} {a : α} (e : v = Vector.replicate n a) (i : Fin n) :
    v[i] = a := by
  rw [e]
  exact Vector.getElem_replicate i.isLt

theorem head_of_initial (e : s.heads = ⟨.initial .west, .initial .east⟩) (h : Head) : s.head h = .initial h := by
  rw [State.head, e]
  cases h <;> rfl

/-- R1: straps that do not read 31 are the address. -/
theorem strapAddress_some {straps : BitVec 5} (h : straps ≠ 31) : strapAddress straps = some (byte straps.toNat) := by
  rw [strapAddress, if_neg h]
  exact congrArg some (BitVec.eq_of_toNat_eq (by simp [byte]))

/-- Settles O15. -/
theorem powerOnState : Obligations.PowerOnState := by
  intro straps s
  refine ⟨_, rfl, rfl, rfl, fun none' => if_pos none', strapAddress_some, fun p => ?_, getElem_of_eq_replicate rfl, getElem_of_eq_replicate rfl, getElem_of_eq_replicate rfl,
    fun i => ⟨getElem_of_eq_replicate rfl i, getElem_of_eq_replicate rfl i⟩, getElem_of_eq_replicate rfl, getElem_of_eq_replicate rfl, getElem_of_eq_replicate rfl, getElem_of_eq_replicate rfl, getElem_of_eq_replicate rfl, getElem_of_eq_replicate rfl, getElem_of_eq_replicate rfl,
    getElem_of_eq_replicate rfl, fun b => ?_, fun h => ?_, rfl, rfl, rfl, timer_initial rfl, rfl, rfl, rfl, rfl, rfl, rfl, rfl, rfl,
    rfl, rfl, getElem_of_eq_replicate rfl, rfl, rfl, getElem_of_eq_replicate rfl, rfl, rfl⟩
  · cases p <;> rfl
  · rw [show State.reset.bins[b] = .initial from reset_bin b]
    exact bin_initial
  · rw [head_of_initial rfl h]
    exact headRecord_initial h

/-! ## RESET_N (R18, log 6) -/

theorem requestArrives_resetLow {r : Request} (act : Request → State → State) (low : s.resetLow = true) :
    requestArrives r act (takeDue s) = s := by
  rw [takeDue_of_resetLow low, requestArrives_deaf act (.inl low)]

theorem arrive_resetLow (p : Port) (bytes : List Byte) (low : s.resetLow = true) : arrive p bytes (takeDue s) = s := by
  rw [takeDue_of_resetLow low]
  exact if_pos low

theorem endTransmission_resetLow (p : Port) (low : s.resetLow = true) : endTransmission p (takeDue s) = s := by
  rw [takeDue_of_resetLow low]
  exact if_pos (by simp [low])

theorem takeExpiry_resetLow (id : TimerId) (low : s.resetLow = true) : takeExpiry id s = s := if_neg (by simp [low])

theorem planningPass_resetLow (h : Head) (low : s.resetLow = true) : planningPass h (takeDue s) = s := by
  rw [takeDue_of_resetLow low]
  exact if_pos (by simp [low])

/-- Settles O16. -/
theorem deafWhileResetLow : Obligations.DeafWhileResetLow := by
  refine ⟨fun s => ⟨_, rfl, rfl, rfl, rfl, rfl, rfl, rfl, rfl⟩, fun s c low notPower notReset => ?_⟩
  cases c with
  | powerOn a => exact absurd rfl (notPower a)
  | resetNAssertion => exact absurd rfl notReset
  | frameArrival p bytes => exact congrArg Host.Outcome.next (arrive_resetLow p bytes low)
  | siteReport p bytes => exact congrArg Host.Outcome.next (arrive_resetLow p bytes low)
  | headStatus p bytes => exact congrArg Host.Outcome.next (arrive_resetLow p bytes low)
  | shuttleReport p bytes => exact congrArg Host.Outcome.next (arrive_resetLow p bytes low)
  | transmissionEnd p => exact congrArg Host.Outcome.next (endTransmission_resetLow p low)
  | tick => exact congrArg Host.Outcome.next (if_pos low)
  | soakExpiry i => exact congrArg Host.Outcome.next (takeExpiry_resetLow (.soak i) low)
  | watchdogExpiry i => exact congrArg Host.Outcome.next (takeExpiry_resetLow (.watchdog i) low)
  | fillWaitExpiry g => exact congrArg Host.Outcome.next (takeExpiry_resetLow (.fill g) low)
  | orderTimerExpiry h => exact congrArg Host.Outcome.next (takeExpiry_resetLow (.order h) low)
  | yieldTimerExpiry h => exact congrArg Host.Outcome.next (takeExpiry_resetLow (.yield h) low)
  | recoverTimerExpiry h => exact congrArg Host.Outcome.next (takeExpiry_resetLow (.recover h) low)
  | planningPass h => exact congrArg Host.Outcome.next (planningPass_resetLow h low)
  | _ => exact congrArg Host.Outcome.next (requestArrives_resetLow _ low)

/-! ## RESET (R19, R169) -/

theorem byte_succ (n : Nat) : byte n + 1 = byte (n + 1) := (BitVec.ofNat_add n 1).symm

/-- R169, R182: the COMPLETION of a cancelled ticket with its correlator. -/
def cancelledFrame (destination own : Byte) (x : Completion × Nat) : Frame :=
  ⟨destination, own, kindCompletion, 0, byte x.2, [byte x.1.ticket, x.1.code, 2, x.1.subject.code]⟩

/-- R13, R169: on a busy port the COMPLETIONs of cancelled tickets join the own queue in order. -/
theorem foldl_produceCompletion {sent : Option Frame} (busy : sent.isSome = true) (last : QueueKind) :
    ∀ (cs : List Completion) (s : State) (q : List Frame) (n : Nat),
      s.upstream = ⟨[], q, byte n, last, sent⟩ → q.length + cs.length ≤ 32 →
      cs.foldl (fun u c => produceCompletion c .cancelled u) s =
        { s with upstream :=
            ⟨[], q ++ (cs.zipIdx n).map (cancelledFrame (s.nodeAddress 0) (s.ownAddress.getD broadcast)),
              byte (n + cs.length), last, sent⟩ }
  | [], s, q, n, port, _ => by
    simp only [List.foldl_nil, List.zipIdx_nil, List.map_nil, List.append_nil, List.length_nil, Nat.add_zero, ← port]
  | c :: cs, s, q, n, port, room => by
    have len : (c :: cs).length = cs.length + 1 := rfl
    have own : (s.port .upstream).own.length < 32 := by
      show s.upstream.own.length < 32
      rw [port]
      dsimp only
      omega
    have sending : (s.port .upstream).sending.isSome = true := by
      show s.upstream.sending.isSome = true
      rw [port]
      exact busy
    have one := (ownFrameProduced s .upstream (s.nodeAddress 0) kindCompletion
      [byte c.ticket, c.code, byte FinalCode.cancelled.num, c.subject.code]).1 own sending
    have first : produceCompletion c .cancelled s =
        { s with upstream := ⟨[], q ++ [cancelledFrame (s.nodeAddress 0) (s.ownAddress.getD broadcast) (c, n)],
                              byte (n + 1), last, sent⟩ } := by
      refine one.trans ?_
      show ({ s with upstream := _ } : State) = _
      simp only [State.port, port, byte_succ]
      rfl
    rw [List.foldl_cons, first, foldl_produceCompletion busy last cs _ _ (n + 1) rfl (by simp; omega)]
    simp only [List.zipIdx_cons, List.map_cons, List.append_assoc, List.singleton_append, len]
    rw [Nat.add_right_comm, Nat.add_assoc]
    rfl

/-- R169: the response to RESET. -/
def resetAnswer (r : Request) (s : State) : Frame :=
  ⟨r.source, s.ownAddress.getD broadcast, kindMgmtResponse, 0, r.correlator, [0, 0, byte s.completions.length]⟩

/-- R17, R169: right after the soft reset the attention field is 0. -/
theorem attentionByte_softReset (s : State) : attentionByte (softReset s) = 0 := by
  have calm : attentionMark (softReset s) = false := by
    rw [← Bool.not_eq_true, attentionMark_iff]
    rintro ⟨k, pending, -⟩
    rw [show (softReset s).events[k] = .initial from getElem_of_eq_replicate rfl k] at pending
    exact absurd pending Bool.false_ne_true
  unfold attentionByte
  rw [calm]
  rfl

/-- R169: the response joins the emptied own queue. -/
theorem respondOk_softReset (r : Request) (s : State) :
    respondOk r [byte s.completions.length] (softReset s) = joinOwn .upstream (resetAnswer r s) (softReset s) :=
  queueOwn_room (s := softReset s) (p := .upstream) _ (show 0 < 32 by decide)

/-- R19: while a frame is on the wire the response waits at the front of the own queue. -/
theorem respondOk_softReset_busy (r : Request) {f : Frame} (busy : s.upstream.sending = some f) :
    (respondOk r [byte s.completions.length] (softReset s)).upstream =
      ⟨[], [resetAnswer r s], byte 0, .through, some f⟩ := by
  have sending : ((softReset s).port .upstream).sending = some f := busy
  rw [respondOk_softReset, joinOwn_busy _ (by rw [sending]; rfl)]
  show PortState.mk [] ([] ++ [resetAnswer r s]) 0 .through s.upstream.sending = _
  rw [busy]
  rfl

/-- R12: an idle port sends the response at once. -/
theorem respondOk_softReset_idle (r : Request) (idle : s.upstream.sending = none) :
    (respondOk r [byte s.completions.length] (softReset s)).upstream =
      ⟨[], [], byte 0, .own, some (resetAnswer r s)⟩ := by
  obtain ⟨g, port, outside, -⟩ :=
    joinOwn_idle (s := softReset s) (p := .upstream) (resetAnswer r s) rfl rfl idle
  have sent : g = resetAnswer r s := by
    rw [outside (by simp [softReset]), stamped_upstream .own _ (by simp [softReset]), attentionByte_softReset]
    rfl
  rw [respondOk_softReset]
  refine (show _ = _ from port).trans ?_
  rw [sent]
  rfl

/-- R169: the response and the COMPLETIONs change only the upstream port. -/
theorem resetRequest_eq {r : Request} (none' : r.fields = []) (few : s.completions.length ≤ 4) :
    ∃ (q : List Frame) (last : QueueKind) (sent : Option Frame),
      resetRequest r s = { respondOk r [byte s.completions.length] (softReset s) with
        upstream := ⟨[], q ++ s.completions.zipIdx.map (cancelledFrame (s.nodeAddress 0) (s.ownAddress.getD broadcast)),
          byte s.completions.length, last, sent⟩ } ∧
      (∀ f, s.upstream.sending = some f → q = [resetAnswer r s] ∧ last = .through ∧ sent = some f) ∧
      (s.upstream.sending = none → q = [] ∧ last = .own ∧ sent = some (resetAnswer r s)) := by
  have taken : resetRequest r s = s.completions.foldl (fun s' c => produceCompletion c .cancelled s')
      (respondOk r [byte s.completions.length] (softReset s)) := by
    unfold resetRequest takeRequest
    rw [none']
    rfl
  have off : (respondOk r [byte s.completions.length] (softReset s)).offLink = (softReset s).offLink :=
    offLink_respondOk _ _ _
  have node : (respondOk r [byte s.completions.length] (softReset s)).nodeAddress 0 = s.nodeAddress 0 := by
    unfold State.nodeAddress State.nodeWritten
    rw [offLink_node off]
    rfl
  have address : (respondOk r [byte s.completions.length] (softReset s)).ownAddress.getD broadcast =
      s.ownAddress.getD broadcast := congrArg (Option.getD · broadcast) (offLink_ownAddress off :)
  rw [taken]
  cases wire : s.upstream.sending with
  | none =>
    refine ⟨[], .own, some (resetAnswer r s), ?_, fun f h => ?_, fun _ => ⟨rfl, rfl, rfl⟩⟩
    · rw [foldl_produceCompletion rfl .own s.completions _ [] 0 (respondOk_softReset_idle r wire)
        (by simp only [List.length_nil]; omega), node, address, Nat.zero_add]
    · cases h
  | some f =>
    refine ⟨[resetAnswer r s], .through, some f, ?_, fun g h => ⟨rfl, rfl, h⟩, fun h => ?_⟩
    · rw [foldl_produceCompletion rfl .through s.completions _ [resetAnswer r s] 0 (respondOk_softReset_busy r wire)
        (by simp only [List.length_singleton]; omega), node, address, Nat.zero_add]
    · cases h

/-- Settles O49. -/
theorem resetClearsAndAnswers : Obligations.ResetClearsAndAnswers := by
  intro s r h none' few own answer cancelled
  obtain ⟨q, last, sent, result, busy, idle⟩ := resetRequest_eq none' few
  have off : (respondOk r [byte s.completions.length] (softReset s)).offLink = (softReset s).offLink :=
    offLink_respondOk _ _ _
  have downstream : (respondOk r [byte s.completions.length] (softReset s)).downstream = s.downstream.cleared := by
    rw [respondOk_softReset]
    exact joinOwn_port_other .upstream _ _
  have events : (respondOk r [byte s.completions.length] (softReset s)).events = (softReset s).events := by
    rw [respondOk_softReset, joinOwn_events]
  refine ⟨resetRequest r s, congrArg Host.Outcome.next (requestArrives_heard resetRequest h), ?_⟩
  rw [result]
  generalize respondOk r [byte s.completions.length] (softReset s) = w at off downstream events
  have heads (h : Head) : w.head h = .initial h := head_of_initial (offLink_heads off) h
  refine ⟨fun f wire => ?_, fun wire => ?_, downstream, fun i => ?_, fun i => ⟨?_, ?_⟩, fun i => ?_, fun g => ?_, fun b => ?_,
    fun h => ?_, ?_, ?_, offLink_plans off, timer_initial (offLink_timers off), offLink_lotClock off,
    offLink_lotState off, offLink_remembered off, offLink_completions off, offLink_ticketCounter off,
    offLink_slotWanted off, getElem_of_eq_replicate (offLink_cursors off), getElem_of_eq_replicate events,
    (offLink_counters off :), (offLink_node off :), (offLink_siteGeometry off :), (offLink_deck off :),
    (offLink_nozzleTable off :), (offLink_motion off :), (offLink_lotTable off :), (offLink_binMap off :),
    (offLink_binPolicy off :), (offLink_serviceList off :), (offLink_forwarding off :), (offLink_timebase off :),
    (offLink_eventMask off :), (offLink_ownAddress off :), (offLink_tickFactors off :),
    (offLink_prescaleCount off :), (offLink_divideCount off :), (offLink_pending off :)⟩
  · obtain ⟨rfl, rfl, rfl⟩ := busy f wire
    rfl
  · obtain ⟨rfl, rfl, rfl⟩ := idle wire
    rfl
  · exact getElem_of_eq_replicate (offLink_parts off) i
  · exact getElem_of_eq_replicate (offLink_inputs off) i
  · exact getElem_of_eq_replicate (offLink_retests off) i
  · dsimp only
    rw [offLink_sockets off]
    refine (mapVec_getElem resetSocket s.siteGeometry i i.isLt).trans ?_
    show resetSocket s.siteGeometry[i] = _
    unfold resetSocket State.geometry
    split <;> rfl
  · exact getElem_of_eq_replicate (offLink_groups off) g
  · dsimp only
    rw [getElem_of_eq_replicate (offLink_bins off) b]
    exact bin_initial
  · have blank := headRecord_initial h
    rw [← heads h] at blank
    exact blank
  · exact congrArg HeadRecord.holdings (heads .west)
  · exact congrArg HeadRecord.holdings (heads .east)

end Sys2Proof.Machine
end

section
/-! PROOFS. Writing a table, entry by entry (R165). -/

namespace Sys2Proof.Machine

variable {s t : State} {α : Type} {n : Nat}

/-! ## Entries read in index order -/

theorem readEntries_of_pass {f : Nat → List Byte → Option α} : ∀ {i : Nat} {es : List (List Byte)},
    (∀ k (h : k < es.length), (f (i + k) es[k]).isSome = true) →
    ∃ xs, readEntries f i es = .ok xs ∧ xs.length = es.length ∧ ∀ k (h : k < es.length), xs[k]? = f (i + k) es[k]
  | _, [], _ => ⟨[], rfl, rfl, fun _ h => absurd h (Nat.not_lt_zero _)⟩
  | i, e :: es, pass => by
    obtain ⟨x, hx⟩ := Option.isSome_iff_exists.1 (pass 0 (Nat.zero_lt_succ _))
    obtain ⟨xs, read, len, each⟩ := readEntries_of_pass (i := i + 1) (es := es) fun k h => by
      have later := pass (k + 1) (Nat.succ_lt_succ h)
      rwa [← Nat.add_assoc, Nat.add_right_comm] at later
    refine ⟨x :: xs, ?_, congrArg Nat.succ len, fun k h => ?_⟩
    · have first : f i e = some x := hx
      simp only [readEntries, first, read]
    · cases k with
      | zero => exact hx.symm
      | succ k =>
        have later := each k (Nat.lt_of_succ_lt_succ h)
        rwa [Nat.add_right_comm, Nat.add_assoc] at later

theorem readEntries_of_fail {f : Nat → List Byte → Option α} : ∀ {i k : Nat} {es : List (List Byte)} (h : k < es.length),
    (f (i + k) es[k]).isSome = false → (∀ j (hj : j < k), (f (i + j) (es[j]'(hj.trans h))).isSome = true) →
    readEntries f i es = .error (i + k)
  | i, 0, e :: es, _, fails, _ => by
    have first : f i e = none := Option.isNone_iff_eq_none.1 (Option.isSome_eq_false_iff.1 fails)
    simp only [readEntries, first, Nat.add_zero]
  | i, k + 1, e :: es, h, fails, pass => by
    obtain ⟨x, hx⟩ := Option.isSome_iff_exists.1 (pass 0 (Nat.zero_lt_succ _))
    have first : f i e = some x := hx
    have rest : readEntries f (i + 1) es = .error (i + 1 + k) :=
      readEntries_of_fail (Nat.lt_of_succ_lt_succ h) (by rwa [Nat.add_right_comm, Nat.add_assoc]) fun j hj => by
        have later := pass (j + 1) (Nat.succ_lt_succ hj)
        rwa [← Nat.add_assoc, Nat.add_right_comm] at later
    simp only [readEntries, first, rest]
    rw [Nat.add_right_comm, Nat.add_assoc]

/-! ## Entries put into a table -/

theorem getElem?_putFrom : ∀ (xs : List α) (v : Vector α n) (i j : Nat),
    (putFrom v i xs)[j]? = if i ≤ j ∧ j < i + xs.length ∧ j < n then xs[j - i]? else v[j]?
  | [], v, i, j => by
    rw [if_neg (by simp only [List.length_nil]; omega)]
    rfl
  | x :: xs, v, i, j => by
    rw [putFrom, getElem?_putFrom xs, Vector.getElem?_setIfInBounds, List.length_cons]
    by_cases first : i = j
    · subst first
      rw [if_neg (by omega), if_pos rfl]
      by_cases inside : i < n
      · rw [if_pos inside, if_pos ⟨Nat.le_refl _, by omega, inside⟩, Nat.sub_self]
        rfl
      · rw [if_neg inside, if_neg (fun h => inside h.2.2), Vector.getElem?_eq_none (by omega)]
    · rw [if_neg first]
      by_cases within : i + 1 ≤ j ∧ j < i + 1 + xs.length ∧ j < n
      · rw [if_pos within, if_pos ⟨by omega, by omega, within.2.2⟩, show j - i = j - (i + 1) + 1 by omega,
          List.getElem?_cons_succ]
      · rw [if_neg within, if_neg (by omega)]

theorem getElem?_putFrom_inside {xs : List α} (v : Vector α n) {i k : Nat} (fits : i + xs.length ≤ n)
    (h : k < xs.length) : (putFrom v i xs)[i + k]? = xs[k]? := by
  rw [getElem?_putFrom, if_pos ⟨Nat.le_add_right _ _, by omega, by omega⟩, Nat.add_sub_cancel_left]

theorem getElem?_putFrom_outside (xs : List α) (v : Vector α n) {i j : Nat} (h : j < i ∨ i + xs.length ≤ j) :
    (putFrom v i xs)[j]? = v[j]? := by
  rw [getElem?_putFrom, if_neg (by omega)]

/-! ## The entries a request carries -/

theorem length_chunks (size : Nat) (bs : List Byte) : (chunks size bs).length = bs.length / size := by simp [chunks]

theorem getElem_chunks {size k : Nat} {bs : List Byte} (h : k < (chunks size bs).length) :
    (chunks size bs)[k] = (bs.drop (k * size)).take size := by simp [chunks]

end Sys2Proof.Machine
end

section
/-! PROOFS. What the cancelling of orders, conversions and the fill-wait timers leave: the tables, the lot state, the
counters, the watchdogs, and every socket but for its plan. -/

namespace Sys2Proof.Machine

variable {s t : State}

/-! ## The view -/

/-- A socket but for the plan that reserves it. -/
def Socket.unplanned (x : Socket) : Socket := { x with plan := none }

/-- The eleven tables and their cursors, the lot state, the counters, the watchdogs, and each socket but for its plan. -/
structure BenchView where
  node : Vector (Option Byte) 5
  siteGeometry : Vector (Option (Option SiteGeometry)) 64
  deck : Vector (Option Pos) 18
  nozzleTable : Vector (Option Offset) 8
  motion : Vector (Option Motion) 2
  lotTable : Option LotTable
  binMap : Vector (Option BinEntry) 256
  binPolicy : Vector (Option BinPolicy) 16
  serviceList : List (Fin 64)
  forwarding : Vector (Option (Option ForwardRule)) 32
  timebase : TimeBase
  cursors : Vector Nat 11
  lotState : LotState
  counters : Counters
  watchdog : Fin 64 → Timer
  socket : Fin 64 → Socket

/-- The view of a state. -/
def State.benchView (s : State) : BenchView where
  node := s.node
  siteGeometry := s.siteGeometry
  deck := s.deck
  nozzleTable := s.nozzleTable
  motion := s.motion
  lotTable := s.lotTable
  binMap := s.binMap
  binPolicy := s.binPolicy
  serviceList := s.serviceList
  forwarding := s.forwarding
  timebase := s.timebase
  cursors := s.cursors
  lotState := s.lotState
  counters := s.counters
  watchdog i := s.timer (.watchdog i)
  socket i := s.sockets[i].unplanned

theorem benchView_of_offLink (e : t.offLink = s.offLink) : t.benchView = s.benchView := by
  have view (u : State) : u.benchView = u.offLink.benchView := rfl
  rw [view t, view s, e]

theorem benchView_lotState (e : t.benchView = s.benchView) : t.lotState = s.lotState := congrArg BenchView.lotState e

theorem benchView_siteGeometry (e : t.benchView = s.benchView) : t.siteGeometry = s.siteGeometry :=
  congrArg BenchView.siteGeometry e

theorem benchView_counters (e : t.benchView = s.benchView) : t.counters = s.counters := congrArg BenchView.counters e

theorem benchView_binMap (e : t.benchView = s.benchView) : t.binMap = s.binMap := congrArg BenchView.binMap e

theorem benchView_watchdog (e : t.benchView = s.benchView) (i : Fin 64) : t.timer (.watchdog i) = s.timer (.watchdog i) :=
  congrFun (congrArg BenchView.watchdog e) i

theorem benchView_socket (e : t.benchView = s.benchView) (i : Fin 64) :
    t.sockets[i].unplanned = s.sockets[i].unplanned := congrFun (congrArg BenchView.socket e) i

theorem benchView_socketState (e : t.benchView = s.benchView) (i : Fin 64) : t.sockets[i].state = s.sockets[i].state :=
  (congrArg Socket.state (benchView_socket e i) :)

/-- R168: TABLE READ goes by the tables alone. -/
theorem readEntry_of_benchView (e : { t.benchView with socket := s.benchView.socket } = s.benchView) (y : TableId)
    (k : Nat) : readEntry y k t = readEntry y k s := by
  unfold readEntry
  rw [show t.node = s.node from congrArg BenchView.node e,
    show t.siteGeometry = s.siteGeometry from congrArg BenchView.siteGeometry e,
    show t.deck = s.deck from congrArg BenchView.deck e,
    show t.nozzleTable = s.nozzleTable from congrArg BenchView.nozzleTable e,
    show t.motion = s.motion from congrArg BenchView.motion e,
    show t.lotTable = s.lotTable from congrArg BenchView.lotTable e,
    show t.binMap = s.binMap from congrArg BenchView.binMap e,
    show t.binPolicy = s.binPolicy from congrArg BenchView.binPolicy e,
    show t.serviceList = s.serviceList from congrArg BenchView.serviceList e,
    show t.forwarding = s.forwarding from congrArg BenchView.forwarding e,
    show t.timebase = s.timebase from congrArg BenchView.timebase e]

/-- A change of the sockets' plans keeps the view. -/
theorem benchView_of_sockets {v : Vector Socket 64} (same : ∀ i : Fin 64, v[i].unplanned = s.sockets[i].unplanned) :
    ({ s with sockets := v } : State).benchView = s.benchView := by
  unfold State.benchView
  congr 1
  exact funext same

theorem foldl_benchView {α : Type} {f : State → α → State} (hf : ∀ s a, (f s a).benchView = s.benchView) :
    ∀ (l : List α) (s : State), (l.foldl f s).benchView = s.benchView
  | [], _ => rfl
  | a :: l, s => (foldl_benchView hf l (f s a)).trans (hf s a)

/-! ## Operations -/

@[simp] theorem benchView_modHead (h : Head) (f : HeadRecord → HeadRecord) (s : State) :
    (s.modHead h f).benchView = s.benchView := rfl

@[simp] theorem benchView_modTray (b : Fin 16) (y : TrayId) (f : TrayRecord → TrayRecord) (s : State) :
    (s.modTray b y f).benchView = s.benchView := rfl

@[simp] theorem benchView_modPart (k : Fin 96) (f : PartRecord → PartRecord) (s : State) :
    (s.modPart k f).benchView = s.benchView := rfl

@[simp] theorem benchView_startFill (g : Fin 16) (n : Nat) (s : State) :
    (startTimer (.fill g) n s).benchView = s.benchView := rfl

@[simp] theorem benchView_cancelFill (g : Fin 16) (s : State) : (cancelTimer (.fill g) s).benchView = s.benchView := rfl

@[simp] theorem benchView_raiseEvent (k : EventKind) (d : Nat) (s : State) :
    (raiseEvent k d s).benchView = s.benchView := benchView_of_offLink (offLink_raiseEvent _ _ _)

@[simp] theorem benchView_grantPoint (h : Head) (s : State) : (grantPoint h s).benchView = s.benchView := rfl

@[simp] theorem benchView_leaveQueue (h : Head) (tag : Nat) (s : State) : (leaveQueue h tag s).benchView = s.benchView :=
  rfl

@[simp] theorem benchView_opportunity (h : Head) (s : State) : (opportunity h s).benchView = s.benchView := by
  unfold opportunity
  split <;> rfl

@[simp] theorem benchView_opportunityBoth (s : State) : (opportunityBoth s).benchView = s.benchView := by
  simp [opportunityBoth]

@[simp] theorem benchView_opportunityServing (i : Fin 64) (s : State) :
    (opportunityServing i s).benchView = s.benchView := by
  unfold opportunityServing
  dsimp only
  split <;> split <;> simp

@[simp] theorem benchView_fillTray (b : Fin 16) (y : TrayId) (s : State) : (fillTray b y s).benchView = s.benchView := by
  unfold fillTray
  dsimp only
  split <;> simp

@[simp] theorem benchView_holePocket (b : Fin 16) (y : TrayId) (s : State) :
    (holePocket b y s).benchView = s.benchView := by simp [holePocket]

@[simp] theorem benchView_holeOf (o : Order) (s : State) : (holeOf o s).benchView = s.benchView := by
  unfold holeOf
  split <;> simp

@[simp] theorem benchView_dropPlan (p : Nat) (s : State) : (dropPlan p s).benchView = s.benchView := by
  unfold dropPlan
  dsimp only
  rw [benchView_opportunityBoth]
  exact benchView_of_sockets fun i => by simp [Socket.unplanned]

@[simp] theorem benchView_endPlan (h : Head) (plan : Option Nat) (s : State) :
    (endPlan h plan s).benchView = s.benchView := by
  unfold endPlan
  split
  · rfl
  · split <;> simp

@[simp] theorem benchView_cancelPoint (h : Head) (o : Order) (s : State) : (cancelPoint h o s).benchView = s.benchView := by
  unfold cancelPoint
  split <;> simp

@[simp] theorem benchView_cancelPending (h : Head) (o : Order) (s : State) :
    (cancelPending h o s).benchView = s.benchView := by simp [cancelPending]

@[simp] theorem benchView_cancelWhere (h : Head) (test : Order → Bool) (s : State) :
    (cancelWhere h test s).benchView = s.benchView := foldl_benchView (fun _ _ => benchView_cancelPending _ _ _) _ _

@[simp] theorem benchView_cancelCarrying (k : Fin 96) (plan : Option Nat) (s : State) :
    (cancelCarrying k plan s).benchView = s.benchView := by
  unfold cancelCarrying
  split <;> simp

@[simp] theorem benchView_carriedOpportunity (k : Fin 96) (s : State) :
    (carriedOpportunity k s).benchView = s.benchView := by
  unfold carriedOpportunity
  split
  · split <;> simp
  · rfl

/-- R80, R81: a conversion. -/
@[simp] theorem benchView_convert (k : Fin 96) (s : State) : (convert k s).benchView = s.benchView := by
  unfold convert
  split
  · dsimp only
    split
    · rw [benchView_carriedOpportunity, benchView_cancelCarrying]
      split <;> simp
    · rfl
  · rfl

@[simp] theorem benchView_reexamine (s : State) : (reexamine s).benchView = s.benchView := by
  refine foldl_benchView (fun s k => ?_) _ _
  split
  · split <;> simp
  · rfl

/-- R58: the fill-wait timer. -/
@[simp] theorem benchView_fillUpdate (g : Fin 16) (s : State) : (fillUpdate g s).benchView = s.benchView := by
  unfold fillUpdate
  split
  · split <;> simp
  · simp

/-- R59: outside RUN and DRAIN no group starts. -/
theorem benchView_updateGroupOf (i : Fin 64) (resting : s.lotState.active = false) :
    (updateGroupOf i s).benchView = s.benchView := by
  unfold updateGroupOf groupUpdate startTest
  split
  · rw [resting, Bool.false_and, Bool.false_and, if_neg Bool.false_ne_true, benchView_fillUpdate]
  · rfl

/-- R71, R40: outside RUN and DRAIN what follows an entry into OFF. -/
theorem benchView_afterOff (i : Fin 64) (resting : s.lotState.active = false) : (afterOff i s).benchView = s.benchView := by
  have view : (reexamine (opportunityServing i s)).benchView = s.benchView := by simp
  unfold afterOff
  rw [benchView_updateGroupOf i (by rw [benchView_lotState view]; exact resting), view]

/-! ## Sockets taken out of service (R40) -/

/-- R40: a socket, but for its plan, after an accepted write of SITE_GEOMETRY. -/
def fittedSocket (s : State) (i : Fin 64) : Socket :=
  if s.siteGeometry[i] = some none then { s.sockets[i].unplanned with state := .off } else s.sockets[i].unplanned

theorem fittedSocket_state (s : State) (i : Fin 64) :
    (fittedSocket s i).state = if s.siteGeometry[i] = some none then .off else s.sockets[i].state := by
  unfold fittedSocket
  split <;> rfl

theorem benchView_dropUnfitted (i : Fin 64) (resting : s.lotState.active = false) :
    (dropUnfitted s i).benchView =
      { s.benchView with socket := fun j => if j = i then fittedSocket s i else s.sockets[j].unplanned } := by
  unfold dropUnfitted
  split
  · next gone =>
    rw [benchView_afterOff i (s := s.modSocket i fun x => { x with state := .off }) resting]
    refine congrArg (fun f => { s.benchView with socket := f }) (funext fun j => ?_)
    rw [State.socket_modSocket]
    by_cases e : i = j
    · subst e
      rw [if_pos rfl, if_pos rfl, fittedSocket, if_pos gone.1]
      rfl
    · rw [if_neg e, if_neg (Ne.symm e)]
  · next stays =>
    refine congrArg (fun f => { s.benchView with socket := f }) (funext fun j => ?_)
    split
    · next e =>
      subst e
      unfold fittedSocket
      split
      · next absent =>
        have off : s.sockets[j].state = .off := Classical.byContradiction fun n => stays ⟨absent, n⟩
        rw [Socket.unplanned, off]
      · rfl
    · rfl

theorem foldl_dropUnfitted : ∀ (l : List (Fin 64)) (s : State), s.lotState.active = false →
    (l.foldl dropUnfitted s).benchView =
      { s.benchView with socket := fun j => if j ∈ l then fittedSocket s j else s.sockets[j].unplanned }
  | [], s, _ => by simp only [List.foldl_nil, List.not_mem_nil, if_false]; rfl
  | i :: l, s, resting => by
    have first := benchView_dropUnfitted i resting
    have sites : (dropUnfitted s i).siteGeometry = s.siteGeometry := congrArg BenchView.siteGeometry first
    have sockets (j : Fin 64) : (dropUnfitted s i).sockets[j].unplanned =
        if j = i then fittedSocket s i else s.sockets[j].unplanned := congrFun (congrArg BenchView.socket first) j
    have lot : (dropUnfitted s i).lotState = s.lotState := congrArg BenchView.lotState first
    rw [List.foldl_cons, foldl_dropUnfitted l _ (by rw [lot]; exact resting), first]
    refine congrArg (fun f => { s.benchView with socket := f }) (funext fun j => ?_)
    unfold fittedSocket
    rw [sites, sockets]
    by_cases e : j = i
    · subst e
      simp only [List.mem_cons, true_or, if_true, fittedSocket]
      split <;> split <;> rfl
    · simp only [List.mem_cons, e, false_or, if_false]

end Sys2Proof.Machine
end

section
/-! PROOFS. What an entry of each table must pass (R8, R40 to R46, R77, R85, R147, R167). -/

namespace Sys2Proof.Machine

variable {s : State}

/-! ## Fields -/

theorem fieldAt_one (e : List Byte) (i : Nat) : fieldAt e i 1 = (byteAt e i).toNat := by
  unfold fieldAt byteAt
  rw [List.getD_eq_getElem?_getD, ← Nat.add_zero i, ← List.getElem?_drop, Nat.add_zero]
  cases e.drop i with
  | nil => rfl
  | cons b l => exact Nat.add_zero _

theorem finOf_of_lt {n v : Nat} (h : v < n) : finOf n v = some ⟨v, h⟩ := dif_pos h

theorem finOf_of_ge {n v : Nat} (h : n ≤ v) : finOf n v = none := dif_neg (Nat.not_lt_of_le h)

theorem eq_255_iff (b : Byte) : b = 255 ↔ b.toNat = 255 := by
  rw [← BitVec.toNat_inj]
  rfl

/-! ## The location test for a head (R44, R45) -/

theorem passesHead_iff (s : State) (h : Head) (x y : Nat) :
    passesHead s h x y = true ↔ ∀ n : Fin 4, locationTest h (s.offset h n) x y = true := by
  simp [passesHead]

theorem passesBoth_iff (s : State) (x y : Nat) :
    passesBoth s x y = true ↔ ∀ (h : Head) (n : Fin 4), locationTest h (s.offset h n) x y = true := by
  unfold passesBoth
  rw [Bool.and_eq_true, passesHead_iff, passesHead_iff]
  exact ⟨fun ⟨w, e⟩ h => by cases h <;> assumption, fun a => ⟨a .west, a .east⟩⟩

theorem passesHome_iff (s : State) (g : SiteGeometry) : passesHome s g = true ↔
    ∀ h, g.home.serves h = true → ∀ n : Fin 4, locationTest h (s.offset h n) g.x g.y = true := by
  have one (h : Head) : (!g.home.serves h || passesHead s h g.x g.y) = true ↔
      (g.home.serves h = true → ∀ n : Fin 4, locationTest h (s.offset h n) g.x g.y = true) := by
    rw [Bool.or_eq_true, Bool.not_eq_true', passesHead_iff, ← Bool.not_eq_true, imp_iff_not_or]
  unfold passesHome
  rw [Bool.and_eq_true, one, one]
  exact ⟨fun ⟨w, e⟩ h => by cases h <;> assumption, fun a => ⟨a .west, a .east⟩⟩

theorem passes_siteGeometry (s : State) (i : Nat) (e : List Byte) : entryPasses .siteGeometry s i e = true ↔
    readSite e = some none ∨ ∃ g, readSite e = some (some g) ∧
      ∀ h, g.home.serves h = true → ∀ n : Fin 4, locationTest h (s.offset h n) g.x g.y = true := by
  simp only [entryPasses, checkSite]
  cases read : readSite e with
  | none => simp
  | some o =>
    cases o with
    | none => simp
    | some g =>
      simp only [Option.some.injEq, reduceCtorEq, false_or, exists_eq_left', ← passesHome_iff]
      cases passesHome s g <;> simp

theorem passes_deck (s : State) (i : Nat) (e : List Byte) : entryPasses .deck s i e = true ↔
    ∃ p, readDeck e = some p ∧ (i < 16 → ∀ (h : Head) (n : Fin 4), locationTest h (s.offset h n) p.x p.y = true) ∧
      (i = 16 → p.x / 100000 ≤ 6) ∧ (16 < i → 9 ≤ p.x / 100000 ∧ p.x / 100000 ≤ 15) := by
  simp only [entryPasses, checkDeck]
  cases readDeck e with
  | none => simp
  | some p =>
    simp only [Option.some.injEq, exists_eq_left', ← passesBoth_iff, show ∀ x, zoneOf x = x / 100000 from fun _ => rfl]
    rcases Nat.lt_trichotomy i 16 with low | rfl | high
    · rw [if_pos low]
      cases passesBoth s p.x p.y with
      | false => simp [low]
      | true =>
        simp [low]
        omega
    · by_cases west : p.x / 100000 ≤ 6 <;> simp [west]
    · rw [if_neg (by omega), if_neg (by omega)]
      by_cases east : 9 ≤ p.x / 100000 ∧ p.x / 100000 ≤ 15
      · simp [east]
        omega
      · simp [east, high]

/-! ## NOZZLE (R46) -/

theorem geometry_some_iff (s : State) (i : Fin 64) (g : SiteGeometry) :
    s.geometry i = some g ↔ s.siteGeometry[i] = some (some g) := Option.join_eq_some_iff

theorem mem_recheckedCorners (s : State) (p : Pos) : p ∈ recheckedCorners s ↔
    ∃ (b : Fin 16) (y : TrayId) (g : TrayGeometry), (s.bins[b].tray y).geometry = some g ∧
      (s.bins[b].tray y).state ∈ [TrayState.ready, .active, .closing] ∧ p ∈ g.corners := by
  have corner (t : TrayRecord) : p ∈ (if t.rechecked then (t.geometry.map TrayGeometry.corners).getD [] else []) ↔
      ∃ g, t.geometry = some g ∧ t.state ∈ [TrayState.ready, .active, .closing] ∧ p ∈ g.corners := by
    unfold TrayRecord.rechecked
    cases t.geometry <;> cases t.state <;> simp
  unfold recheckedCorners
  simp only [List.mem_flatMap, corner]
  constructor
  · rintro ⟨t, ⟨b, hb, ht⟩, g, geometry, state, corners⟩
    obtain ⟨i, hi, rfl⟩ := Vector.mem_iff_getElem.1 (Vector.mem_toList_iff.1 hb)
    simp only [List.mem_cons, List.not_mem_nil, or_false] at ht
    obtain rfl | rfl := ht
    · exact ⟨⟨i, hi⟩, .a, g, geometry, state, corners⟩
    · exact ⟨⟨i, hi⟩, .b, g, geometry, state, corners⟩
  · rintro ⟨b, y, g, geometry, state, corners⟩
    refine ⟨s.bins[b].tray y, ⟨s.bins[b], Vector.mem_toList_iff.2 (Vector.getElem_mem _), ?_⟩, g, geometry, state, corners⟩
    cases y
    · exact List.mem_cons_self ..
    · exact List.mem_cons_of_mem _ (List.mem_cons_self ..)

theorem mem_take_deck (s : State) (e : Option Pos) :
    e ∈ s.deck.toList.take 16 ↔ ∃ j : Fin 18, j.val < 16 ∧ s.deck[j] = e := by
  rw [List.mem_take_iff_getElem]
  constructor
  · rintro ⟨j, hj, rfl⟩
    have small : j < 16 := by omega
    exact ⟨⟨j, by omega⟩, small, by simp⟩
  · rintro ⟨j, small, rfl⟩
    exact ⟨j, by simp only [Vector.length_toList]; omega, by simp⟩

theorem recheckNozzle_iff (s : State) (h : Head) (o : Offset) : recheckNozzle s h o = true ↔
    (∀ (j : Fin 64) (g : SiteGeometry), s.siteGeometry[j] = some (some g) → g.home.serves h = true →
      locationTest h o g.x g.y = true) ∧
    (∀ (j : Fin 18) (p : Pos), j.val < 16 → s.deck[j] = some p → locationTest h o p.x p.y = true) ∧
    ∀ (b : Fin 16) (y : TrayId) (g : TrayGeometry), (s.bins[b].tray y).geometry = some g →
      (s.bins[b].tray y).state ∈ [TrayState.ready, .active, .closing] →
      ∀ p ∈ g.corners, locationTest h o p.x p.y = true := by
  unfold recheckNozzle
  rw [Bool.and_eq_true, Bool.and_eq_true, List.all_eq_true, List.all_eq_true, List.all_eq_true, and_assoc]
  refine and_congr ⟨fun a j g fitted serves => ?_, fun a j _ => ?_⟩
    (and_congr ⟨fun a j p slot written => ?_, fun a e he => ?_⟩ ⟨fun a b y g geometry state p corner => ?_, fun a p hp => ?_⟩)
  · have pass := a j (List.mem_finRange j)
    rw [(geometry_some_iff s j g).2 fitted] at pass
    simpa [serves] using pass
  · cases fitted : s.geometry j with
    | none => rfl
    | some g =>
      have pass := a j g ((geometry_some_iff s j g).1 fitted)
      cases serves : g.home.serves h with
      | false => simp [serves]
      | true => simp [serves, pass serves]
  · exact a (some p) ((mem_take_deck s _).2 ⟨j, slot, written⟩)
  · obtain ⟨j, slot, rfl⟩ := (mem_take_deck s _).1 he
    cases written : s.deck[j] with
    | none => rfl
    | some p => exact a j p slot written
  · exact a p ((mem_recheckedCorners s p).2 ⟨b, y, g, geometry, state, corner⟩)
  · obtain ⟨b, y, g, geometry, state, corner⟩ := (mem_recheckedCorners s p).1 hp
    exact a b y g geometry state p corner

theorem passes_nozzle (s : State) (i : Nat) (e : List Byte) : entryPasses .nozzle s i e = true ↔
    ∃ o, readOffset e = some o ∧ recheckNozzle s (if i < 4 then .west else .east) o = true := by
  simp only [entryPasses, checkNozzle]
  cases readOffset e with
  | none => simp
  | some o =>
    simp only [Option.some.injEq, exists_eq_left']
    cases recheckNozzle s (if i < 4 then .west else .east) o <;> simp

/-! ## The tables tested by their ranges alone -/

theorem passes_motion (s : State) (i : Nat) (e : List Byte) : entryPasses .motion s i e = true ↔
    50 ≤ fieldAt e 0 2 ∧ fieldAt e 0 2 ≤ 5000 ∧ 50 ≤ fieldAt e 2 2 ∧ fieldAt e 2 2 ≤ 5000 ∧ fieldAt e 4 2 ≤ 2000 ∧
      fieldAt e 6 2 ≤ 2000 ∧ fieldAt e 8 2 ≤ 2000 := by
  simp only [entryPasses, readMotion]
  split
  · next h => simpa using h
  · next h => simpa using h

theorem passes_lot (s : State) (i : Nat) (e : List Byte) : entryPasses .lot s i e = true ↔
    fieldAt e 0 4 ≤ 600000 ∧ fieldAt e 4 2 ≤ 60000 ∧ 100 ≤ fieldAt e 6 4 ∧ fieldAt e 6 4 ≤ 600000 ∧ fieldAt e 11 1 ≤ 2 ∧
      fieldAt e 12 1 ≤ 1 ∧ fieldAt e 13 1 ≤ 15 ∧ fieldAt e 14 1 ≤ 15 ∧ fieldAt e 15 1 ≤ 1 ∧ fieldAt e 16 2 ≤ 10000 := by
  simp only [entryPasses, readLot]
  rcases Nat.lt_or_ge (fieldAt e 13 1) 16 with held | beyond
  · rw [finOf_of_lt held]
    dsimp only
    split <;> simp only [Option.isSome_some, Option.isSome_none, true_iff, false_iff, Bool.false_eq_true] <;> omega
  · rw [finOf_of_ge beyond]
    simp only [Option.isSome_none, false_iff, Bool.false_eq_true]
    omega

theorem passes_binMap (s : State) (i : Nat) (e : List Byte) : entryPasses .binMap s i e = true ↔
    fieldAt e 0 1 = 3 ∨ fieldAt e 0 1 ≤ 2 ∧ fieldAt e 1 1 ≤ 15 ∧ fieldAt e 2 1 ≤ 15 := by
  simp only [entryPasses, readBinEntry]
  by_cases unmapped : fieldAt e 0 1 = 3
  · simp [unmapped]
  · rw [if_neg unmapped]
    rcases Nat.lt_or_ge (fieldAt e 1 1) 16 with bin | beyond
    · rcases Nat.lt_or_ge (fieldAt e 2 1) 16 with final | beyond
      · rw [finOf_of_lt bin, finOf_of_lt final]
        dsimp only
        split_ifs <;> simp only [Option.isSome_some, Option.isSome_none, true_iff, false_iff, Bool.false_eq_true] <;> omega
      · rw [finOf_of_lt bin, finOf_of_ge beyond]
        simp only [Option.isSome_none, false_iff, Bool.false_eq_true]
        omega
    · rw [finOf_of_ge beyond]
      simp only [Option.isSome_none, false_iff, Bool.false_eq_true]
      omega

theorem passes_binPolicy (s : State) (i : Nat) (e : List Byte) : entryPasses .binPolicy s i e = true ↔
    fieldAt e 0 1 ≤ 1 ∧ fieldAt e 1 1 ≤ 15 ∧ (fieldAt e 0 1 = 1 → fieldAt e 1 1 ≠ i) := by
  simp only [entryPasses, readPolicy]
  rcases Nat.lt_or_ge (fieldAt e 1 1) 16 with bin | beyond
  · rw [finOf_of_lt bin]
    dsimp only
    split_ifs <;> simp only [Option.isSome_some, Option.isSome_none, true_iff, false_iff, Bool.false_eq_true] <;> omega
  · rw [finOf_of_ge beyond]
    simp only [Option.isSome_none, false_iff, Bool.false_eq_true]
    omega

theorem readMatch_isSome (limit : Nat) (e : List Byte) (i : Nat) :
    (readMatch limit (byteAt e i)).isSome = true ↔ fieldAt e i 1 ≤ limit ∨ fieldAt e i 1 = 255 := by
  unfold readMatch
  rw [fieldAt_one, ← eq_255_iff]
  split_ifs <;> simp_all

theorem passes_forwarding (s : State) (i : Nat) (e : List Byte) : entryPasses .forwarding s i e = true ↔
    (readFlag (byteAt e 0) = true → (fieldAt e 1 1 ≤ 30 ∨ fieldAt e 1 1 = 255) ∧
      (fieldAt e 2 1 ≤ 31 ∨ fieldAt e 2 1 = 255) ∧ fieldAt e 5 1 ≤ 2 ∧ fieldAt e 6 1 ≤ 2) := by
  simp only [entryPasses, readForward, ← readMatch_isSome]
  cases readFlag (byteAt e 0) with
  | false => simp
  | true =>
    cases readMatch 30 (byteAt e 1) with
    | none => simp
    | some a =>
      cases readMatch 31 (byteAt e 2) with
      | none => simp
      | some b =>
        simp only [if_true]
        split_ifs with h <;> simp [h]

theorem passes_timebase (s : State) (i : Nat) (e : List Byte) :
    entryPasses .timebase s i e = true ↔ 1 ≤ fieldAt e 0 2 ∧ 1 ≤ fieldAt e 2 2 := by
  simp only [entryPasses, readTimeBase]
  split
  · next h => simpa using h
  · next h => simpa using h

end Sys2Proof.Machine
end

section
/-! PROOFS. TABLE WRITE of a table other than SERVICE_LIST: O50. -/

namespace Sys2Proof.Machine

variable {s u : State} {α : Type} {n : Nat}

/-! ## What an accepted write leaves -/

/-- R165: the table `t` of `s` as it stands in `u` after a write of the entries from `start` on. -/
structure Wrote (t : TableId) (start : Nat) (es : List (List Byte)) (s u : State) : Prop where
  holds : ∀ k (h : k < es.length), u.holdsEntry t (start + k) es[k]
  outside : ∀ k, k < t.size → k < start ∨ start + es.length ≤ k → readEntry t k u = readEntry t k s
  others : ∀ y k, y ≠ t → readEntry y k u = readEntry y k s
  cursors : u.cursors = s.cursors
  rest : t ≠ .siteGeometry → u.offTables = s.offTables
  sockets : t = .siteGeometry → ∀ i : Fin 64, (u.siteGeometry[i] = some none → u.sockets[i].state = .off) ∧
    (u.siteGeometry[i] ≠ some none → u.sockets[i].state = s.sockets[i].state)

theorem getElem?_putFrom_map_some {xs : List α} {es : List (List Byte)} {f : Nat → List Byte → Option α} {start k : Nat}
    (v : Vector (Option α) n) (fits : start + es.length ≤ n) (len : xs.length = es.length) (h : k < es.length)
    (each : xs[k]? = f (start + k) es[k]) : (putFrom v start (xs.map some))[start + k]? = some (f (start + k) es[k]) := by
  have inside : k < xs.length := by omega
  rw [getElem?_putFrom_inside v (by rw [List.length_map, len]; exact fits) (by rw [List.length_map]; exact inside), ← each,
    List.getElem?_map, List.getElem?_eq_getElem inside]
  rfl

theorem getElem?_putFrom_map_some_outside {β : Type} {xs : List α} {es : List β} {start k : Nat} (v : Vector (Option α) n)
    (len : xs.length = es.length) (out : k < start ∨ start + es.length ≤ k) :
    (putFrom v start (xs.map some))[k]? = v[k]? :=
  getElem?_putFrom_outside _ v (by rw [List.length_map, len]; exact out)

/-- A table kept as a vector of entries, after a write: `put` sets the table, `shown` is what TABLE READ shows of an entry,
and `read` reads one. -/
theorem wrote_put {t : TableId} (put : Vector (Option α) n → State) {old : Vector (Option α) n}
    (shown : Option (Option α) → List Byte) {read : Nat → List Byte → Option α} {start : Nat} {es : List (List Byte)}
    {xs : List α} (notSite : t ≠ .siteGeometry) (holds : ∀ v i e, v[i]? = some (read i e) → (put v).holdsEntry t i e)
    (shows : ∀ v k, readEntry t k (put v) = shown v[k]?) (before : ∀ k, readEntry t k s = shown old[k]?)
    (others : ∀ v y k, y ≠ t → readEntry y k (put v) = readEntry y k s) (cursors : ∀ v, (put v).cursors = s.cursors)
    (rest : ∀ v, (put v).offTables = s.offTables) (fits : start + es.length ≤ n) (len : xs.length = es.length)
    (each : ∀ k (h : k < es.length), xs[k]? = read (start + k) es[k]) :
    Wrote t start es s (put (putFrom old start (xs.map some))) where
  holds k h := holds _ _ _ (getElem?_putFrom_map_some old fits len h (each k h))
  outside k _ out := by rw [shows, before, getElem?_putFrom_map_some_outside old len out]
  others := others _
  cursors := cursors _
  rest _ := rest _
  sockets e := absurd e notSite

/-! ## Tests that read an entry -/

theorem checkSite_eq {e : List Byte} (h : (checkSite s e).isSome = true) : checkSite s e = readSite e := by
  unfold checkSite at h ⊢
  cases read : readSite e with
  | none => rfl
  | some o =>
    cases o with
    | none => rfl
    | some g =>
      rw [read] at h
      dsimp only at h ⊢
      split at h
      · next pass => exact if_pos pass
      · exact absurd h Bool.false_ne_true

theorem checkDeck_eq {i : Nat} {e : List Byte} (h : (checkDeck s i e).isSome = true) : checkDeck s i e = readDeck e := by
  unfold checkDeck at h ⊢
  cases read : readDeck e with
  | none => rfl
  | some p =>
    rw [read] at h
    dsimp only at h ⊢
    split_ifs at h ⊢ <;> simp_all

theorem checkNozzle_eq {i : Nat} {e : List Byte} (h : (checkNozzle s i e).isSome = true) :
    checkNozzle s i e = readOffset e := by
  unfold checkNozzle at h ⊢
  cases read : readOffset e with
  | none => rfl
  | some o =>
    rw [read] at h
    dsimp only at h ⊢
    split_ifs at h ⊢ <;> simp_all

/-! ## The writes (R165) -/

/-- R45, R77: a first entry that fails its test names its index. -/
theorem writeTable_fail {t : TableId} {start k : Nat} {es : List (List Byte)} (h : k < es.length)
    (fails : entryPasses t s (start + k) es[k] = false)
    (pass : ∀ j (hj : j < k), entryPasses t s (start + j) (es[j]'(hj.trans h)) = true) :
    writeTable t start es s = .error (start + k) := by
  cases t
  case node => cases fails
  case serviceList => cases fails
  case siteGeometry => exact congrArg (Except.map _) (readEntries_of_fail (f := fun _ => checkSite s) h fails pass)
  case deck => exact congrArg (Except.map _) (readEntries_of_fail (f := checkDeck s) h fails pass)
  case nozzle => exact congrArg (Except.map _) (readEntries_of_fail (f := checkNozzle s) h fails pass)
  case motion => exact congrArg (Except.map _) (readEntries_of_fail (f := fun _ => readMotion) h fails pass)
  case lot => exact congrArg (Except.map _) (readEntries_of_fail (f := fun _ => readLot) h fails pass)
  case binMap => exact congrArg (Except.map _) (readEntries_of_fail (f := fun _ => readBinEntry) h fails pass)
  case binPolicy => exact congrArg (Except.map _) (readEntries_of_fail (f := readPolicy) h fails pass)
  case forwarding => exact congrArg (Except.map _) (readEntries_of_fail (f := fun _ => readForward) h fails pass)
  case timebase => exact congrArg (Except.map _) (readEntries_of_fail (f := fun _ => readTimeBase) h fails pass)

theorem writeTable_siteGeometry {start : Nat} {es : List (List Byte)} (resting : s.lotState.active = false)
    (fits : start + es.length ≤ 64) (pass : ∀ k (h : k < es.length), entryPasses .siteGeometry s (start + k) es[k] = true) :
    ∃ u, writeTable .siteGeometry start es s = .ok u ∧ Wrote .siteGeometry start es s u := by
  obtain ⟨xs, read, len, each⟩ := readEntries_of_pass (i := start) (f := fun _ => checkSite s) pass
  have view := foldl_dropUnfitted (List.finRange 64)
    { s with siteGeometry := putFrom s.siteGeometry start (xs.map some) } resting
  simp only [List.mem_finRange, if_true] at view
  refine ⟨(List.finRange 64).foldl dropUnfitted { s with siteGeometry := putFrom s.siteGeometry start (xs.map some) },
    congrArg (Except.map _) read, ?_⟩
  generalize (List.finRange 64).foldl dropUnfitted
    { s with siteGeometry := putFrom s.siteGeometry start (xs.map some) } = u at view
  have sites : u.siteGeometry = putFrom s.siteGeometry start (xs.map some) := congrArg BenchView.siteGeometry view
  have states (i : Fin 64) : u.sockets[i].state =
      if u.siteGeometry[i] = some none then .off else s.sockets[i].state := by
    rw [sites]
    exact (congrArg Socket.state (congrFun (congrArg BenchView.socket view) i)).trans (fittedSocket_state _ i)
  refine ⟨fun k h => ?_, fun k _ out => ?_, fun y k ne => ?_, congrArg BenchView.cursors view, fun ne => absurd rfl ne,
    fun _ i => ⟨fun gone => ?_, fun stays => ?_⟩⟩
  · show u.siteGeometry[start + k]? = _
    rw [sites, getElem?_putFrom_map_some (f := fun _ => checkSite s) _ fits len h (each k h), checkSite_eq (pass k h)]
  · unfold readEntry
    rw [sites, getElem?_putFrom_map_some_outside _ len out]
  · have same : readEntry y k u = readEntry y k { s with siteGeometry := putFrom s.siteGeometry start (xs.map some) } :=
      readEntry_of_benchView (congrArg (fun v : BenchView => { v with socket := fun i => s.sockets[i].unplanned }) view) y k
    rw [same]
    cases y
    case siteGeometry => exact absurd rfl ne
    all_goals rfl
  · rw [states, if_pos gone]
  · rw [states, if_neg stays]

/-- R165: a write of entries that all pass is taken. -/
theorem writeTable_pass {t : TableId} {start : Nat} {es : List (List Byte)} (notNode : t ≠ .node)
    (notList : t ≠ .serviceList) (resting : t = .siteGeometry → s.lotState.active = false) (some' : 0 < es.length)
    (fits : start + es.length ≤ t.size) (pass : ∀ k (h : k < es.length), entryPasses t s (start + k) es[k] = true) :
    ∃ u, writeTable t start es s = .ok u ∧ Wrote t start es s u := by
  cases t
  case node => exact absurd rfl notNode
  case serviceList => exact absurd rfl notList
  case siteGeometry => exact writeTable_siteGeometry (resting rfl) fits pass
  case deck =>
    obtain ⟨xs, read, len, each⟩ := readEntries_of_pass (i := start) (f := checkDeck s) pass
    refine ⟨_, congrArg (Except.map _) read, wrote_put (fun v => { s with deck := v })
      (fun e => flagByte e.join.isSome :: posBytes e.join) TableId.noConfusion (fun _ _ _ => id) (fun _ _ => rfl)
      (fun _ => rfl) (fun _ y _ ne => ?_) (fun _ => rfl) (fun _ => rfl) fits len fun k h => (each k h).trans (checkDeck_eq (pass k h))⟩
    cases y
    case deck => exact absurd rfl ne
    all_goals rfl
  case nozzle =>
    obtain ⟨xs, read, len, each⟩ := readEntries_of_pass (i := start) (f := checkNozzle s) pass
    refine ⟨_, congrArg (Except.map _) read, wrote_put (fun v => { s with nozzleTable := v })
      (fun e => flagByte e.join.isSome :: offsetBytes e.join) TableId.noConfusion (fun _ _ _ => id) (fun _ _ => rfl)
      (fun _ => rfl) (fun _ y _ ne => ?_) (fun _ => rfl) (fun _ => rfl) fits len fun k h => (each k h).trans (checkNozzle_eq (pass k h))⟩
    cases y
    case nozzle => exact absurd rfl ne
    all_goals rfl
  case motion =>
    obtain ⟨xs, read, len, each⟩ := readEntries_of_pass (i := start) (f := fun _ => readMotion) pass
    refine ⟨_, congrArg (Except.map _) read, wrote_put (fun v => { s with motion := v })
      (fun e => flagByte e.join.isSome :: motionBytes e.join) TableId.noConfusion (fun _ _ _ => id) (fun _ _ => rfl)
      (fun _ => rfl) (fun _ y _ ne => ?_) (fun _ => rfl) (fun _ => rfl) fits len each⟩
    cases y
    case motion => exact absurd rfl ne
    all_goals rfl
  case binMap =>
    obtain ⟨xs, read, len, each⟩ := readEntries_of_pass (i := start) (f := fun _ => readBinEntry) pass
    refine ⟨_, congrArg (Except.map _) read, fun k h => ?_, fun k _ out => ?_, fun y k ne => ?_, rfl,
      fun _ => rfl, fun e => nomatch e⟩
    · exact (getElem?_putFrom_inside s.binMap (by rw [len]; exact fits) (by rw [len]; exact h)).trans (each k h)
    · simp only [readEntry, getElem?_putFrom_outside xs s.binMap (by rw [len]; exact out)]
    · cases y
      case binMap => exact absurd rfl ne
      all_goals rfl
  case binPolicy =>
    obtain ⟨xs, read, len, each⟩ := readEntries_of_pass (i := start) (f := readPolicy) pass
    refine ⟨_, congrArg (Except.map _) read, wrote_put (fun v => { s with binPolicy := v })
      (fun e => flagByte e.join.isSome :: policyBytes e.join) TableId.noConfusion (fun _ _ _ => id) (fun _ _ => rfl)
      (fun _ => rfl) (fun _ y _ ne => ?_) (fun _ => rfl) (fun _ => rfl) fits len each⟩
    cases y
    case binPolicy => exact absurd rfl ne
    all_goals rfl
  case forwarding =>
    obtain ⟨xs, read, len, each⟩ := readEntries_of_pass (i := start) (f := fun _ => readForward) pass
    refine ⟨_, congrArg (Except.map _) read, wrote_put (fun v => { s with forwarding := v })
      (fun e => flagByte e.join.isSome :: forwardBytes e.join) TableId.noConfusion (fun _ _ _ => id) (fun _ _ => rfl)
      (fun _ => rfl) (fun _ y _ ne => ?_) (fun _ => rfl) (fun _ => rfl) fits len each⟩
    cases y
    case forwarding => exact absurd rfl ne
    all_goals rfl
  case lot =>
    obtain ⟨e, rfl⟩ : ∃ e, es = [e] := List.length_eq_one_iff.1 (by simp only [TableId.size] at fits; omega)
    obtain ⟨x, hx⟩ := Option.isSome_iff_exists.1 (pass 0 Nat.one_pos)
    have first : readLot e = some x := hx
    have read : readEntries (fun _ => readLot) start [e] = .ok [x] := by simp only [readEntries, first]
    refine ⟨_, congrArg (Except.map _) read, fun k h => ?_,
      fun k low out => ?_, fun y k ne => ?_, rfl, fun _ => rfl, fun e => nomatch e⟩
    · obtain rfl : k = 0 := by simpa using h
      exact first.symm
    · simp only [TableId.size, List.length_singleton] at fits low out
      omega
    · cases y
      case lot => exact absurd rfl ne
      all_goals rfl
  case timebase =>
    obtain ⟨e, rfl⟩ : ∃ e, es = [e] := List.length_eq_one_iff.1 (by simp only [TableId.size] at fits; omega)
    obtain ⟨x, hx⟩ := Option.isSome_iff_exists.1 (pass 0 Nat.one_pos)
    have first : readTimeBase e = some x := hx
    have read : readEntries (fun _ => readTimeBase) start [e] = .ok [x] := by simp only [readEntries, first]
    refine ⟨_, congrArg (Except.map _) read,
      fun k h => ?_, fun k low out => ?_, fun y k ne => ?_, rfl, fun _ => rfl, fun e => nomatch e⟩
    · obtain rfl : k = 0 := by simpa using h
      exact first.symm
    · simp only [TableId.size, List.length_singleton] at fits low out
      omega
    · cases y
      case timebase => exact absurd rfl ne
      all_goals rfl

end Sys2Proof.Machine
end

section
/-! PROOFS. NODE as a whole, and TABLE WRITE in the manual's order of checks: O50. -/

namespace Sys2Proof.Machine

variable {s u : State} {r : Request} {t : TableId}

/-! ## The first index that meets a test -/

theorem find?_finRange_some {n : Nat} {p : Fin n → Bool} {i : Fin n} (h : (List.finRange n).find? p = some i) :
    p i = true ∧ ∀ j, j < i → p j = false := by
  obtain ⟨hit, k, hk, at_k, before⟩ := List.find?_eq_some_iff_getElem.1 h
  rw [List.getElem_finRange] at at_k
  refine ⟨hit, fun j hj => ?_⟩
  have low : j.val < k := by
    rw [← at_k] at hj
    exact hj
  have miss := before j.val low
  rw [List.getElem_finRange] at miss
  exact Bool.not_eq_true' _ ▸ miss

/-! ## NODE (R4) -/

/-- R4: what the NODE table would hold offends at an index. -/
def NodeOffends (s : State) (nodeAt : Nat → Option Byte) (lo hi i : Nat) : Prop :=
  (∃ j a, j < i ∧ nodeAt j = some a ∧ nodeAt i = some a) ∨
    lo ≤ i ∧ i < hi ∧ ∃ a, nodeAt i = some a ∧ (30 < a.toNat ∨ s.ownAddress = some a)

theorem nodeOffends_iff {table : Vector (Option Byte) 5} {nodeAt : Nat → Option Byte}
    (stands : ∀ i : Fin 5, table[i] = nodeAt i) (lo hi : Nat) (i : Fin 5) :
    nodeOffends s table lo hi i = true ↔ NodeOffends s nodeAt lo hi i := by
  unfold nodeOffends NodeOffends
  rw [stands]
  cases written : nodeAt i with
  | none => simp
  | some a =>
    have earlier : ((List.finRange 5).any fun j => decide (j < i) && table[j] == some a) = true ↔
        ∃ j, j < i.val ∧ nodeAt j = some a := by
      simp only [List.any_eq_true, List.mem_finRange, true_and, Bool.and_eq_true, decide_eq_true_eq, beq_iff_eq, stands]
      exact ⟨fun ⟨j, before, same⟩ => ⟨j, before, same⟩, fun ⟨j, before, same⟩ => ⟨⟨j, by omega⟩, before, same⟩⟩
    dsimp only
    rw [Bool.or_eq_true, earlier, Bool.and_eq_true, Bool.or_eq_true, decide_eq_true_eq, decide_eq_true_eq, beq_iff_eq,
      and_assoc, or_comm (a := s.ownAddress = some a)]
    simp

/-- R4, log 17: no address twice, and no new one that is barred, says that nothing offends. -/
theorem nodeLawful_iff {nodeAt : Nat → Option Byte} {new : Nat → Byte} {lo n : Nat} (fits : lo + n ≤ 5)
    (news : ∀ k, k < n → nodeAt (lo + k) = some (new k)) :
    ((∀ i j a, i < 5 → j < 5 → i ≠ j → nodeAt i = some a → nodeAt j ≠ some a) ∧
      ∀ k, k < n → (new k).toNat ≤ 30 ∧ s.ownAddress ≠ some (new k)) ↔
    ∀ i, i < 5 → ¬ NodeOffends s nodeAt lo (lo + n) i := by
  constructor
  · rintro ⟨different, allowed⟩ i hi (⟨j, a, before, atj, ati⟩ | ⟨low, high, a, ati, barred⟩)
    · exact different i j a hi (by omega) (by omega) ati atj
    · obtain ⟨k, rfl⟩ := Nat.exists_eq_add_of_le low
      obtain rfl : new k = a := Option.some.inj ((news k (by omega)).symm.trans ati)
      obtain ⟨small, notOwn⟩ := allowed k (by omega)
      exact barred.elim (Nat.not_lt_of_le small) notOwn
  · refine fun clean => ⟨fun i j a hi hj ne ati atj => ?_, fun k hk => ⟨?_, fun own => ?_⟩⟩
    · rcases Nat.lt_or_gt_of_ne ne with before | after
      · exact clean j hj (.inl ⟨i, a, before, ati, atj⟩)
      · exact clean i hi (.inl ⟨j, a, after, atj, ati⟩)
    · exact Nat.le_of_not_lt fun big =>
        clean (lo + k) (by omega) (.inr ⟨Nat.le_add_right _ _, by omega, new k, news k hk, .inl big⟩)
    · exact clean (lo + k) (by omega) (.inr ⟨Nat.le_add_right _ _, by omega, new k, news k hk, .inr own⟩)

/-- R4: the NODE table as it would stand after a write. -/
def nodeAfter (s : State) (start : Nat) (es : List (List Byte)) : Vector (Option Byte) 5 :=
  putFrom s.node start (es.map fun e => some (byteAt e 0))

theorem nodeAfter_inside {start k : Nat} {es : List (List Byte)} (fits : start + es.length ≤ 5) (h : k < es.length) :
    (nodeAfter s start es)[start + k]? = some (some (byteAt es[k] 0)) := by
  unfold nodeAfter
  rw [getElem?_putFrom_inside _ (by rw [List.length_map]; exact fits) (by rw [List.length_map]; exact h),
    List.getElem?_map, List.getElem?_eq_getElem h]
  rfl

theorem nodeAfter_outside {start k : Nat} {es : List (List Byte)} (out : k < start ∨ start + es.length ≤ k) :
    (nodeAfter s start es)[k]? = s.node[k]? :=
  getElem?_putFrom_outside _ _ (by rw [List.length_map]; exact out)

theorem writeTable_node_fail {start : Nat} {es : List (List Byte)} {i : Fin 5}
    (h : ((List.finRange 5).find? fun i => nodeOffends s (nodeAfter s start es) start (start + es.length) i) = some i) :
    writeTable .node start es s = .error i := by
  unfold nodeAfter at h
  simp only [writeTable, h]

theorem writeTable_node_pass {start : Nat} {es : List (List Byte)} (fits : start + es.length ≤ 5)
    (h : ((List.finRange 5).find? fun i => nodeOffends s (nodeAfter s start es) start (start + es.length) i) = none) :
    ∃ u, writeTable .node start es s = .ok u ∧ Wrote .node start es s u := by
  have taken : writeTable .node start es s = .ok { s with node := nodeAfter s start es } := by
    unfold nodeAfter at h ⊢
    simp only [writeTable, h]
  refine ⟨_, taken, fun k h => nodeAfter_inside fits h, fun k _ out => ?_, fun y k ne => ?_, rfl, fun _ => rfl,
    fun e => nomatch e⟩
  · simp only [readEntry, nodeAfter_outside out]
  · cases y
    case node => exact absurd rfl ne
    all_goals rfl

/-- R4: what the NODE table would hold, entry by entry. -/
theorem nodeAfter_stands {start : Nat} {es : List (List Byte)} {nodeAt : Nat → Option Byte}
    (fits : start + es.length ≤ 5) (news : ∀ k (h : k < es.length), nodeAt (start + k) = some (byteAt es[k] 0))
    (olds : ∀ i, ¬ (start ≤ i ∧ i < start + es.length) → nodeAt i = s.node[i]?.join) (i : Fin 5) :
    (nodeAfter s start es)[i] = nodeAt i := by
  refine Option.some.inj ((Vector.getElem?_eq_getElem i.isLt).symm.trans ?_)
  by_cases new : start ≤ i.val ∧ i.val < start + es.length
  · obtain ⟨k, at_k⟩ := Nat.exists_eq_add_of_le new.1
    have inside : k < es.length := by omega
    rw [at_k, nodeAfter_inside fits inside, news k inside]
  · rw [nodeAfter_outside (by omega), olds i new, Vector.getElem?_eq_getElem i.isLt]
    rfl

/-- R4, log 17: a write of NODE is taken when nothing offends, else refused with the lowest offending index. -/
theorem writeTable_node_decides {start : Nat} {es : List (List Byte)} {nodeAt : Nat → Option Byte}
    (fits : start + es.length ≤ 5) (stands : ∀ i : Fin 5, (nodeAfter s start es)[i] = nodeAt i) :
    ((∀ i, i < 5 → ¬ NodeOffends s nodeAt start (start + es.length) i) ∧
      ∃ u, writeTable .node start es s = .ok u ∧ Wrote .node start es s u) ∨
    ∃ i, i < 5 ∧ NodeOffends s nodeAt start (start + es.length) i ∧
      (∀ j, j < i → ¬ NodeOffends s nodeAt start (start + es.length) j) ∧ writeTable .node start es s = .error i := by
  have offends (i : Fin 5) := nodeOffends_iff (s := s) stands start (start + es.length) i
  cases found : (List.finRange 5).find? fun i => nodeOffends s (nodeAfter s start es) start (start + es.length) i with
  | none =>
    exact .inl ⟨fun i hi off => List.find?_eq_none.1 found ⟨i, hi⟩ (List.mem_finRange _) ((offends ⟨i, hi⟩).2 off),
      writeTable_node_pass fits found⟩
  | some i =>
    obtain ⟨hit, before⟩ := find?_finRange_some found
    refine .inr ⟨i, i.isLt, (offends i).1 hit, fun j hj bad => ?_, writeTable_node_fail found⟩
    exact absurd ((offends ⟨j, hj.trans i.isLt⟩).2 bad) (Bool.eq_false_iff.1 (before ⟨j, hj.trans i.isLt⟩ hj))

/-! ## The request (R165) -/

theorem exec_tableWrite (h : s.hears r = true) (fits : tableWriteFits r.fields = true) (outside : s.lotState ≠ .bypass) :
    exec (.tableWrite r) s = .next (writeRequest r s) := by
  refine (congrArg Host.Outcome.next (requestArrives_heard tableWriteRequest h)).trans (congrArg Host.Outcome.next ?_)
  unfold tableWriteRequest takeRequest
  rw [if_pos fits, if_pos (by simpa [LotState.open] using outside)]

/-- R165: the entries a TABLE WRITE carries. -/
def carriedEntries (t : TableId) (fields : List Byte) : List (List Byte) := chunks t.entryBytes (fields.drop 4)

theorem length_carriedEntries (t : TableId) (fields : List Byte) :
    (carriedEntries t fields).length = (fields.length - 4) / t.entryBytes := by
  rw [carriedEntries, length_chunks, List.length_drop]

theorem getElem_carriedEntries {fields : List Byte} {k : Nat} (h : k < (carriedEntries t fields).length) :
    (carriedEntries t fields)[k] = (fields.drop (4 + k * t.entryBytes)).take t.entryBytes := by
  unfold carriedEntries at h ⊢
  rw [getElem_chunks h, List.drop_drop]

theorem carriedEntries_pos {fields : List Byte} (fits : tableWriteFits fields = true)
    (table : TableId.ofNum (fieldAt fields 0 1) = some t) (notList : t ≠ .serviceList) :
    0 < (carriedEntries t fields).length := by
  rw [length_carriedEntries]
  refine Nat.div_pos ?_ (entryBytes_pos t)
  unfold tableWriteFits at fits
  rw [table] at fits
  simpa [notList] using (Bool.and_eq_true_iff.1 (Bool.and_eq_true_iff.1 fits).2).2

/-- R165: where a TABLE WRITE begins. -/
def writeStart (t : TableId) (fields : List Byte) (s : State) : Nat :=
  if fieldAt fields 1 1 = 0 then fieldAt fields 2 2 else s.cursors[t.num]

/-- R165: TABLE WRITE of a table other than SERVICE_LIST. -/
theorem writeRequest_table (table : TableId.ofNum (fieldAt r.fields 0 1) = some t) (notList : t ≠ .serviceList) :
    writeRequest r s =
      if 1 < fieldAt r.fields 1 1 then respondRange r 0 s
      else if s.lotState.working && t.isProtected then respond r .access (raiseEvent .accessRefused t.num s)
      else
        let start := writeStart t r.fields s
        let entries := carriedEntries t r.fields
        if t.size < start + entries.length then respondRange r t.size s
        else
          match writeTable t start entries s with
          | .error i => respondRange r i s
          | .ok s => respondOk r (byte t.num :: leBytes 2 (start + entries.length)) (setCursor t (start + entries.length) s) := by
  unfold writeRequest
  rw [table]
  cases t
  case serviceList => exact absurd rfl notList
  all_goals rfl

theorem barred_iff (outside : s.lotState ≠ .bypass) : (s.lotState.working && t.isProtected) = true ↔
    s.lotState ≠ .idle ∧ t ∈ [TableId.node, .siteGeometry, .deck, .nozzle, .motion, .lot, .timebase] := by
  rw [Bool.and_eq_true]
  refine and_congr ?_ (by cases t <;> decide)
  cases lot : s.lotState <;> simp_all [LotState.working]

theorem num_ne {y : TableId} (h : y ≠ t) : (t.num : Nat) ≠ y.num := by
  refine fun e => h ?_
  revert e
  cases y <;> cases t <;> decide

theorem readEntry_setCursor (y t : TableId) (k n : Nat) (s : State) : readEntry y k (setCursor t n s) = readEntry y k s := by
  cases y <;> rfl

theorem holdsEntry_setCursor {y : TableId} {k : Nat} {e : List Byte} (n : Nat) (h : u.holdsEntry y k e) :
    (setCursor t n u).holdsEntry y k e := by
  cases y <;> exact h

/-- R165: an accepted write as the request leaves it. -/
theorem Wrote.answered {start : Nat} {es : List (List Byte)} (w : Wrote t start es s u) (n : Nat) :
    (∀ k (h : k < es.length), (setCursor t n u).holdsEntry t (start + k) es[k]) ∧
    (∀ k, k < t.size → k < start ∨ start + es.length ≤ k → readEntry t k (setCursor t n u) = readEntry t k s) ∧
    (∀ y k, y ≠ t → readEntry y k (setCursor t n u) = readEntry y k s) ∧
    (setCursor t n u).cursors[t.num] = n ∧ (∀ y : TableId, y ≠ t → (setCursor t n u).cursors[y.num] = s.cursors[y.num]) ∧
    (t ≠ .siteGeometry → (setCursor t n u).offTables = s.offTables) ∧
    (t = .siteGeometry → ∀ i : Fin 64,
      ((setCursor t n u).siteGeometry[i] = some none → (setCursor t n u).sockets[i].state = .off) ∧
      ((setCursor t n u).siteGeometry[i] ≠ some none → (setCursor t n u).sockets[i].state = s.sockets[i].state)) := by
  refine ⟨fun k h => holdsEntry_setCursor n (w.holds k h), fun k low out => ?_, fun y k ne => ?_, ?_, fun y ne => ?_,
    fun ne => w.rest ne, w.sockets⟩
  · rw [readEntry_setCursor, w.outside k low out]
  · rw [readEntry_setCursor, w.others y k ne]
  · exact Vector.getElem_set_self t.num.isLt
  · rw [← w.cursors]
    exact Vector.getElem_set_ne t.num.isLt y.num.isLt (num_ne ne)

/-- R165: a write that is neither barred nor too long is its table's to take or refuse. -/
theorem writeRequest_tried (table : TableId.ofNum (fieldAt r.fields 0 1) = some t) (notList : t ≠ .serviceList)
    (low : fieldAt r.fields 1 1 ≤ 1) (free : ¬ (s.lotState.working && t.isProtected) = true)
    (fits : writeStart t r.fields s + (carriedEntries t r.fields).length ≤ t.size) :
    (∀ i, writeTable t (writeStart t r.fields s) (carriedEntries t r.fields) s = .error i →
      writeRequest r s = respondRange r i s) ∧
    ∀ u, writeTable t (writeStart t r.fields s) (carriedEntries t r.fields) s = .ok u →
      writeRequest r s =
        respondOk r (byte t.num :: leBytes 2 (writeStart t r.fields s + (carriedEntries t r.fields).length))
          (setCursor t (writeStart t r.fields s + (carriedEntries t r.fields).length) u) := by
  rw [writeRequest_table table notList, if_neg (Nat.not_lt_of_le low), if_neg free]
  dsimp only
  rw [if_neg (Nat.not_lt_of_le fits)]
  exact ⟨fun i refused => by rw [refused], fun u taken => by rw [taken]⟩

theorem passes_nozzle_iff (s : State) (i : Nat) (e : List Byte) : entryPasses .nozzle s i e = true ↔
    ∃ o, readOffset e = some o ∧
      let h : Head := if i < 4 then .west else .east
      (∀ (j : Fin 64) (g : SiteGeometry), s.siteGeometry[j] = some (some g) → g.home.serves h = true →
        locationTest h o g.x g.y = true) ∧
      (∀ (j : Fin 18) (p : Pos), j.val < 16 → s.deck[j] = some p → locationTest h o p.x p.y = true) ∧
      ∀ (b : Fin 16) (y : TrayId) (g : TrayGeometry), (s.bins[b].tray y).geometry = some g →
        (s.bins[b].tray y).state ∈ [TrayState.ready, .active, .closing] →
        ∀ p ∈ g.corners, locationTest h o p.x p.y = true := by
  rw [passes_nozzle]
  exact exists_congr fun o => and_congr_right fun _ => recheckNozzle_iff s _ o

/-- R40: what a write that is not barred finds of the lot. -/
theorem resting_of_free (outside : s.lotState ≠ .bypass) (free : ¬ (s.lotState.working && TableId.siteGeometry.isProtected) = true) :
    s.lotState.active = false := by
  cases lot : s.lotState <;> simp_all [LotState.working, LotState.active, TableId.isProtected]

/-- Settles O50. -/
theorem tableWriteTakesWholeWrites : Obligations.TableWriteTakesWholeWrites := by
  refine ⟨fun s r h fits outside => ?_, fun s i e => ⟨passes_siteGeometry s i e, passes_deck s i e, passes_nozzle_iff s i e,
    passes_motion s i e, passes_lot s i e, passes_binMap s i e, passes_binPolicy s i e, passes_forwarding s i e,
    passes_timebase s i e, by decide, by decide⟩⟩
  rw [exec_tableWrite h fits outside]
  intro mode
  refine ⟨fun none' => ?_, fun t table notList => ?_⟩
  · unfold writeRequest
    rw [none']
  intro start n entry barred accepted nodeAt nodeLawful nodeOffending
  have len : (carriedEntries t r.fields).length = n := length_carriedEntries t r.fields
  have each (k : Nat) (hk : k < (carriedEntries t r.fields).length) : (carriedEntries t r.fields)[k] = entry k :=
    getElem_carriedEntries hk
  have some' := carriedEntries_pos fits table notList
  have bars : (s.lotState.working && t.isProtected) = true ↔ barred := barred_iff outside
  have tried (low : mode ≤ 1) (free : ¬ barred) (room : start + n ≤ t.size) :=
    writeRequest_tried (s := s) table notList low (mt bars.1 free) (by rw [len]; exact room)
  have whole := writeRequest_table (s := s) table notList
  rw [show writeStart t r.fields s = start from rfl] at tried whole
  generalize carriedEntries t r.fields = es at len each some' tried whole
  have taken (low : mode ≤ 1) (free : ¬ barred) (room : start + n ≤ t.size) {u : State}
      (ok : writeTable t start es s = .ok u) (w : Wrote t start es s u) : accepted := by
    obtain ⟨holds, outside, others, cursor, cursors, rest, sockets⟩ := w.answered (start + n)
    refine ⟨setCursor t (start + n) u, ?_, fun k hk => ?_, fun k low out => outside k low (by rw [len]; exact out), others,
      cursor, cursors, rest, sockets⟩
    · rw [(tried low free room).2 u ok, len]
    · rw [← each k (by rw [len]; exact hk)]
      exact holds k _
  refine ⟨fun high => ?_, fun low bar => ?_, fun low free long => ?_, fun low free room notNode => ⟨fun k hk fails pass => ?_,
    fun pass => ?_⟩, fun low free room node => ?_⟩
  · rw [whole, if_pos high]
  · rw [whole, if_neg (Nat.not_lt_of_le low), if_pos (bars.2 bar)]
  · rw [whole, if_neg (Nat.not_lt_of_le low), if_neg (mt bars.1 free)]
    dsimp only
    rw [if_pos (by rw [len]; exact long)]
  · have inside : k < es.length := by rw [len]; exact hk
    refine congrArg Host.Outcome.next ((tried low free room).1 _ (writeTable_fail inside ?_ fun j hj => ?_))
    · rw [each k inside]
      exact fails
    · rw [each j (hj.trans inside)]
      exact pass j hj
  · obtain ⟨u, ok, w⟩ := writeTable_pass (s := s) (start := start) (es := es) notNode notList
      (fun site => resting_of_free outside (by rw [← site]; exact mt bars.1 free)) some' (by rw [len]; exact room)
      fun k hk => by
        rw [each k hk]
        exact pass k (by rw [← len]; exact hk)
    exact taken low free room ok w
  · subst node
    have room' : start + es.length ≤ 5 := by rw [len]; exact room
    have news (k : Nat) (hk : k < n) : nodeAt (start + k) = some (byteAt (entry k) 0) := by
      refine (if_pos ⟨Nat.le_add_right _ _, Nat.add_lt_add_left hk _⟩).trans ?_
      rw [Nat.add_sub_cancel_left]
    have stands := nodeAfter_stands (s := s) (nodeAt := nodeAt) room'
      (fun k hk => (news k (by omega)).trans (by rw [each k hk])) fun i old => if_neg (by rw [← len]; exact old)
    have lawful : nodeLawful ↔ ∀ i, i < 5 → ¬ NodeOffends s nodeAt start (start + n) i := nodeLawful_iff room news
    have decides := writeTable_node_decides room' stands
    rw [len] at decides
    obtain ⟨clean, u, ok, w⟩ | ⟨i, hi, off, before, refused⟩ := decides
    · exact ⟨fun _ => taken low free room ok w, fun bad => absurd (lawful.2 clean) bad⟩
    · exact ⟨fun clean => absurd off (lawful.1 clean i hi), fun _ => ⟨i, hi, off, before,
        congrArg Host.Outcome.next ((tried low free room).1 i refused)⟩⟩

end Sys2Proof.Machine
end

section
/-! PROOFS. A pending event stays pending while blocks cancel orders, convert devices and update groups (R171). -/

namespace Sys2Proof.Machine

variable {s t : State} {k : EventKind}

/-- R171: the pending flag of an event kind is set. -/
def State.pends (s : State) (k : EventKind) : Prop := s.events[k.num].pending = true

theorem pends_of_events (e : t.events = s.events) (h : s.pends k) : t.pends k := by
  unfold State.pends
  rw [e]
  exact h

theorem foldl_pends {α : Type} {f : State → α → State} (hf : ∀ s a, s.pends k → (f s a).pends k) :
    ∀ (l : List α) {s : State}, s.pends k → (l.foldl f s).pends k
  | [], _, h => h
  | a :: l, s, h => foldl_pends hf l (hf s a h)

/-! ## Raising (R171, R173) -/

theorem pends_noteEvent (j : EventKind) (d : Nat) (h : s.pends k) : (noteEvent j d s).pends k := by
  unfold State.pends noteEvent
  dsimp only
  rw [Fin.getElem_fin, Vector.getElem_set]
  split
  · rfl
  · exact h

theorem noteEvent_pends (k : EventKind) (d : Nat) (s : State) : (noteEvent k d s).pends k :=
  congrArg EventRecord.pending (Vector.getElem_set_self k.num.isLt)

theorem pends_produceNotice (j : EventKind) (h : s.pends k) : (produceNotice j s).pends k := by
  refine pends_of_events ?_ h
  unfold produceNotice joinOwnOrDrop
  split
  · rfl
  · exact joinOwn_events _ _ _

theorem pends_raiseCongestion (d : Nat) (h : s.pends k) : (raiseCongestion d s).pends k := by
  have noted := pends_noteEvent .linkCongestion d h
  unfold raiseCongestion
  dsimp only
  split
  · split
    · exact pends_noteEvent _ _ (pends_produceNotice _ noted)
    · exact pends_produceNotice _ noted
  · exact noted

/-- What is pending once an event is noted is pending once it is raised. -/
theorem pends_of_noted (j : EventKind) (d : Nat) (h : (noteEvent j d s).pends k) : (raiseEvent j d s).pends k := by
  unfold raiseEvent
  dsimp only
  split
  · split
    · exact pends_raiseCongestion _ (pends_produceNotice _ h)
    · exact pends_produceNotice _ h
  · exact h

theorem pends_raiseEvent (j : EventKind) (d : Nat) (h : s.pends k) : (raiseEvent j d s).pends k :=
  pends_of_noted j d (pends_noteEvent j d h)

/-- R171: an event that is raised is pending. -/
theorem raiseEvent_pends (k : EventKind) (d : Nat) (s : State) : (raiseEvent k d s).pends k :=
  pends_of_noted k d (noteEvent_pends k d s)

theorem pends_produce (p : Port) (d c : Byte) (pl : List Byte) (h : s.pends k) : (produce p d c pl s).pends k := by
  have counted : (advanceSequence p s).pends k := pends_of_events (by simp [advanceSequence]) h
  unfold produce queueOwn
  split
  · exact pends_raiseCongestion _ counted
  · exact pends_of_events (joinOwn_events _ _ _) counted

/-! ## Plans, orders and conversions -/

theorem pends_opportunity (x : Head) (h : s.pends k) : (opportunity x s).pends k := by
  unfold opportunity
  split <;> exact h

theorem pends_opportunityBoth (h : s.pends k) : (opportunityBoth s).pends k := pends_opportunity _ (pends_opportunity _ h)

theorem pends_opportunityServing (i : Fin 64) (h : s.pends k) : (opportunityServing i s).pends k := by
  unfold opportunityServing
  dsimp only
  split <;> split
  · exact pends_opportunity _ (pends_opportunity _ h)
  · exact pends_opportunity _ h
  · exact pends_opportunity _ h
  · exact h

theorem pends_holeOf (o : Order) (h : s.pends k) : (holeOf o s).pends k := by
  unfold holeOf holePocket fillTray
  split
  · dsimp only
    split
    · exact pends_raiseEvent _ _ h
    · exact h
  · exact h

theorem pends_endPlan (x : Head) (plan : Option Nat) (h : s.pends k) : (endPlan x plan s).pends k := by
  unfold endPlan dropPlan
  split
  · exact h
  · split
    · exact h
    · exact pends_opportunityBoth h

theorem pends_cancelPoint (x : Head) (o : Order) (h : s.pends k) : (cancelPoint x o s).pends k := by
  unfold cancelPoint
  split <;> exact h

theorem pends_cancelPending (x : Head) (o : Order) (h : s.pends k) : (cancelPending x o s).pends k :=
  have left : (leaveQueue x o.tag (cancelPoint x o s)).pends k := pends_cancelPoint x o h
  pends_opportunity _ (pends_endPlan _ _ (pends_holeOf _ left))

theorem pends_cancelWhere (x : Head) (test : Order → Bool) (h : s.pends k) : (cancelWhere x test s).pends k :=
  foldl_pends (fun _ _ => pends_cancelPending _ _) _ h

theorem pends_cancelCarrying (i : Fin 96) (plan : Option Nat) (h : s.pends k) : (cancelCarrying i plan s).pends k := by
  unfold cancelCarrying
  split
  · exact h
  · exact pends_cancelWhere _ _ (pends_cancelWhere _ _ h)

theorem pends_carriedOpportunity (i : Fin 96) (h : s.pends k) : (carriedOpportunity i s).pends k := by
  unfold carriedOpportunity
  split
  · split
    · exact h
    · exact pends_opportunity _ h
  · exact h

theorem pends_convert (i : Fin 96) (h : s.pends k) : (convert i s).pends k := by
  unfold convert
  split
  · split
    · refine pends_carriedOpportunity _ (pends_cancelCarrying _ _ ?_)
      split
      · exact pends_raiseEvent _ _ h
      · exact h
    · exact h
  · exact h

theorem pends_reexamine (h : s.pends k) : (reexamine s).pends k := by
  refine foldl_pends (fun s i hs => ?_) _ h
  split
  · split
    · exact pends_convert i hs
    · exact hs
  · exact hs

/-! ## Sockets and groups -/

theorem pends_setTimer (id : TimerId) (x : Timer) (h : s.pends k) : (s.setTimer id x).pends k :=
  pends_of_events (State.setTimer_events s id x) h

theorem pends_startGroup (g : Fin 16) (h : s.pends k) : (startGroup g s).pends k := by
  have begun (s : State) (i : Fin 64) (hs : s.pends k) : (beginTest s i).pends k :=
    pends_setTimer (.watchdog i) _ (pends_of_events (State.modCounters_events _ _) hs)
  have sent := pends_produce .downstream (s.nodeAddress 1) kindSiteStart
    (byte g :: (readyMembers s g).map fun (i : Fin 64) => byte i.val) h
  exact pends_of_events (s := cancelTimer (.fill g) ((readyMembers s g).foldl beginTest _)) rfl
    (pends_setTimer _ _ (foldl_pends begun _ sent))

theorem pends_updateGroupOf (i : Fin 64) (h : s.pends k) : (updateGroupOf i s).pends k := by
  unfold updateGroupOf groupUpdate fillUpdate
  split
  · split
    · exact pends_startGroup _ h
    · split
      · split
        · exact pends_setTimer _ _ h
        · exact h
      · exact pends_setTimer _ _ h
  · exact h

theorem pends_complete (code : Byte) (subject : Subject) (final : FinalCode) (h : s.pends k) :
    (complete code subject final s).pends k := by
  unfold complete
  split
  · exact h
  · next c _ =>
    have sent : (produceCompletion c final
        { s with completions := s.completions.filter fun d => !(d.ticket == c.ticket) }).pends k := pends_produce _ _ _ _ h
    unfold slotFreed
    split
    · exact pends_raiseEvent _ _ sent
    · exact sent

theorem pends_goOff (i : Fin 64) (h : s.pends k) : (goOff i s).pends k := by
  have done : (completeDisable i (s.modSocket i fun x => { x with state := .off, pendingDisable := none })).pends k :=
    pends_complete _ _ _ h
  unfold goOff afterOff
  refine pends_updateGroupOf _ (pends_reexamine (pends_opportunityServing _ ?_))
  split
  · exact pends_raiseEvent _ _ done
  · exact done

theorem pends_enterEmpty (i : Fin 64) (h : s.pends k) : (enterEmpty i s).pends k := by
  have emptied : (opportunityServing i (s.modSocket i fun x => { x with state := .empty })).pends k :=
    pends_opportunityServing _ h
  unfold enterEmpty
  dsimp only
  split
  · exact pends_goOff _ emptied
  · exact emptied

theorem pends_enterTested (i : Fin 64) (h : s.pends k) : (enterTested i s).pends k := pends_opportunityServing _ h

/-! ## Orders resolved as not done (R127) -/

theorem pends_notDoneEffect (o : Order) (h : s.pends k) : (notDoneEffect o s).pends k := by
  unfold notDoneEffect
  split
  · split
    · exact pends_enterTested _ h
    · exact h
  · split
    · exact pends_enterEmpty _ h
    · exact h
  · exact pends_holeOf _ h

theorem pends_resolveNotDone (x : Head) (o : Order) (h : s.pends k) : (resolveNotDone x o s).pends k := by
  have effect : (notDoneEffect o (leaveQueue x o.tag s)).pends k := pends_notDoneEffect _ h
  have held : (recomputeHoldings x (notDoneEffect o (leaveQueue x o.tag s))).pends k :=
    pends_of_events (by simp [recomputeHoldings]) effect
  exact pends_opportunity _ (pends_endPlan _ _ held)

theorem pends_failGranted (x : Head) (h : s.pends k) : (failGranted x s).pends k :=
  foldl_pends (fun _ _ => pends_resolveNotDone _ _) _ h

end Sys2Proof.Machine
end

section
/-! PROOFS. A HEAD STATUS handed over, late statuses, and orders resolved as not done: O30. -/

namespace Sys2Proof.Machine

variable {s t : State}

/-! ## The delivery of an owned frame (R5, R6) -/

theorem fits_headStatus {f : Frame} (kind : f.kind = kindHeadStatus) (length : f.payload.length = 12) :
    lengthFits f.kind f.payload.length = true := by
  rw [kind, length]
  decide

/-- R5, R6: the source of a HEAD STATUS names its head. -/
theorem ownerOf_headStatus {f : Frame} {h : Head} (owned : s.owned .downstream f kindHeadStatus (controllerNode h))
    (other : h = .east → s.node[(2 : Fin 5)] ≠ some f.source) : ownerOf .downstream f s = some (.head h) := by
  obtain ⟨working, -, written, kind, node⟩ := owned
  have notSite : ¬ (f.kind = kindSiteReport ∧ s.node[(1 : Fin 5)] = some f.source) := by
    rw [kind]
    exact fun e => absurd e.1 (by decide)
  unfold ownerOf
  rw [working, written, if_pos (by decide), if_neg notSite]
  cases h with
  | west => exact if_pos ⟨kind, node⟩
  | east => rw [if_neg fun e => other rfl e.2, if_pos ⟨kind, node⟩]

/-- R5, R6: an owned frame goes to its owner, and on when it is not addressed to the part. -/
theorem classify_owned {f : Frame} {o : Owner} (owner : ownerOf .downstream f s = some o)
    (fits : lengthFits f.kind f.payload.length = true) :
    classify .downstream f s = if s.ownAddress = some f.destination then finish (deliver o f s).1
      else offer .downstream (deliver o f s).2 (finish (deliver o f s).1) := by
  have owned : s.ownsFrame .downstream f := (ownerOf_ne_none_iff _ _ _).1 (by rw [owner]; exact Option.some_ne_none o)
  have notBypass : s.lotState ≠ .bypass := fun e => by simpa [e, LotState.working] using owned.working
  unfold classify consume carry
  rw [if_neg owned.kind_ne, if_neg notBypass, owner]
  dsimp only
  rw [if_pos fits, if_pos fits]

/-! ## A status that does not match (R123) -/

/-- R123: a DONE, MISS or STUCK without its order raises HEAD_PROTOCOL. -/
theorem orderStatus_unmatched {h : Head} {outcome : HeadOutcome} {tag : Nat}
    (no : ∀ o, matchOrder h s = some o → ¬ (o.tag = tag ∧ outcomeFits outcome o.action = true)) :
    orderStatus h outcome tag s = raiseEvent .headProtocol h.num s := by
  unfold orderStatus
  cases found : matchOrder h s with
  | none => rfl
  | some o => exact if_neg (no o found)

theorem outcomeFits_iff {outcome : HeadOutcome} (notReady : outcome ≠ .ready) (notJam : outcome ≠ .jam) (a : Action) :
    outcomeFits outcome a = true ↔ ¬ (outcome = .miss ∧ a ≠ .pick) ∧ ¬ (outcome = .stuck ∧ a ≠ .place) := by
  cases outcome <;> cases a <;> simp_all [outcomeFits]

/-- R123: what raises HEAD_PROTOCOL. -/
theorem takeHeadStatus_unmatched {h : Head} {payload : List Byte}
    (bad : (HeadStatusFields.read payload).head ≠ h.num ∨ (HeadStatusFields.read payload).outcome = none ∨
      ∃ outcome, (HeadStatusFields.read payload).outcome = some outcome ∧ outcome ≠ .ready ∧ outcome ≠ .jam ∧
        ∀ o, matchOrder h s = some o → o.tag ≠ (HeadStatusFields.read payload).tag ∨
          (outcome = .miss ∧ o.action ≠ .pick) ∨ (outcome = .stuck ∧ o.action ≠ .place)) :
    takeHeadStatus h payload s = raiseEvent .headProtocol h.num s := by
  unfold takeHeadStatus
  dsimp only
  split
  · next own =>
    obtain other | none' | ⟨outcome, read, notReady, notJam, no⟩ := bad
    · exact absurd own other
    · rw [none']
    · have unmatched := orderStatus_unmatched (s := s) (h := h) (outcome := outcome)
        (tag := (HeadStatusFields.read payload).tag) fun o found fit => by
          obtain ⟨tag, fits⟩ := fit
          obtain ⟨pick, place⟩ := (outcomeFits_iff notReady notJam o.action).1 fits
          exact (no o found).elim (absurd tag) (Or.rec pick place)
      rw [read]
      cases outcome with
      | ready => exact absurd rfl notReady
      | jam => exact absurd rfl notJam
      | done => exact unmatched
      | miss => exact unmatched
      | stuck => exact unmatched
  · rfl

/-! ## An order resolved as not done (R127) -/

theorem drops_notDoneEffect (o : Order) (s : State) : Drops s (notDoneEffect o s) := by
  unfold notDoneEffect
  split
  · split
    · exact drops_enterTested _ _
    · exact .refl s
  · split
    · exact drops_enterEmpty _ _
    · exact .refl s
  · exact drops_holeOf _ _

theorem head_recomputeHoldings (h : Head) (s : State) :
    (recomputeHoldings h s).head h = { s.head h with holdings := newHoldings (s.head h) } := by
  unfold recomputeHoldings State.head
  rw [tellOther_heads]
  exact PerHead.get_set_self _ _ _

theorem head_leaveQueue (h : Head) (tag : Nat) (s : State) :
    (leaveQueue h tag s).head h = { s.head h with queue := (s.head h).queue.filter fun o => !(o.tag == tag) } :=
  PerHead.get_set_self _ _ _

/-- R137: only granted orders count for the holdings. -/
theorem holdingsFrom_granted (base : Nat) (queue : List Order) :
    holdingsFrom base (queue.filter Order.isGranted) = holdingsFrom base queue := by
  unfold holdingsFrom
  rw [List.foldl_filter]
  congr 1
  funext acc o
  split
  · rfl
  · next waits =>
    refine (if_neg fun out => waits ?_).symm
    simp [Order.isGranted, out]

/-- R127, R137: what a head keeps when an order is resolved as not done. -/
structure NotDone (o : Order) (x y : HeadRecord) : Prop where
  queue : y.queue.Sublist (x.queue.filter fun q => !(q.tag == o.tag))
  state : y.state = x.state
  known : y.known = x.known
  base : y.base = x.base
  held : x.state ≠ .ready → y.holdings = x.holdings
  narrowed : ∀ b, x.state = .ready → x.base = some b → (x.queue.map Order.tag).Nodup →
    y.holdings = holdingsFrom b (x.queue.filter fun q => q.tag ≠ o.tag)

theorem notDone_resolveNotDone (h : Head) (o : Order) (s : State) :
    NotDone o (s.head h) ((resolveNotDone h o s).head h) := by
  have effect := (drops_notDoneEffect o (leaveQueue h o.tag s)).head h
  have ended := ((drops_endPlan h o.plan (recomputeHoldings h (notDoneEffect o (leaveQueue h o.tag s)))).trans
    ((drops_opportunity h _).trans (drops_grantPoint h _))).head h
  rw [head_leaveQueue] at effect
  rw [head_recomputeHoldings] at ended
  have last : (grantPoint h (opportunity h (endPlan h o.plan
      (recomputeHoldings h (notDoneEffect o (leaveQueue h o.tag s)))))).head h = (resolveNotDone h o s).head h := rfl
  rw [last] at ended
  generalize (notDoneEffect o (leaveQueue h o.tag s)).head h = m at effect ended
  generalize (resolveNotDone h o s).head h = y at ended
  have state : m.state = (s.head h).state := by rw [effect.rest]
  have base : m.base = (s.head h).base := by rw [effect.rest]
  have holdings : y.holdings = newHoldings m := by rw [ended.rest]
  refine ⟨ended.queue.trans effect.queue, ?_, ?_, ?_, fun stopped => ?_, fun b ready at_b different => ?_⟩
  · rw [ended.rest]
    exact state
  · rw [ended.rest]
    dsimp only
    rw [effect.rest]
  · rw [ended.rest]
    exact base
  · have kept : m.holdings = (s.head h).holdings := by rw [effect.rest]
    rw [holdings, newHoldings, state, kept]
    cases st : (s.head h).state <;> simp_all
  · have granted := effect.granted (different.sublist (List.filter_sublist.map _))
    rw [holdings, newHoldings, state, base, ready, at_b]
    dsimp only
    rw [← holdingsFrom_granted, granted, holdingsFrom_granted]
    congr 1
    exact List.filter_congr fun q _ => by rw [decide_not]; rfl

/-! ## What an order resolved as not done leaves of its location (R127) -/

theorem benchView_resolveNotDone (h : Head) (o : Order) (s : State) :
    (resolveNotDone h o s).benchView = (notDoneEffect o (leaveQueue h o.tag s)).benchView := by
  have view : (recomputeHoldings h (notDoneEffect o (leaveQueue h o.tag s))).benchView =
      (notDoneEffect o (leaveQueue h o.tag s)).benchView := by
    unfold recomputeHoldings tellOther
    dsimp only
    split <;> rfl
  unfold resolveNotDone
  dsimp only
  rw [benchView_grantPoint, benchView_opportunity, benchView_endPlan, view]

theorem state_enterTested (i : Fin 64) (s : State) : (enterTested i s).sockets[i].state = .tested := by
  have view := benchView_opportunityServing i (s.modSocket i fun x => { x with state := .tested })
  exact (benchView_socketState view i).trans (by rw [State.socket_modSocket, if_pos rfl])

/-- R71, R97: a socket without pending-disable that enters EMPTY stays EMPTY. -/
theorem enterEmpty_of_enabled {i : Fin 64} (enabled : s.sockets[i].pendingDisable = none) :
    enterEmpty i s = opportunityServing i (s.modSocket i fun x => { x with state := .empty }) := by
  have view := benchView_opportunityServing i (s.modSocket i fun x => { x with state := .empty })
  have still := congrArg Socket.pendingDisable (benchView_socket view i)
  rw [State.socket_modSocket, if_pos rfl] at still
  have none' : (opportunityServing i (s.modSocket i fun x => { x with state := .empty })).sockets[i].pendingDisable = none :=
    still.trans enabled
  unfold enterEmpty
  dsimp only
  rw [none']
  rfl

theorem state_enterEmpty {i : Fin 64} (enabled : s.sockets[i].pendingDisable = none) :
    (enterEmpty i s).sockets[i].state = .empty := by
  have view := benchView_opportunityServing i (s.modSocket i fun x => { x with state := .empty })
  rw [enterEmpty_of_enabled enabled]
  exact (benchView_socketState view i).trans (by rw [State.socket_modSocket, if_pos rfl])

/-- R127: a socket in EMPTYING that an order was to pick from is TESTED. -/
theorem state_resolveNotDone_pick (h : Head) {o : Order} {i : Fin 64} (pick : o.action = .pick)
    (socket : o.location = some (.socket i)) (s : State) : (resolveNotDone h o s).sockets[i].state =
      if s.sockets[i].state = .emptying then .tested else s.sockets[i].state := by
  rw [benchView_socketState (benchView_resolveNotDone h o s) i]
  unfold notDoneEffect
  rw [pick, socket]
  dsimp only
  have before : (leaveQueue h o.tag s).sockets[i] = s.sockets[i] := rfl
  rw [before]
  split
  · exact state_enterTested i _
  · rfl

/-- R127: a socket in FILLING, without pending-disable, that an order was to place into is EMPTY. -/
theorem state_resolveNotDone_place (h : Head) {o : Order} {i : Fin 64} (place : o.action = .place)
    (socket : o.location = some (.socket i)) (enabled : s.sockets[i].pendingDisable = none) :
    (resolveNotDone h o s).sockets[i].state = if s.sockets[i].state = .filling then .empty else s.sockets[i].state := by
  rw [benchView_socketState (benchView_resolveNotDone h o s) i]
  unfold notDoneEffect
  rw [place, socket]
  dsimp only
  have before : (leaveQueue h o.tag s).sockets[i] = s.sockets[i] := rfl
  rw [before]
  split
  · exact state_enterEmpty (s := leaveQueue h o.tag s) enabled
  · rfl

theorem bins_opportunity (h : Head) (s : State) : (opportunity h s).bins = s.bins := by
  unfold opportunity
  split <;> rfl

theorem bins_endPlan (h : Head) (plan : Option Nat) (s : State) : (endPlan h plan s).bins = s.bins := by
  unfold endPlan dropPlan opportunityBoth
  split
  · rfl
  · split
    · rfl
    · rw [bins_opportunity, bins_opportunity]

theorem bins_resolveNotDone (h : Head) (o : Order) (s : State) :
    (resolveNotDone h o s).bins = (notDoneEffect o (leaveQueue h o.tag s)).bins := by
  unfold resolveNotDone
  dsimp only
  rw [grantPoint_bins, bins_opportunity, bins_endPlan, recomputeHoldings, tellOther_bins, State.modHead_bins]

theorem tray_modTray (b : Fin 16) (y : TrayId) (f : TrayRecord → TrayRecord) (s : State) :
    (s.modTray b y f).bins[b].tray y = f (s.bins[b].tray y) := by
  rw [State.modTray, State.bin_modBin, if_pos rfl, Bin.tray_setTray_self]

/-- R89: a CLOSING tray without outstanding pockets is FULL. -/
theorem tray_fillTray (b : Fin 16) (y : TrayId) (s : State) : (fillTray b y s).bins[b].tray y =
    { s.bins[b].tray y with
      state := if (s.bins[b].tray y).state = .closing ∧ (s.bins[b].tray y).outstanding = 0 then .full
        else (s.bins[b].tray y).state } := by
  unfold fillTray
  dsimp only
  split
  · exact (congrArg (fun v : Vector Bin 16 => v[b].tray y) (offLink_bins (offLink_raiseEvent _ _ _))).trans
      (tray_modTray b y _ s)
  · rfl

/-- R89: a pocket that will not be filled is a hole. -/
theorem tray_holePocket (b : Fin 16) (y : TrayId) (s : State) : (holePocket b y s).bins[b].tray y =
    { s.bins[b].tray y with
      holes := (s.bins[b].tray y).holes + 1
      state := if (s.bins[b].tray y).state = .closing ∧
          (s.bins[b].tray y).allocated - (s.bins[b].tray y).placed - ((s.bins[b].tray y).holes + 1) = 0 then .full
        else (s.bins[b].tray y).state } := by
  rw [holePocket, tray_fillTray, tray_modTray]
  rfl

theorem tray_resolveNotDone (h : Head) {o : Order} {b : Fin 16} {y : TrayId} {j : Nat}
    (pocket : o.location = some (.pocket b y j)) (s : State) :
    (resolveNotDone h o s).bins[b].tray y = (holePocket b y s).bins[b].tray y := by
  have hole : notDoneEffect o (leaveQueue h o.tag s) = holePocket b y (leaveQueue h o.tag s) := by
    unfold notDoneEffect holeOf
    rw [pocket]
    cases o.action <;> rfl
  rw [bins_resolveNotDone, hole, tray_holePocket, tray_holePocket]
  rfl

/-! ## Late statuses (R129) -/

/-- Steps that each take the orders with a tag out of a queue leave none of those tags. -/
theorem foldl_removes {h : Head} {f : State → Order → State}
    (hf : ∀ s o, ((f s o).head h).queue.Sublist ((s.head h).queue.filter fun q => !(q.tag == o.tag))) :
    ∀ (l : List Order) (s : State), ((l.foldl f s).head h).queue.Sublist (s.head h).queue ∧
      ∀ o ∈ l, ∀ q ∈ ((l.foldl f s).head h).queue, q.tag ≠ o.tag
  | [], _ => ⟨.refl _, fun _ h => absurd h List.not_mem_nil⟩
  | o :: l, s => by
    obtain ⟨rest, gone⟩ := foldl_removes hf l (f s o)
    refine ⟨rest.trans ((hf s o).trans List.filter_sublist), fun p hp q hq => ?_⟩
    obtain rfl | later := List.mem_cons.1 hp
    · simpa using (List.mem_filter.1 ((rest.trans (hf s p)).subset hq)).2
    · exact gone p later q hq

/-- When every order of a queue that meets a test has been taken out, none that meets it is left. -/
theorem foldl_removes_all {h : Head} {f : State → Order → State} {test : Order → Bool}
    (hf : ∀ s o, ((f s o).head h).queue.Sublist ((s.head h).queue.filter fun q => !(q.tag == o.tag))) (s : State) :
    ∀ q ∈ ((((s.head h).queue.filter test).foldl f s).head h).queue, test q = false := fun q hq => by
  obtain ⟨sub, gone⟩ := foldl_removes hf ((s.head h).queue.filter test) s
  exact Bool.eq_false_iff.2 fun meets => gone q (List.mem_filter.2 ⟨sub.subset hq, meets⟩) q hq rfl

/-- R127: no granted order is left when each of them has been resolved as not done. -/
theorem failGranted_queue (h : Head) (s : State) : ∀ q ∈ ((failGranted h s).head h).queue, q.isGranted = false :=
  foldl_removes_all (fun t o => (notDone_resolveNotDone h o t).queue) s

/-- What a head that is not READY keeps through late statuses. -/
structure HeadRests (x y : HeadRecord) : Prop where
  state : y.state = x.state
  known : y.known = x.known
  holdings : y.holdings = x.holdings
  base : y.base = x.base

theorem HeadRests.trans {x y z : HeadRecord} (a : HeadRests x y) (b : HeadRests y z) : HeadRests x z :=
  ⟨b.state.trans a.state, b.known.trans a.known, b.holdings.trans a.holdings, b.base.trans a.base⟩

theorem HeadDrops.rests {x y : HeadRecord} (d : HeadDrops x y) : HeadRests x y := by
  refine ⟨?_, ?_, ?_, ?_⟩ <;> rw [d.rest]

theorem HeadRests.leaveQueue (h : Head) (tag : Nat) (s : State) : HeadRests (s.head h) ((leaveQueue h tag s).head h) := by
  rw [head_leaveQueue]
  exact ⟨rfl, rfl, rfl, rfl⟩

theorem HeadRests.resolveNotDone {h : Head} (o : Order) (stopped : (s.head h).state ≠ .ready) :
    HeadRests (s.head h) ((resolveNotDone h o s).head h) :=
  have d := notDone_resolveNotDone h o s
  ⟨d.state, d.known, d.held stopped, d.base⟩

theorem HeadRests.foldNotDone {h : Head} : ∀ (l : List Order) {s : State}, (s.head h).state ≠ .ready →
    HeadRests (s.head h) ((l.foldl (fun s o => Machine.resolveNotDone h o s) s).head h)
  | [], _, _ => ⟨rfl, rfl, rfl, rfl⟩
  | o :: l, _, stopped =>
    have first := HeadRests.resolveNotDone o stopped
    first.trans (HeadRests.foldNotDone l (by rw [first.state]; exact stopped))

theorem drops_clearSlot (i : Fin 8) (tag : Nat) (s : State) : Drops s (clearSlot i tag s) :=
  have cleared : Drops s (s.modInput i fun x => { x with taken := some tag }) := .of_eq rfl rfl rfl rfl
  (cleared.trans (drops_opportunityBoth _)).trans (drops_produce _ _ _ _ _)

/-- A head's queue and what it goes by, through the release of a device off the nozzles. -/
theorem drops_release {p : Place} (off : ∀ h n, p ≠ .nozzle h n) (s : State) :
    Drops s (countRemoved (releaseAt p s)) := by
  refine Drops.trans ?_ (drops_modCounters _ _)
  unfold releaseAt
  split
  · exact .refl s
  · cases p with
    | nozzle h n => exact absurd rfl (off h n)
    | socket i => exact .of_eq rfl rfl rfl rfl
    | input i => exact .of_eq rfl rfl rfl rfl
    | retest i => exact .of_eq rfl rfl rfl rfl

theorem drops_lostFrom (o : Order) (s : State) : Drops s (lostFrom o s) := by
  unfold lostFrom
  split
  · next i _ =>
    have released : Drops s _ := drops_release (p := .socket i) (fun _ _ => nofun) s
    exact ((((released.trans (drops_modSocket i _ _)).trans (drops_noteFault i .miss _)).trans (drops_raiseEvent _ _ _)).trans
      (drops_complete _ _ _ _)).trans (drops_afterOff i _)
  · next i _ => exact (drops_release (p := .input i) (fun _ _ => nofun) s).trans (drops_clearSlot i _ _)
  · next i _ => exact (drops_release (p := .retest i) (fun _ _ => nofun) s).trans (drops_opportunityBoth _)
  · exact .refl s

theorem drops_stuckAt (o : Order) (s : State) : Drops s (stuckAt o s) := by
  unfold stuckAt
  split
  · next i _ =>
    have freed := drops_modSocket i (fun x => { x with plan := none }) s
    dsimp only
    refine Drops.trans ?_ (drops_noteFault i .stuck _)
    split
    · exact freed.trans (drops_enterEmpty i _)
    · exact freed
  · exact .of_eq rfl rfl rfl rfl
  · exact drops_holeOf _ _

theorem drops_raiseStuck (tag : Option Nat) (s : State) : Drops s (raiseStuck tag s) := by
  unfold raiseStuck
  split
  · exact drops_raiseEvent _ _ _
  · have drawn : Drops s { s with draws := s.draws + 1 } := .of_eq rfl rfl rfl rfl
    exact drawn.trans (drops_raiseEvent _ _ _)

theorem HeadRests.finalMiss {h : Head} (o : Order) (stopped : (s.head h).state ≠ .ready) :
    HeadRests (s.head h) ((finalMiss h o s).head h) := by
  have left := HeadRests.leaveQueue h o.tag s
  have mates : HeadRests ((Machine.leaveQueue h o.tag s).head h) ((failPlanMates h o (Machine.leaveQueue h o.tag s)).head h) :=
    HeadRests.foldNotDone _ (by rw [left.state]; exact stopped)
  have lost := (drops_lostFrom o (failPlanMates h o (Machine.leaveQueue h o.tag s))).trans
    ((drops_endPlan h o.plan _).trans ((drops_raiseEvent .pickMiss (pickTag s o) _).trans
      ((drops_opportunity h _).trans (drops_grantPoint h _))))
  exact (left.trans mates).trans (lost.head h).rests

theorem HeadRests.finalStuck (h : Head) (o : Order) (s : State) : HeadRests (s.head h) ((finalStuck h o s).head h) := by
  have stuck := (drops_stuckAt o (Machine.leaveQueue h o.tag s)).trans
    ((drops_endPlan h o.plan _).trans ((drops_raiseStuck (stuckTag h o s) _).trans
      ((drops_opportunity h _).trans (drops_grantPoint h _))))
  exact (HeadRests.leaveQueue h o.tag s).trans (stuck.head h).rests

theorem HeadRests.failGranted {h : Head} (stopped : (s.head h).state ≠ .ready) :
    HeadRests (s.head h) ((failGranted h s).head h) := HeadRests.foldNotDone _ stopped

/-! ## A final miss (R128) -/

/-- R31, R128: the device of a final miss leaves custody and is counted as removed. -/
theorem custody_lostFrom {o : Order} {loc : Location} {p : Place} (at_loc : o.location = some loc)
    (place : loc.custody = some p) (s : State) : (lostFrom o s).custody = (countRemoved (releaseAt p s)).custody := by
  unfold lostFrom
  rw [at_loc]
  cases loc with
  | pocket b y j => cases place
  | socket i =>
    cases place
    simp only [custody_afterOff, custody_completeDisable, custody_raiseEvent, custody_noteFault]
    exact custody_modSocket _ _ (fun _ => by rfl) _
  | input i =>
    cases place
    exact custody_clearSlot _ _ _
  | retest r =>
    cases place
    exact custody_opportunityBoth _

theorem custody_finalMiss (h : Head) (o : Order) (s : State) :
    (finalMiss h o s).custody = (lostFrom o (failPlanMates h o (leaveQueue h o.tag s))).custody := by simp [finalMiss]

theorem finalMiss_lost {h : Head} {o : Order} {loc : Location} {p : Place} {k : Fin 96} (at_loc : o.location = some loc)
    (place : loc.custody = some p) (device : s.recordAt p = some k) :
    (finalMiss h o s).recordAt p = none ∧ (finalMiss h o s).parts[k] = none ∧
      (finalMiss h o s).counters.removed = satSucc s.counters.removed := by
  have before : (failPlanMates h o (leaveQueue h o.tag s)).custody = s.custody := by simp
  have lost := (custody_finalMiss h o s).trans (custody_lostFrom at_loc place _)
  obtain ⟨record, part, counters⟩ := releaseAt_spec ((custody_recordAt before p).trans device)
  refine ⟨(custody_recordAt lost p).trans ((record p).trans (if_pos rfl)),
    custody_free lost ((part k).trans (if_pos rfl)), (custody_removed lost).trans ?_⟩
  show satSucc (releaseAt p (failPlanMates h o (leaveQueue h o.tag s))).counters.removed = _
  rw [counters, custody_removed before]

theorem finalMiss_pends (h : Head) (o : Order) (s : State) : (finalMiss h o s).pends .pickMiss :=
  pends_opportunity _ (raiseEvent_pends _ _ _)

theorem finalStuck_pends (h : Head) (o : Order) (s : State) : (finalStuck h o s).pends .placeStuck := by
  refine pends_opportunity (s := raiseStuck (stuckTag h o s) _) _ ?_
  unfold raiseStuck
  split
  · exact raiseEvent_pends _ _ _
  · exact raiseEvent_pends _ _ _

/-- R123, R129: a late MISS or STUCK that matches. -/
theorem takeHeadStatus_late {h : Head} {payload : List Byte} {o : Order} {outcome : HeadOutcome}
    (own : (HeadStatusFields.read payload).head = h.num) (read : (HeadStatusFields.read payload).outcome = some outcome)
    (late : outcome = .miss ∧ o.action = .pick ∨ outcome = .stuck ∧ o.action = .place)
    (stopped : (s.head h).state ≠ .ready) (oldest : (s.head h).queue.find? (fun q => q.state == .unknown) = some o)
    (tag : o.tag = (HeadStatusFields.read payload).tag) : takeHeadStatus h payload s = takeLate h outcome o s := by
  have matched : matchOrder h s = some o := by
    unfold matchOrder
    rw [if_neg stopped]
    exact oldest
  have status : orderStatus h outcome (HeadStatusFields.read payload).tag s = takeLate h outcome o s := by
    unfold orderStatus
    rw [matched]
    dsimp only
    rw [if_pos, if_neg stopped]
    refine ⟨tag, ?_⟩
    obtain ⟨rfl, act⟩ | ⟨rfl, act⟩ := late <;> rw [act] <;> rfl
  unfold takeHeadStatus
  dsimp only
  rw [if_pos own, read]
  obtain ⟨rfl, -⟩ | ⟨rfl, -⟩ := late <;> exact status

/-- R129: the failed order of a late MISS or STUCK. -/
def lateFailure (h : Head) (o : Order) (s : State) : State :=
  if o.retry = 0 then resolveNotDone h o s
  else if o.action = .pick then finalMiss h o s else finalStuck h o s

theorem takeLate_eq {h : Head} {o : Order} {outcome : HeadOutcome}
    (late : outcome = .miss ∧ o.action = .pick ∨ outcome = .stuck ∧ o.action = .place) :
    takeLate h outcome o s = failGranted h (lateFailure h o s) := by
  obtain ⟨rfl, act⟩ | ⟨rfl, act⟩ := late
  · simp only [takeLate, lateFailure, act, if_true]
  · simp only [takeLate, lateFailure, act, reduceCtorEq, if_false]

theorem HeadRests.lateFailure {h : Head} (o : Order) (stopped : (s.head h).state ≠ .ready) :
    HeadRests (s.head h) ((lateFailure h o s).head h) := by
  unfold Machine.lateFailure
  split
  · exact HeadRests.resolveNotDone o stopped
  · split
    · exact HeadRests.finalMiss o stopped
    · exact HeadRests.finalStuck h o s

theorem isPending_of_not_granted {o : Order} (h : o.isGranted = false) : o.state = .pending ∨ o.state = .waitingZone := by
  cases st : o.state <;> simp_all [Order.isGranted]

/-- Settles O30. -/
theorem headStatusHandedOver : Obligations.HeadStatusHandedOver := by
  refine ⟨fun s bytes f h takes owned other length c hc => ?_, fun s h payload => takeHeadStatus_unmatched,
    fun s h payload o => ?_, fun s h o => ?_⟩
  · rw [exec_takes hc takes, classify_owned (ownerOf_headStatus owned other) (fits_headStatus owned.2.2.2.1 length)]
    rfl
  · intro x t own late stopped oldest tag
    obtain ⟨outcome, read, fit⟩ : ∃ outcome, x.outcome = some outcome ∧
        (outcome = .miss ∧ o.action = .pick ∨ outcome = .stuck ∧ o.action = .place) := by
      obtain ⟨read, act⟩ | ⟨read, act⟩ := late
      · exact ⟨_, read, .inl ⟨rfl, act⟩⟩
      · exact ⟨_, read, .inr ⟨rfl, act⟩⟩
    have result : t = failGranted h (lateFailure h o s) :=
      (takeHeadStatus_late own read fit stopped oldest tag).trans (takeLate_eq fit)
    have first := HeadRests.lateFailure o stopped
    have rests := first.trans (HeadRests.failGranted (by rw [first.state]; exact stopped))
    have custody : t.custody = (lateFailure h o s).custody := by rw [result, custody_failGranted]
    rw [← result] at rests
    refine ⟨fun q hq => isPending_of_not_granted (failGranted_queue h _ q (by rw [← result]; exact hq)), rests.state,
      rests.known, rests.holdings, rests.base, fun again => ?_, fun final pick => ?_, fun final place => ?_⟩
    · have kept : t.custody = s.custody := by rw [custody, lateFailure, if_pos again, custody_resolveNotDone]
      exact ⟨custody_recordAt kept, custody_removed kept⟩
    · have missed : lateFailure h o s = finalMiss h o s := (if_neg final).trans (if_pos pick)
      rw [missed] at custody result
      refine ⟨?_, fun loc p k at_loc place device => ?_⟩
      · rw [result]
        exact pends_failGranted h (finalMiss_pends h o s)
      · obtain ⟨record, part, removed⟩ := finalMiss_lost (h := h) at_loc place device
        exact ⟨(custody_recordAt custody p).trans record, custody_free custody part, (custody_removed custody).trans removed⟩
    · have stuck : lateFailure h o s = finalStuck h o s :=
        (if_neg final).trans (if_neg (by rw [place]; exact Action.noConfusion))
      rw [stuck] at custody result
      refine ⟨?_, custody_recordAt (custody.trans (custody_finalStuck h o s))⟩
      rw [result]
      exact pends_failGranted h (finalStuck_pends h o s)
  · have d := notDone_resolveNotDone h o s
    refine ⟨fun q hq => ?_, d.state, custody_recordAt (custody_resolveNotDone h o s),
      fun i pick socket => state_resolveNotDone_pick h pick socket s,
      fun i place socket enabled => state_resolveNotDone_place h place socket enabled,
      fun b y j pocket => (tray_resolveNotDone h pocket s).trans (tray_holePocket b y s),
      fun b ready at_b different => d.narrowed b ready at_b different, d.held⟩
    simpa using (List.mem_filter.1 (d.queue.subset hq)).2

end Sys2Proof.Machine
end

section
/-! PROOFS. A SITE REPORT taken as the result of a test: O26. -/

namespace Sys2Proof.Machine

variable {s t u : State}

/-! ## The decision (R33, R78, R79) -/

theorem loadable_iff (s : State) (r : PartRecord) (i : Fin 64) : loadable s r i = true ↔
    (r.disposition = .none ∨ r.disposition = .retest) ∧ (∀ a ∈ r.attempts, a.1 ≠ i) ∧
    (s.lot.groupAvoidance = true → ∀ g, groupOf s i = some g → ∀ a ∈ r.attempts, groupOf s a.1 ≠ some g) := by
  have avoided : (!s.lot.groupAvoidance || r.attempts.all fun a => !((groupOf s i).isSome && groupOf s a.1 == groupOf s i))
      = true ↔ (s.lot.groupAvoidance = true → ∀ g, groupOf s i = some g → ∀ a ∈ r.attempts, groupOf s a.1 ≠ some g) := by
    cases s.lot.groupAvoidance with
    | false => simp
    | true =>
      cases groupOf s i with
      | none => simp
      | some g => simp
  unfold loadable
  rw [Bool.and_eq_true, avoided, Bool.and_eq_true, and_assoc]
  simp

theorem someSocketTakes_iff (s : State) (r : PartRecord) : someSocketTakes s r = true ↔
    ∃ i : Fin 64, s.sockets[i].state ≠ .off ∧ s.sockets[i].pendingDisable = none ∧ loadable s r i = true := by
  simp [someSocketTakes, and_assoc]

theorem running_iff (s : State) : running s = true ↔ s.lotState = .run ∨ s.lotState = .pause ∧ s.remembered = some .run := by
  simp [running]

theorem retestPossible_iff (s : State) (r : PartRecord) : retestPossible s r = true ↔
    r.attempts.length ≤ s.lot.retestLimit ∧ (s.lotState = .run ∨ s.lotState = .pause ∧ s.remembered = some .run) ∧
      ∃ i : Fin 64, s.sockets[i].state ≠ .off ∧ s.sockets[i].pendingDisable = none ∧ loadable s r i = true := by
  unfold retestPossible
  rw [Bool.and_eq_true, Bool.and_eq_true, decide_eq_true_eq, running_iff, someSocketTakes_iff, and_assoc]

theorem decideDisposition_unmapped {r : PartRecord} {code : Byte} (h : s.binMap[code.toFin] = none) :
    decideDisposition s r code = .hold ∧ faultMark s code = false := by
  unfold decideDisposition faultMark
  rw [h]
  exact ⟨rfl, rfl⟩

theorem decideDisposition_mapped {r : PartRecord} {code : Byte} {e : BinEntry} (h : s.binMap[code.toFin] = some e) :
    faultMark s code = e.faultMark ∧ (e.cls = .bin → decideDisposition s r code = .bin e.bin) ∧
      (e.cls = .hold → decideDisposition s r code = .hold) ∧
      (e.cls = .retest → retestPossible s r = true → decideDisposition s r code = .retest) ∧
      (e.cls = .retest → ¬ retestPossible s r = true → decideDisposition s r code = .bin e.finalBin) := by
  unfold decideDisposition faultMark
  rw [h]
  refine ⟨rfl, fun cls => ?_, fun cls => ?_, fun cls possible => ?_, fun cls barred => ?_⟩
  · simp only [cls]
  · simp only [cls]
  · simp only [cls]
    exact if_pos possible
  · simp only [cls]
    exact if_neg barred

/-- R79: the decision goes by the bin map, the lot, the geometry, and which sockets are in service. -/
theorem decideDisposition_congr {r : PartRecord} {code : Byte} (bins : t.binMap = s.binMap) (lot : t.lotTable = s.lotTable)
    (sites : t.siteGeometry = s.siteGeometry) (state : t.lotState = s.lotState) (before : t.remembered = s.remembered)
    (service : ∀ i : Fin 64, t.sockets[i].state = s.sockets[i].state ∧
      t.sockets[i].pendingDisable = s.sockets[i].pendingDisable) :
    decideDisposition t r code = decideDisposition s r code := by
  have takes : retestPossible t r = retestPossible s r := by
    unfold retestPossible running someSocketTakes loadable groupOf State.geometry State.lot
    rw [lot, sites, state, before]
    simp only [service]
  unfold decideDisposition
  rw [bins, takes]

end Sys2Proof.Machine
end

section
/-! PROOFS. Starts of groups, conversions and cancelled orders, as a result of a test meets them. -/

namespace Sys2Proof.Machine

variable {s t u : State}

/-! ## Starts (R58 to R61) -/

/-- Between two states READY sockets may have gone to TESTING, and nothing else has changed of the sockets, their
watchdogs, the part records and the count of retests. -/
structure Starts (s t : State) : Prop where
  parts : t.parts = s.parts
  retests : t.counters.retests = s.counters.retests
  socket : ∀ j : Fin 64, s.sockets[j].state ≠ .ready → t.sockets[j] = s.sockets[j]
  watchdog : ∀ j : Fin 64, s.sockets[j].state ≠ .ready → t.timer (.watchdog j) = s.timer (.watchdog j)

theorem Starts.of_eq (parts : t.parts = s.parts) (counters : t.counters = s.counters) (sockets : t.sockets = s.sockets)
    (watchdog : ∀ j, t.timer (.watchdog j) = s.timer (.watchdog j)) : Starts s t :=
  ⟨parts, congrArg Counters.retests counters, fun _ _ => by rw [sockets], fun j _ => watchdog j⟩

theorem Starts.refl (s : State) : Starts s s := ⟨rfl, rfl, fun _ _ => rfl, fun _ _ => rfl⟩

/-- R61: the members that begin their tests. -/
theorem foldl_beginTest : ∀ (l : List (Fin 64)) (s : State), (l.foldl beginTest s).parts = s.parts ∧
    (l.foldl beginTest s).counters.retests = s.counters.retests ∧
    ∀ j, j ∉ l → (l.foldl beginTest s).sockets[j] = s.sockets[j] ∧
      (l.foldl beginTest s).timer (.watchdog j) = s.timer (.watchdog j)
  | [], s => ⟨rfl, rfl, fun _ _ => ⟨rfl, rfl⟩⟩
  | i :: l, s => by
    obtain ⟨parts, retests, others⟩ := foldl_beginTest l (beginTest s i)
    refine ⟨parts, retests, fun j hj => ?_⟩
    obtain ⟨ne, rest⟩ := not_or.1 (mt List.mem_cons.2 hj)
    obtain ⟨socket, watchdog⟩ := others j rest
    refine ⟨socket.trans ?_, watchdog.trans ?_⟩
    · exact (State.socket_modSocket s i j fun x => { x with state := .testing }).trans (if_neg (Ne.symm ne))
    · rw [beginTest, timer_startTimer, if_neg (by simpa using Ne.symm ne)]
      rfl

theorem starts_startGroup (g : Fin 16) (s : State) : Starts s (startGroup g s) := by
  have sent := offLink_produce .downstream (s.nodeAddress 1) kindSiteStart
    (byte g :: (readyMembers s g).map fun (i : Fin 64) => byte i.val) s
  have same : Starts s (produce .downstream (s.nodeAddress 1) kindSiteStart
      (byte g :: (readyMembers s g).map fun (i : Fin 64) => byte i.val) s) :=
    .of_eq (offLink_parts sent) (offLink_counters sent) (offLink_sockets sent) fun _ => timer_of_timers (offLink_timers sent) _
  obtain ⟨parts, retests, others⟩ := foldl_beginTest (readyMembers s g) (produce .downstream (s.nodeAddress 1) kindSiteStart
    (byte g :: (readyMembers s g).map fun (i : Fin 64) => byte i.val) s)
  have notMember {j : Fin 64} (h : s.sockets[j].state ≠ .ready) : j ∉ readyMembers s g := fun m =>
    h (by simpa [readyMembers] using (List.mem_filter.1 m).2)
  exact ⟨parts.trans same.parts, retests.trans same.retests, fun j h => (others j (notMember h)).1.trans (same.socket j h),
    fun j h => (others j (notMember h)).2.trans (same.watchdog j h)⟩

theorem starts_updateGroupOf (i : Fin 64) (s : State) : Starts s (updateGroupOf i s) := by
  unfold updateGroupOf groupUpdate fillUpdate
  split
  · split
    · exact starts_startGroup _ _
    · split
      · split
        · exact .of_eq rfl rfl rfl fun _ => rfl
        · exact .refl s
      · exact .of_eq rfl rfl rfl fun _ => rfl
  · exact .refl s

theorem opportunityServing_eq (i : Fin 64) (s : State) : ∃ hs, opportunityServing i s = { s with heads := hs } := by
  have one (h : Head) (s : State) : ∃ hs, opportunity h s = { s with heads := hs } := by
    unfold opportunity
    split
    · exact ⟨_, rfl⟩
    · exact ⟨s.heads, rfl⟩
  unfold opportunityServing
  obtain ⟨west, ew⟩ := one .west s
  have first : ∃ hs, (if servedBy s i .west then opportunity .west s else s) = { s with heads := hs } := by
    split
    · exact ⟨west, ew⟩
    · exact ⟨s.heads, rfl⟩
  obtain ⟨hs, e⟩ := first
  rw [e]
  dsimp only
  split
  · obtain ⟨east, ee⟩ := one .east { s with heads := hs }
    exact ⟨east, ee⟩
  · exact ⟨hs, rfl⟩

/-- R63: the end of a test leaves its socket TESTED, and of the others starts READY ones at most. -/
theorem finishTest_spec (i : Fin 64) (s : State) :
    (finishTest i s).sockets[i] = { s.sockets[i] with state := .tested } ∧
    (∀ j : Fin 64, j ≠ i → s.sockets[j].state ≠ .ready → (finishTest i s).sockets[j] = s.sockets[j]) ∧
    (finishTest i s).parts = s.parts ∧ (finishTest i s).counters.retests = s.counters.retests ∧
    (finishTest i s).timer (.watchdog i) = s.timer (.watchdog i) := by
  obtain ⟨hs, e⟩ := opportunityServing_eq i (s.modSocket i fun x => { x with state := .tested })
  have entered : enterTested i s = { s.modSocket i (fun x => { x with state := .tested }) with heads := hs } := e
  have at_j (j : Fin 64) : (enterTested i s).sockets[j] =
      if i = j then { s.sockets[i] with state := .tested } else s.sockets[j] := by
    rw [entered]
    exact State.socket_modSocket s i j fun x => { x with state := .tested }
  have started := starts_updateGroupOf i (enterTested i s)
  have tested : (enterTested i s).sockets[i].state ≠ .ready := by
    rw [at_j, if_pos rfl]
    exact SocketState.noConfusion
  refine ⟨(started.socket i tested).trans ((at_j i).trans (if_pos rfl)), fun j ne notReady => ?_, ?_, ?_, ?_⟩
  · have before : (enterTested i s).sockets[j] = s.sockets[j] := (at_j j).trans (if_neg (Ne.symm ne))
    exact (started.socket j (by rw [before]; exact notReady)).trans before
  · exact started.parts.trans (by rw [entered]; rfl)
  · exact started.retests.trans (by rw [entered]; rfl)
  · exact (started.watchdog i tested).trans (by rw [entered]; rfl)

theorem pends_finishTest {k : EventKind} (i : Fin 64) (h : s.pends k) : (finishTest i s).pends k :=
  pends_updateGroupOf i (pends_enterTested i h)

/-! ## Attempts and dispositions through the cancelling of orders -/

/-- The attempts and the disposition of each device. -/
def State.results (s : State) (k : Fin 96) : Option (List (Fin 64 × Byte) × Disposition) :=
  s.parts[k].map fun r => (r.attempts, r.disposition)

theorem results_of_parts (e : t.parts = s.parts) : t.results = s.results := by
  unfold State.results
  rw [e]

theorem results_some {k : Fin 96} {r : PartRecord} (e : t.results = s.results) (h : s.parts[k] = some r) :
    ∃ y, t.parts[k] = some y ∧ y.attempts = r.attempts ∧ y.disposition = r.disposition := by
  have same := congrFun e k
  unfold State.results at same
  rw [h] at same
  obtain ⟨y, at_k, both⟩ := Option.map_eq_some_iff.1 same
  exact ⟨y, at_k, congrArg Prod.fst both, congrArg Prod.snd both⟩

theorem results_opportunity (h : Head) (s : State) : (opportunity h s).results = s.results := by
  unfold opportunity
  split <;> rfl

theorem results_holeOf (o : Order) (s : State) : (holeOf o s).results = s.results := by
  unfold holeOf holePocket fillTray
  split
  · dsimp only
    split
    · exact results_of_parts (offLink_parts (offLink_raiseEvent _ _ _) :)
    · rfl
  · rfl

theorem results_endPlan (h : Head) (plan : Option Nat) (s : State) : (endPlan h plan s).results = s.results := by
  unfold endPlan dropPlan opportunityBoth
  split
  · rfl
  · split
    · rfl
    · rw [results_opportunity, results_opportunity]
      funext k
      simp [State.results, Option.map_map, Function.comp_def]

theorem results_cancelPending (h : Head) (o : Order) (s : State) : (cancelPending h o s).results = s.results := by
  have point : (leaveQueue h o.tag (cancelPoint h o s)).results = s.results := by
    unfold cancelPoint
    split <;> rfl
  unfold cancelPending
  rw [results_opportunity, results_endPlan, results_holeOf, point]

theorem results_cancelWhere (h : Head) (test : Order → Bool) (s : State) : (cancelWhere h test s).results = s.results := by
  unfold cancelWhere
  generalize (s.head h).queue.filter (fun o => o.isPending && test o) = l
  induction l generalizing s with
  | nil => rfl
  | cons o l ih => exact (ih (cancelPending h o s)).trans (results_cancelPending h o s)

theorem results_cancelPlacesInto (i : Fin 64) (s : State) : (cancelPlacesInto i s).results = s.results := by
  unfold cancelPlacesInto
  rw [results_cancelWhere, results_cancelWhere]

theorem results_cancelCarrying (k : Fin 96) (plan : Option Nat) (s : State) :
    (cancelCarrying k plan s).results = s.results := by
  unfold cancelCarrying
  split
  · rfl
  · rw [results_cancelWhere, results_cancelWhere]

theorem results_carriedOpportunity (k : Fin 96) (s : State) : (carriedOpportunity k s).results = s.results := by
  unfold carriedOpportunity
  split
  · split
    · rfl
    · exact results_opportunity _ _
  · rfl

/-! ## Conversions (R80 to R83) -/

/-- Between two states some RETEST devices have gone to their final bins. -/
structure Converts (s t : State) : Prop where
  binMap : t.binMap = s.binMap
  part : ∀ (k : Fin 96) r, s.parts[k] = some r → ∃ y, t.parts[k] = some y ∧ y.attempts = r.attempts ∧
    (y.disposition = r.disposition ∨ r.disposition = .retest ∧ y.disposition = (finalDisposition s r).1)

theorem Converts.of_results (bins : t.binMap = s.binMap) (e : t.results = s.results) : Converts s t :=
  ⟨bins, fun _ _ h =>
    have ⟨y, at_k, attempts, disposition⟩ := results_some e h
    ⟨y, at_k, attempts, .inl disposition⟩⟩

theorem finalDisposition_ne_retest (s : State) (r : PartRecord) : (finalDisposition s r).1 ≠ .retest := by
  unfold finalDisposition
  split
  · exact Disposition.noConfusion
  · split <;> exact Disposition.noConfusion

theorem finalDisposition_congr {r y : PartRecord} (bins : t.binMap = s.binMap) (attempts : y.attempts = r.attempts) :
    finalDisposition t y = finalDisposition s r := by
  unfold finalDisposition
  rw [bins, attempts]

theorem Converts.trans (a : Converts s t) (b : Converts t u) : Converts s u := by
  refine ⟨b.binMap.trans a.binMap, fun k r h => ?_⟩
  obtain ⟨y, at_y, attempts, first⟩ := a.part k r h
  obtain ⟨z, at_z, attempts', second⟩ := b.part k y at_y
  refine ⟨z, at_z, attempts'.trans attempts, ?_⟩
  obtain same | ⟨retest, final⟩ := second
  · rw [same]
    exact first
  · obtain same | ⟨-, converted⟩ := first
    · exact .inr ⟨same ▸ retest, final.trans (congrArg Prod.fst (finalDisposition_congr a.binMap attempts))⟩
    · exact absurd (converted ▸ retest) (finalDisposition_ne_retest s r)

theorem converts_convert (i : Fin 96) (s : State) : Converts s (convert i s) := by
  have bins : (convert i s).binMap = s.binMap := benchView_binMap (benchView_convert i s)
  cases found : s.parts[i] with
  | none =>
    have same : convert i s = s := by
      unfold convert
      rw [found]
    rw [same]
    exact .of_results rfl rfl
  | some x =>
    by_cases retest : x.disposition = .retest
    · have results : (convert i s).results =
          (s.modPart i fun y => { y with disposition := (finalDisposition s x).1 }).results := by
        unfold convert
        rw [found]
        dsimp only
        rw [if_pos retest, results_carriedOpportunity, results_cancelCarrying]
        split
        · exact results_of_parts (offLink_parts (offLink_raiseEvent _ _ _))
        · rfl
      refine ⟨bins, fun k r h => ?_⟩
      by_cases e : i = k
      · subst e
        obtain rfl : x = r := Option.some.inj (found.symm.trans h)
        obtain ⟨y, at_k, attempts, disposition⟩ := results_some results
          (r := { x with disposition := (finalDisposition s x).1 }) (k := i)
          (by rw [State.part_modPart, if_pos rfl, found]; rfl)
        exact ⟨y, at_k, attempts, .inr ⟨retest, disposition⟩⟩
      · obtain ⟨y, at_k, attempts, disposition⟩ := results_some results (r := r) (k := k)
          (by rw [State.part_modPart, if_neg e, h])
        exact ⟨y, at_k, attempts, .inl disposition⟩
    · have same : convert i s = s := by
        unfold convert
        rw [found]
        exact if_neg retest
      rw [same]
      exact .of_results rfl rfl

theorem converts_reexamine (s : State) : Converts s (reexamine s) := by
  unfold reexamine
  generalize List.finRange 96 = l
  induction l generalizing s with
  | nil => exact .of_results rfl rfl
  | cons i l ih =>
    refine Converts.trans ?_ (ih _)
    dsimp only
    split
    · split
      · exact converts_convert i s
      · exact .of_results rfl rfl
    · exact .of_results rfl rfl

/-! ## Cancelled PLACEs (R71) -/

theorem queue_cancelPending (h : Head) (o : Order) (s : State) :
    ((cancelPending h o s).head h).queue.Sublist ((s.head h).queue.filter fun q => !(q.tag == o.tag)) := by
  have after := (((drops_holeOf o (leaveQueue h o.tag (cancelPoint h o s))).trans (drops_endPlan h o.plan _)).trans
    (drops_opportunity h _)).head h
  refine after.queue.trans ?_
  rw [head_leaveQueue]
  exact ((drops_cancelPoint h o s).head h).queue.filter _

/-- R125, R71: no pending order that meets the test is left. -/
theorem cancelWhere_queue (h : Head) (test : Order → Bool) (s : State) :
    ∀ o ∈ ((cancelWhere h test s).head h).queue, (o.isPending && test o) = false :=
  foldl_removes_all (fun t o => queue_cancelPending h o t) s

/-- R71: no pending PLACE into the socket is left in a queue. -/
theorem cancelPlacesInto_queue (i : Fin 64) (s : State) (h : Head) :
    ∀ o ∈ ((cancelPlacesInto i s).head h).queue, o.isPending = true →
      ¬ (o.action = .place ∧ o.location = some (.socket i)) := by
  intro o ho pending places
  have fails : (o.isPending && (o.action == .place && o.location == some (.socket i))) = false := by
    cases h with
    | east => exact cancelWhere_queue .east _ _ o ho
    | west => exact cancelWhere_queue .west _ _ o (((drops_cancelWhere .east _ _).head .west).queue.subset ho)
  simp [pending, places.1, places.2] at fails

end Sys2Proof.Machine
end

section
/-! PROOFS. Taking the result of a test, step by step: O26. -/

namespace Sys2Proof.Machine

variable {s t u : State}

/-! ## The attempt and the decision (R63 steps 1 to 3) -/

/-- R63: the state between the attempt and the decision, for a socket that holds record `k`. -/
def attempted (i : Fin 64) (k : Fin 96) (code : Byte) (time : Nat) (s : State) : State :=
  ((cancelTimer (.watchdog i) s).modSocket i fun x => { x with last := some (code, time) }).modPart k fun r =>
    { r with attempts := r.attempts ++ [(i, code)] }

theorem recordAttempt_eq {i : Fin 64} {k : Fin 96} (code : Byte) (time : Nat) (held : s.sockets[i].record = some k) :
    recordAttempt i code time (cancelTimer (.watchdog i) s) = attempted i k code time s := by
  have record : ((cancelTimer (.watchdog i) s).modSocket i fun x => { x with last := some (code, time) }).sockets[i].record
      = some k := by
    rw [State.socket_modSocket, if_pos rfl]
    exact held
  unfold recordAttempt
  dsimp only
  rw [record]
  rfl

theorem socket_attempted (i j : Fin 64) (k : Fin 96) (code : Byte) (time : Nat) (s : State) :
    (attempted i k code time s).sockets[j] =
      if i = j then { s.sockets[i] with last := some (code, time) } else s.sockets[j] :=
  State.socket_modSocket (cancelTimer (.watchdog i) s) i j fun x => { x with last := some (code, time) }

theorem part_attempted (i : Fin 64) (k j : Fin 96) (code : Byte) (time : Nat) (s : State) :
    (attempted i k code time s).parts[j] =
      if k = j then s.parts[k].map fun r => { r with attempts := r.attempts ++ [(i, code)] } else s.parts[j] :=
  State.part_modPart (cancelTimer (.watchdog i) s) k j fun r => { r with attempts := r.attempts ++ [(i, code)] }

/-- R79: the attempt bears on the decision through the device alone. -/
theorem decideDisposition_attempted (i : Fin 64) (k : Fin 96) (code : Byte) (time : Nat) (s : State) (r : PartRecord) :
    decideDisposition (attempted i k code time s) r code = decideDisposition s r code := by
  refine decideDisposition_congr rfl rfl rfl rfl rfl fun j => ?_
  rw [socket_attempted]
  split
  · next e =>
    subst e
    exact ⟨rfl, rfl⟩
  · exact ⟨rfl, rfl⟩

/-- R63 step 2: a device with the attempt appended. -/
def PartRecord.tested (r : PartRecord) (i : Fin 64) (code : Byte) : PartRecord :=
  { r with attempts := r.attempts ++ [(i, code)] }

/-- R63 steps 1 to 3: what has been taken of a result when its disposition is decided. -/
structure Decided (i : Fin 64) (k : Fin 96) (r : PartRecord) (code : Byte) (time : Nat) (s v : State) : Prop where
  socket : ∀ j : Fin 64, v.sockets[j] = if i = j then { s.sockets[i] with last := some (code, time) } else s.sockets[j]
  part : ∀ j : Fin 96, v.parts[j] =
    if k = j then some { r.tested i code with disposition := decideDisposition s (r.tested i code) code } else s.parts[j]
  retests : v.counters.retests = if decideDisposition s (r.tested i code) code = .retest then satSucc s.counters.retests
    else s.counters.retests
  watchdog : v.timer (.watchdog i) = .clear
  binMap : v.binMap = s.binMap
  lot : v.lot = s.lot
  unmapped : s.binMap[code.toFin] = none → v.pends .unmappedResult

theorem decideResult_spec {i : Fin 64} {k : Fin 96} {r : PartRecord} (code : Byte) (time : Nat)
    (held : s.sockets[i].record = some k) (device : s.parts[k] = some r) :
    Decided i k r code time s (decideResult i code time s) := by
  let d := decideDisposition s (r.tested i code) code
  let v := (attempted i k code time s).modPart k fun x => { x with disposition := d }
  let w := if d = .retest then v.modCounters fun c => { c with retests := satSucc c.retests } else v
  have found : (attempted i k code time s).sockets[i].record.bind
      (fun k' => ((attempted i k code time s).parts[k'].map fun r => (k', r))) = some (k, r.tested i code) := by
    rw [socket_attempted, if_pos rfl]
    dsimp only
    rw [held]
    dsimp only [Option.bind_some]
    rw [part_attempted, if_pos rfl, device]
    rfl
  have result : decideResult i code time s =
      if w.binMap[code.toFin] = none then raiseEvent .unmappedResult i w else w := by
    unfold decideResult setDisposition
    rw [recordAttempt_eq code time held, found]
    dsimp only
    rw [decideDisposition_attempted]
  have bare : w.sockets = v.sockets ∧ w.parts = v.parts ∧ w.timers = v.timers ∧ w.binMap = v.binMap ∧
      w.lotTable = v.lotTable ∧ w.counters.retests = if d = .retest then satSucc v.counters.retests else v.counters.retests := by
    dsimp only [w]
    split <;> exact ⟨rfl, rfl, rfl, rfl, rfl, rfl⟩
  obtain ⟨sockets, parts, timers, bins, lot, retests⟩ := bare
  have off : (decideResult i code time s).offLink = w.offLink := by
    rw [result]
    split
    · exact offLink_raiseEvent _ _ _
    · rfl
  refine ⟨fun j => ?_, fun j => ?_, ?_, ?_, (offLink_binMap off).trans bins, ?_, fun none' => ?_⟩
  · rw [offLink_sockets off, sockets]
    exact socket_attempted i j k code time s
  · rw [offLink_parts off, parts]
    refine (State.part_modPart (attempted i k code time s) k j _).trans ?_
    rw [part_attempted, part_attempted, if_pos rfl, device]
    split
    · rfl
    · rfl
  · rw [offLink_counters off, retests]
    rfl
  · rw [timer_of_timers ((offLink_timers off).trans timers)]
    exact (timer_cancelTimer s (.watchdog i) (.watchdog i)).trans (if_pos rfl)
  · unfold State.lot
    rw [offLink_lotTable off, lot]
    rfl
  · rw [result, if_pos (by rw [bins]; exact none')]
    exact raiseEvent_pends _ _ _

end Sys2Proof.Machine
end

section
/-! PROOFS. The fault of a result, and O26. -/

namespace Sys2Proof.Machine

variable {s t u : State}

/-! ## Pending-disable on a TESTING socket (R71) -/

theorem eq_of_unplanned {a b : Socket} (e : a.unplanned = b.unplanned) : a = { b with plan := a.plan } := by
  cases a
  cases b
  simp only [Socket.unplanned, Socket.mk.injEq] at e ⊢
  simp [e]

/-- R71: what setting pending-disable on a TESTING socket leaves. -/
structure Disabled (i : Fin 64) (cause : DisableCause) (s t : State) : Prop where
  socket : t.sockets[i] = { s.sockets[i] with plan := t.sockets[i].plan, pendingDisable := some cause }
  watchdog : t.timer (.watchdog i) = s.timer (.watchdog i)
  retests : t.counters.retests = s.counters.retests
  converts : Converts s t
  queues : ∀ h, ∀ o ∈ (t.head h).queue, o.isPending = true → ¬ (o.action = .place ∧ o.location = some (.socket i))

theorem binMap_updateGroupOf (i : Fin 64) (s : State) : (updateGroupOf i s).binMap = s.binMap := by
  have begun : ∀ (l : List (Fin 64)) (s : State), (l.foldl beginTest s).binMap = s.binMap := by
    intro l
    induction l with
    | nil => exact fun _ => rfl
    | cons i l ih => exact fun s => ih (beginTest s i)
  unfold updateGroupOf groupUpdate fillUpdate
  split
  · split
    · exact (begun _ _).trans (offLink_binMap (offLink_produce _ _ _ _ _))
    · split
      · split <;> rfl
      · rfl
  · rfl

theorem setPendingDisable_testing {i : Fin 64} (cause : DisableCause) (testing : s.sockets[i].state = .testing) :
    Disabled i cause s (setPendingDisable i cause s) := by
  let marked := s.modSocket i fun x => { x with pendingDisable := some cause }
  let settled := reexamine (cancelPlacesInto i marked)
  have at_i : marked.sockets[i] = { s.sockets[i] with pendingDisable := some cause } :=
    (State.socket_modSocket s i i _).trans (if_pos rfl)
  have view : settled.benchView = marked.benchView := by
    simp only [settled, cancelPlacesInto, benchView_reexamine, benchView_cancelWhere]
  have state : settled.sockets[i].state = .testing := (benchView_socketState view i).trans (by rw [at_i]; exact testing)
  have notReady : settled.sockets[i].state ≠ .ready := by
    rw [state]
    exact SocketState.noConfusion
  have notEmpty : settled.sockets[i].state ≠ .empty := by
    rw [state]
    exact SocketState.noConfusion
  have started := starts_updateGroupOf i settled
  have same := started.socket i notReady
  have whole : setPendingDisable i cause s = updateGroupOf i settled := by
    unfold setPendingDisable
    dsimp only
    refine if_neg fun empty => notEmpty ?_
    rw [← same]
    exact empty.1
  have bare := eq_of_unplanned (benchView_socket view i)
  rw [whole]
  refine ⟨?_, (started.watchdog i notReady).trans (benchView_watchdog view i),
    started.retests.trans (congrArg Counters.retests (benchView_counters view) :), ?_, fun h o ho => ?_⟩
  · rw [same]
    refine bare.trans ?_
    rw [at_i]
  · have placed : (cancelPlacesInto i marked).benchView = marked.benchView := by
      simp only [cancelPlacesInto, benchView_cancelWhere]
    have cancelled : Converts s (cancelPlacesInto i marked) :=
      .of_results (benchView_binMap placed :) (results_cancelPlacesInto i marked)
    exact (cancelled.trans (converts_reexamine _)).trans
      (.of_results (binMap_updateGroupOf i settled) (results_of_parts started.parts))
  · exact cancelPlacesInto_queue i marked h o
      ((((drops_reexamine _).trans (drops_updateGroupOf i _)).head h).queue.subset ho)

/-! ## Faults (R69, R70) -/

/-- R70: a fault brings the count of a socket to the lot's threshold. -/
def reachesThreshold (i : Fin 64) (s : State) : Prop :=
  s.sockets[i].pendingDisable = none ∧ s.lot.faultThreshold ≠ 0 ∧ s.lot.faultThreshold ≤ faultSucc s.sockets[i].faultCount

/-- R69: a socket with one more fault. -/
def Socket.faulted (x : Socket) (k : FaultKind) : Socket :=
  { x with faults := x.faults.add k, faultCount := faultSucc x.faultCount }

theorem noteFault_eq (i : Fin 64) (k : FaultKind) (s : State) :
    noteFault i k s = checkThreshold i (s.modSocket i fun x => x.faulted k) := rfl

theorem noteFault_below {i : Fin 64} (k : FaultKind) (below : ¬ reachesThreshold i s) :
    noteFault i k s = s.modSocket i fun x => x.faulted k := by
  rw [noteFault_eq]
  unfold checkThreshold
  dsimp only
  rw [State.socket_modSocket, if_pos rfl]
  exact if_neg fun ⟨nonzero, reached, enabled, _⟩ => below ⟨enabled, nonzero, reached⟩

theorem noteFault_reached {i : Fin 64} (k : FaultKind) (reached : reachesThreshold i s)
    (inService : s.sockets[i].state ≠ .off) :
    noteFault i k s = setPendingDisable i .fault (s.modSocket i fun x => x.faulted k) := by
  obtain ⟨enabled, nonzero, atLeast⟩ := reached
  rw [noteFault_eq]
  unfold checkThreshold
  dsimp only
  rw [State.socket_modSocket, if_pos rfl]
  exact if_pos ⟨nonzero, atLeast, enabled, inService⟩

/-! ## The report as a frame (R15, R63) -/

theorem fits_siteReport {f : Frame} (kind : f.kind = kindSiteReport) (length : f.payload.length = 7) :
    lengthFits f.kind f.payload.length = true := by
  rw [kind, length]
  decide

theorem ownerOf_siteReport {f : Frame} (owned : s.owned .downstream f kindSiteReport 1) :
    ownerOf .downstream f s = some .site := by
  obtain ⟨working, -, written, kind, node⟩ := owned
  unfold ownerOf
  rw [working, written, if_pos (by decide), if_pos ⟨kind, node⟩]

theorem Decided.dispositionAt {i : Fin 64} {k : Fin 96} {r : PartRecord} {code : Byte} {time : Nat}
    (d : Decided i k r code time s t) (held : s.sockets[i].record = some k) :
    dispositionAt t i = decideDisposition s (r.tested i code) code := by
  have record : t.sockets[i].record = some k := by
    rw [d.socket, if_pos rfl]
    exact held
  unfold Machine.dispositionAt
  rw [record, Option.bind_some, d.part, if_pos rfl]
  rfl

/-- R15: a SITE REPORT with a disposition written into it. -/
def Frame.annotated (f : Frame) (d : Disposition) : Frame := { f with payload := f.payload.set 6 d.code }

/-- R15, R63: a SITE REPORT of a TESTING socket goes on with its disposition. -/
theorem deliver_siteReport {f : Frame} {i : Fin 64} {k : Fin 96} {r : PartRecord}
    (names : fieldAt f.payload 0 1 = i.val) (testing : s.sockets[i].state = .testing)
    (held : s.sockets[i].record = some k) (device : s.parts[k] = some r) :
    deliver .site f s = (takeResult i (byteAt f.payload 1) (fieldAt f.payload 2 4) s,
      f.annotated (decideDisposition s (r.tested i (byteAt f.payload 1)) (byteAt f.payload 1))) := by
  have d := decideResult_spec (byteAt f.payload 1) (fieldAt f.payload 2 4) held device
  unfold deliver siteDelivery
  dsimp only
  rw [names, finOf_val]
  dsimp only
  rw [if_pos testing, d.dispositionAt held]
  rfl

/-! ## The result (R63, R69 to R71) -/

/-- R63 step 4: what the fault mark of a result does. -/
def marked (i : Fin 64) (code : Byte) (s : State) : State :=
  if faultMark s code then noteFault i .result s else s.modSocket i fun x => { x with faultCount := 0 }

theorem takeResult_eq (i : Fin 64) (code : Byte) (time : Nat) (s : State) :
    takeResult i code time s = finishTest i (marked i code (decideResult i code time s)) := rfl

theorem exec_siteReport {bytes : List Byte} {f : Frame} {i : Fin 64} {k : Fin 96} {r : PartRecord} {c : Instr}
    (hc : c ∈ arrivals .downstream bytes) (takes : s.takes bytes f) (owned : s.owned .downstream f kindSiteReport 1)
    (length : f.payload.length = 7) (names : fieldAt f.payload 0 1 = i.val) (testing : s.sockets[i].state = .testing)
    (held : s.sockets[i].record = some k) (device : s.parts[k] = some r) :
    exec c s = .next (if s.ownAddress = some f.destination then
        finish (takeResult i (byteAt f.payload 1) (fieldAt f.payload 2 4) s)
      else offer .downstream (f.annotated (decideDisposition s (r.tested i (byteAt f.payload 1)) (byteAt f.payload 1)))
        (finish (takeResult i (byteAt f.payload 1) (fieldAt f.payload 2 4) s))) := by
  rw [exec_takes hc takes, classify_owned (ownerOf_siteReport owned) (fits_siteReport owned.2.2.2.1 length),
    deliver_siteReport names testing held device]

variable {i : Fin 64} {k : Fin 96} {r : PartRecord} {code : Byte} {time : Nat}

theorem Decided.faultMark (d : Decided i k r code time s t) : faultMark t code = faultMark s code := by
  unfold Machine.faultMark
  rw [d.binMap]

theorem Decided.reachesThreshold_iff (d : Decided i k r code time s t) :
    reachesThreshold i t ↔ reachesThreshold i s := by
  unfold reachesThreshold
  rw [d.lot, d.socket, if_pos rfl]

/-- R69, R70: a result that does not bring the fault count to the threshold changes the socket alone. -/
theorem Decided.marked_below (d : Decided i k r code time s t)
    (below : ¬ (Machine.faultMark s code = true ∧ reachesThreshold i s)) : marked i code t = t.modSocket i fun x =>
      if Machine.faultMark s code then x.faulted .result else { x with faultCount := 0 } := by
  unfold marked
  rw [d.faultMark]
  split
  · next mark => exact noteFault_below .result fun reached => below ⟨mark, d.reachesThreshold_iff.1 reached⟩
  · rfl

theorem Decided.marked_reached (d : Decided i k r code time s t) (testing : s.sockets[i].state = .testing)
    (mark : Machine.faultMark s code = true) (reached : reachesThreshold i s) :
    Disabled i .fault (t.modSocket i fun x => x.faulted .result) (marked i code t) := by
  have state : t.sockets[i].state = .testing := by
    rw [d.socket, if_pos rfl]
    exact testing
  have disabled : marked i code t = setPendingDisable i .fault (t.modSocket i fun x => x.faulted .result) := by
    unfold marked
    rw [d.faultMark, if_pos mark]
    refine noteFault_reached .result (d.reachesThreshold_iff.2 reached) ?_
    rw [state]
    exact SocketState.noConfusion
  rw [disabled]
  refine setPendingDisable_testing .fault ?_
  rw [State.socket_modSocket, if_pos rfl]
  exact state

/-- R63 step 4: whether or not the threshold is reached, the watchdog and the count of retests stay. -/
theorem Decided.marked_keeps (d : Decided i k r code time s t) (testing : s.sockets[i].state = .testing) :
    (marked i code t).timer (.watchdog i) = t.timer (.watchdog i) ∧
      (marked i code t).counters.retests = t.counters.retests := by
  by_cases reached : Machine.faultMark s code = true ∧ reachesThreshold i s
  · have disabled := d.marked_reached testing reached.1 reached.2
    exact ⟨disabled.watchdog, disabled.retests⟩
  · rw [d.marked_below reached]
    exact ⟨rfl, rfl⟩

/-- R78: an unwritten entry has no fault mark, and UNMAPPED_RESULT stays pending. -/
theorem Decided.pends (d : Decided i k r code time s t) (none' : s.binMap[code.toFin] = none) :
    (finishTest i (marked i code t)).pends .unmappedResult := by
  have noMark : ¬ (Machine.faultMark s code = true ∧ reachesThreshold i s) := fun h => by
    rw [(decideDisposition_unmapped (r := r) none').2] at h
    exact Bool.false_ne_true h.1
  refine pends_finishTest i ?_
  rw [d.marked_below noMark]
  exact d.unmapped none'

/-- R63 to R71: the result of a test whose socket stays in service. -/
theorem Decided.result_below (d : Decided i k r code time s t)
    (below : ¬ (Machine.faultMark s code = true ∧ reachesThreshold i s)) :
    (finishTest i (marked i code t)).sockets[i] =
      { s.sockets[i] with
        state := .tested
        last := some (code, time)
        faults := if Machine.faultMark s code then s.sockets[i].faults.add .result else s.sockets[i].faults
        faultCount := if Machine.faultMark s code then faultSucc s.sockets[i].faultCount else 0 } ∧
    (finishTest i (marked i code t)).parts[k] =
      some { r.tested i code with disposition := decideDisposition s (r.tested i code) code } ∧
    (∀ j : Fin 96, j ≠ k → (finishTest i (marked i code t)).parts[j] = s.parts[j]) ∧
    ∀ j : Fin 64, j ≠ i → s.sockets[j].state ≠ .ready → (finishTest i (marked i code t)).sockets[j] = s.sockets[j] := by
  obtain ⟨socket, others, parts, -⟩ := finishTest_spec i (marked i code t)
  rw [d.marked_below below] at socket others parts ⊢
  rw [parts]
  have other (j : Fin 64) (ne : j ≠ i) : (t.modSocket i fun x =>
      if Machine.faultMark s code then x.faulted .result else { x with faultCount := 0 }).sockets[j] = s.sockets[j] := by
    rw [State.socket_modSocket, if_neg (Ne.symm ne), d.socket, if_neg (Ne.symm ne)]
  refine ⟨socket.trans ?_, (d.part k).trans (if_pos rfl), fun j ne => (d.part j).trans (if_neg (Ne.symm ne)),
    fun j ne notReady => ?_⟩
  · rw [State.socket_modSocket, if_pos rfl, d.socket, if_pos rfl]
    split <;> rfl
  · rw [others j ne (by rw [other j ne]; exact notReady), other j ne]

/-- R70, R71: the result of a test that brings its socket to the fault threshold. -/
theorem Decided.result_reached (d : Decided i k r code time s t) (testing : s.sockets[i].state = .testing)
    (mark : Machine.faultMark s code = true) (reached : reachesThreshold i s) :
    (finishTest i (marked i code t)).sockets[i] =
      { s.sockets[i] with
        state := .tested
        last := some (code, time)
        faults := s.sockets[i].faults.add .result
        faultCount := faultSucc s.sockets[i].faultCount
        plan := (finishTest i (marked i code t)).sockets[i].plan
        pendingDisable := some .fault } ∧
    (∀ h, ∀ o ∈ ((finishTest i (marked i code t)).head h).queue, o.isPending = true →
      ¬ (o.action = .place ∧ o.location = some (.socket i))) ∧
    ∃ y, (finishTest i (marked i code t)).parts[k] = some y ∧ y.tag = r.tag ∧ y.place = r.place ∧
      y.attempts = (r.tested i code).attempts ∧
      (y.disposition = decideDisposition s (r.tested i code) code ∨
        decideDisposition s (r.tested i code) code = .retest ∧
          y.disposition = (finalDisposition s (r.tested i code)).1) := by
  have disabled := d.marked_reached testing mark reached
  obtain ⟨socket, -, parts, -⟩ := finishTest_spec i (marked i code t)
  have drops : Drops (marked i code t) (finishTest i (marked i code t)) :=
    (drops_enterTested _ _).trans (drops_updateGroupOf _ _)
  have device : t.parts[k] = some { r.tested i code with disposition := decideDisposition s (r.tested i code) code } :=
    (d.part k).trans (if_pos rfl)
  have custody : (marked i code t).custody = t.custody := by
    unfold marked
    rw [d.faultMark, if_pos mark, custody_noteFault]
  refine ⟨?_, fun h o ho => disabled.queues h o ((drops.head h).queue.subset ho), ?_⟩
  · rw [socket]
    refine (congrArg (fun x : Socket => { x with state := .tested }) disabled.socket).trans ?_
    rw [State.socket_modSocket, if_pos rfl, d.socket, if_pos rfl]
    rfl
  · obtain ⟨y, at_k, tag, place, attempts⟩ := custody_record custody device
    obtain ⟨z, at_k', -, disposition⟩ := disabled.converts.part k _ device
    obtain rfl : y = z := Option.some.inj (at_k.symm.trans at_k')
    refine ⟨y, by rw [parts]; exact at_k, tag, place, attempts, ?_⟩
    obtain same | ⟨retest, final⟩ := disposition
    · exact .inl same
    · exact .inr ⟨retest, final.trans (congrArg Prod.fst (finalDisposition_congr d.binMap rfl))⟩

/-- Settles O26. -/
theorem siteReportTaken : Obligations.SiteReportTaken := by
  refine ⟨fun s bytes f i k r takes owned length names testing held device => ?_, fun s r code => ?_, loadable_iff⟩
  · intro x code tested d faults count reached
    have decided := decideResult_spec code (fieldAt f.payload 2 4) held device
    have whole := takeResult_eq i code (fieldAt f.payload 2 4) s
    have reached_iff : reached ↔ faultMark s code = true ∧ reachesThreshold i s := by
      refine and_congr_right fun mark => ?_
      simp only [count, mark, if_true]
      rfl
    refine ⟨takeResult i code (fieldAt f.payload 2 4) s,
      fun c hc => exec_siteReport hc takes owned length names testing held device, ?_⟩
    rw [whole]
    obtain ⟨-, -, -, retests, watchdog⟩ := finishTest_spec i (marked i code (decideResult i code (fieldAt f.payload 2 4) s))
    obtain ⟨watchdog', retests'⟩ := decided.marked_keeps testing
    refine ⟨watchdog.trans (watchdog'.trans decided.watchdog), retests.trans (retests'.trans decided.retests),
      fun none' => decided.pends none', fun below => ?_, fun at_least => ?_⟩
    · exact decided.result_below (mt reached_iff.2 below)
    · obtain ⟨mark, threshold⟩ := reached_iff.1 at_least
      obtain ⟨socket, queues, part⟩ := decided.result_reached testing mark threshold
      refine ⟨socket.trans ?_, queues, part⟩
      simp only [faults, count, mark, if_true]
      rfl
  · intro d possible
    refine ⟨decideDisposition_unmapped, fun e mapped => ?_⟩
    obtain ⟨mark, bin, hold, retest, final⟩ := decideDisposition_mapped (r := r) mapped
    have iff : retestPossible s r = true ↔ possible := retestPossible_iff s r
    exact ⟨mark, bin, hold, fun cls yes => retest cls (iff.2 yes), fun cls no => final cls (mt iff.1 no)⟩

end Sys2Proof.Machine
end

section
/-! PROOFS. Registration from the shuttle: O36. -/

namespace Sys2Proof.Machine

variable {s t : State}

/-! ## Opportunities (R97) -/

/-- The state with the heads' marks of a waiting opportunity as given (R97, log 4). -/
def State.withMarks (s : State) (west east : Bool) : State :=
  { s with heads := ⟨{ s.heads.west with passDue := west }, { s.heads.east with passDue := east }⟩ }

@[simp] theorem State.nozzles_withMarks (s : State) (west east : Bool) (h : Head) :
    ((s.withMarks west east).head h).nozzles = (s.head h).nozzles := by cases h <;> rfl

/-- R97: an opportunity changes the marks alone. -/
theorem opportunity_eq (h : Head) (s : State) : ∃ west east, opportunity h s = s.withMarks west east := by
  unfold opportunity
  split
  · cases h
    · exact ⟨true, s.heads.east.passDue, rfl⟩
    · exact ⟨s.heads.west.passDue, true, rfl⟩
  · exact ⟨s.heads.west.passDue, s.heads.east.passDue, rfl⟩

theorem opportunityBoth_eq (s : State) : ∃ west east, opportunityBoth s = s.withMarks west east := by
  obtain ⟨a, b, first⟩ := opportunity_eq .west s
  obtain ⟨c, d, second⟩ := opportunity_eq .east (s.withMarks a b)
  exact ⟨c, d, (congrArg (opportunity .east) first).trans second⟩

theorem opportunityServing_marks (i : Fin 64) (s : State) : ∃ west east, opportunityServing i s = s.withMarks west east := by
  have served (h : Head) (s : State) : ∃ west east, (if servedBy s i h then opportunity h s else s) = s.withMarks west east := by
    split
    · exact opportunity_eq h s
    · exact ⟨s.heads.west.passDue, s.heads.east.passDue, rfl⟩
  obtain ⟨a, b, first⟩ := served .west s
  obtain ⟨c, d, second⟩ := served .east (s.withMarks a b)
  exact ⟨c, d, (congrArg (fun u => if servedBy u i .east then opportunity .east u else u) first).trans second⟩

/-! ## Registration (R20, R27) -/

/-- R20: the lowest free record is the one a registration takes. -/
theorem freeRecord_eq {k : Fin 96} (free : s.parts[k] = none) (lowest : ∀ j : Fin 96, j < k → s.parts[j] ≠ none) :
    freeRecord s = some k := by
  cases found : freeRecord s with
  | none => exact absurd (List.find?_eq_none.1 found k (List.mem_finRange k)) (by simpa using free)
  | some j =>
    obtain ⟨free', lowest'⟩ := freeRecord_spec found
    obtain below | same | above := lt_trichotomy j k
    · exact absurd free' (lowest j below)
    · rw [same]
    · exact absurd free (lowest' k above)

/-- R20, R27: what a registration writes, but for the opportunity it is. -/
def registered (i : Fin 8) (tag : Nat) (k : Fin 96) (s : State) : State :=
  ((s.setPart k (some ⟨tag, .input i, [], .none, none⟩)).modInput i fun x =>
    { x with record := some k, taken := none }).modCounters fun c => { c with registered := satSucc c.registered }

theorem register_eq {i : Fin 8} {tag : Nat} {k : Fin 96} (found : freeRecord s = some k) :
    ∃ west east, register i tag s = (registered i tag k s).withMarks west east := by
  unfold register
  rw [found]
  exact opportunityBoth_eq _

/-- Settles O36. -/
theorem registrationTakesLowestRecord : Obligations.RegistrationTakesLowestRecord := by
  intro s i tag k free lowest t
  obtain ⟨west, east, whole⟩ := register_eq (i := i) (tag := tag) (freeRecord_eq free lowest)
  have result : t = (registered i tag k s).withMarks west east := whole
  have part (j : Fin 96) : t.parts[j] = if k = j then some ⟨tag, .input i, [], .none, none⟩ else s.parts[j] := by
    rw [result]
    exact State.part_setPart s k j _
  have input (j : Fin 8) : t.inputs[j] =
      if i = j then { s.inputs[i] with record := some k, taken := none } else s.inputs[j] := by
    rw [result]
    exact State.input_modInput (s.setPart k _) i j fun x => { x with record := some k, taken := none }
  refine ⟨(part k).trans (if_pos rfl), fun j other => (part j).trans (if_neg (Ne.symm other)),
    (input i).trans (if_pos rfl), fun j other => (input j).trans (if_neg (Ne.symm other)), ?_⟩
  rw [result]
  exact ⟨rfl, rfl, rfl, rfl, rfl, rfl, rfl⟩

end Sys2Proof.Machine
end

section
/-! PROOFS. The table of shuttle reports: O35. -/

namespace Sys2Proof.Machine

variable {s t : State}

/-! ## The delivery (R5, R6) -/

theorem fits_shuttleReport {f : Frame} (kind : f.kind = kindShuttleReport) (length : f.payload.length = 5) :
    lengthFits f.kind f.payload.length = true := by
  rw [kind, length]
  decide

theorem ownerOf_shuttleReport {f : Frame} (owned : s.owned .downstream f kindShuttleReport 4) :
    ownerOf .downstream f s = some .shuttle := by
  obtain ⟨working, -, written, kind, node⟩ := owned
  have otherKind {k : Byte} {n : Fin 5} (ne : kindShuttleReport ≠ k) : ¬ (f.kind = k ∧ s.node[n] = some f.source) :=
    fun e => ne (kind.symm.trans e.1)
  unfold ownerOf
  rw [working, written, if_pos (by decide), if_neg (otherKind (by decide)), if_neg (otherKind (by decide)),
    if_neg (otherKind (by decide)), if_pos ⟨kind, node⟩]

/-! ## What a report finds (R22, R27, R28) -/

/-- R22: a tag is in use when a record in use carries it. -/
theorem tagInUse_iff (s : State) (tag : Nat) :
    tagInUse s tag = true ↔ ∃ (k : Fin 96) (r : PartRecord), s.parts[k] = some r ∧ r.tag = tag := by
  simp [tagInUse, Option.any_eq_true]

theorem isGranted_iff (o : Order) : o.isGranted = true ↔ o.state = .outstanding ∨ o.state = .unknown := by
  simp [Order.isGranted]

/-- R28: a granted PICK of the reserving plan lifts the device of an input slot. -/
theorem pickUnderWay_iff (i : Fin 8) (s : State) : pickUnderWay i s = true ↔
    ∃ p, s.inputs[i].plan = some p ∧ ∃ h, ∃ o ∈ (s.head h).queue, o.plan = some p ∧ o.action = .pick ∧
      o.location = some (.input i) ∧ (o.state = .outstanding ∨ o.state = .unknown) := by
  have queues (o : Order) : o ∈ s.heads.west.queue ++ s.heads.east.queue ↔ ∃ h, o ∈ (s.head h).queue := by
    rw [List.mem_append]
    exact ⟨Or.rec (⟨.west, ·⟩) (⟨.east, ·⟩), fun ⟨h, m⟩ => by cases h <;> simp_all [State.head, PerHead.get]⟩
  unfold pickUnderWay
  cases s.inputs[i].plan with
  | none => simp
  | some p =>
    simp only [Option.isSome_some, Bool.true_and, List.any_eq_true, queues, Bool.and_eq_true,
      beq_iff_eq, isGranted_iff, Option.some.injEq, exists_eq_left', and_assoc]
    exact ⟨fun ⟨o, ⟨h, m⟩, rest⟩ => ⟨h, o, m, rest⟩, fun ⟨h, o, m, rest⟩ => ⟨o, ⟨h, m⟩, rest⟩⟩

/-! ## The report by the condition of its slot (R27) -/

theorem takeIn_inUse {i : Fin 8} {tag : Nat} (used : ∃ (k : Fin 96) (r : PartRecord), s.parts[k] = some r ∧ r.tag = tag) :
    takeIn i tag s = raiseEvent .dupTag tag s := if_pos ((tagInUse_iff s tag).2 used)

theorem takeIn_new {i : Fin 8} {tag : Nat} (new : ∀ (k : Fin 96) (r : PartRecord), s.parts[k] = some r → r.tag ≠ tag) :
    takeIn i tag s = register i tag s :=
  if_neg fun used =>
    have ⟨k, r, at_k, same⟩ := (tagInUse_iff s tag).1 used
    new k r at_k same

theorem takeShuttleReport_outside {payload : List Byte} (outside : 8 ≤ fieldAt payload 0 1) :
    takeShuttleReport payload s = raiseEvent .shuttleMismatch (fieldAt payload 0 1) s := by
  unfold takeShuttleReport
  dsimp only
  rw [finOf_of_ge outside]

theorem takeShuttleReport_held {payload : List Byte} {i : Fin 8} {k : Fin 96} (names : fieldAt payload 0 1 = i.val)
    (held : s.inputs[i].record = some k) :
    takeShuttleReport payload s = reportHeld i k (fieldAt payload 1 4) s := by
  unfold takeShuttleReport
  dsimp only
  rw [names, finOf_val]
  dsimp only
  rw [held]

theorem takeShuttleReport_vacant {payload : List Byte} {i : Fin 8} (names : fieldAt payload 0 1 = i.val)
    (vacant : s.inputs[i].record = none) :
    takeShuttleReport payload s = reportVacant i (fieldAt payload 1 4) s := by
  unfold takeShuttleReport
  dsimp only
  rw [names, finOf_val]
  dsimp only
  rw [vacant]

theorem reportVacant_empty {i : Fin 8} (tag : Nat) (empty : s.inputs[i].taken = none) :
    reportVacant i tag s = if tag = 0 then s else takeIn i tag s := by
  unfold reportVacant
  rw [empty]

theorem reportVacant_clearing {i : Fin 8} {taken : Nat} (tag : Nat) (clearing : s.inputs[i].taken = some taken) :
    reportVacant i tag s =
      if tag = 0 then emptySlot i s else if tag = taken then s else takeIn i tag (emptySlot i s) := by
  unfold reportVacant
  rw [clearing]

/-- R24: a slot that has been emptied. -/
theorem emptySlot_spec (i : Fin 8) (s : State) : (emptySlot i s).inputs[i] = { s.inputs[i] with taken := none } ∧
    (emptySlot i s).parts = s.parts := by
  obtain ⟨west, east, whole⟩ := opportunityBoth_eq (s.modInput i fun x => { x with taken := none })
  rw [show emptySlot i s = (s.modInput i fun x => { x with taken := none }).withMarks west east from whole]
  exact ⟨(State.input_modInput s i i fun x => { x with taken := none }).trans (if_pos rfl), rfl⟩

/-- Settles O35. -/
theorem shuttleReportTable : Obligations.ShuttleReportTable := by
  refine ⟨fun s bytes f takes owned length c hc => ?_, fun s payload tag read => ?_⟩
  · rw [exec_takes hc takes, classify_owned (ownerOf_shuttleReport owned) (fits_shuttleReport owned.2.2.2.1 length)]
    rfl
  · subst read
    refine ⟨takeShuttleReport_outside, fun i names => ⟨fun vacant empty => ?_, fun taken vacant clearing => ?_,
      fun k r held device => ?_⟩⟩
    · rw [takeShuttleReport_vacant names vacant, reportVacant_empty _ empty]
      exact ⟨fun zero => if_pos zero, fun tagged used => (if_neg tagged).trans (takeIn_inUse used),
        fun tagged new => (if_neg tagged).trans (takeIn_new new)⟩
    · obtain ⟨slot, parts⟩ := emptySlot_spec i s
      rw [takeShuttleReport_vacant names vacant, reportVacant_clearing _ clearing]
      refine ⟨⟨congrArg InputSlot.taken slot, (congrArg InputSlot.record slot).trans vacant, parts⟩,
        fun zero => if_pos zero, fun tagged same => (if_neg tagged).trans (if_pos same), fun tagged other used => ?_,
        fun tagged other new => ?_⟩
      · rw [if_neg tagged, if_neg other, takeIn_inUse (by rw [parts]; exact used)]
      · rw [if_neg tagged, if_neg other, takeIn_new (by rw [parts]; exact new)]
    · have known : (s.parts[k].map PartRecord.tag) = some (fieldAt payload 1 4) ↔ fieldAt payload 1 4 = r.tag := by
        rw [device]
        exact Option.some_inj.trans eq_comm
      rw [takeShuttleReport_held names held]
      unfold reportHeld
      refine ⟨fun tagged own => ?_, fun tagged other => ?_, fun zero lifted => ?_, fun zero resting => ?_⟩
      · rw [if_neg tagged, if_pos (known.2 own)]
      · rw [if_neg tagged, if_neg (mt known.1 other)]
      · rw [if_pos zero, if_pos ((pickUnderWay_iff i s).2 lifted)]
      · rw [if_pos zero, if_neg (mt (pickUnderWay_iff i s).1 resting)]

end Sys2Proof.Machine
end

section
/-! PROOFS. PART PURGE and LOCATE: O58. -/

namespace Sys2Proof.Machine

variable {s t : State} {r : Request}

/-! ## The selector (R35, R182) -/

/-- R35: a selector out of range. -/
theorem readSelector_none {fields : List Byte}
    (out : 2 < fieldAt fields 0 1 ∨ fieldAt fields 0 1 = 0 ∧ 96 ≤ fieldAt fields 1 4 ∨
      fieldAt fields 0 1 = 1 ∧ fieldAt fields 1 4 = 0 ∨
      fieldAt fields 0 1 = 2 ∧ Place.ofCode (fieldAt fields 1 1) (fieldAt fields 2 1) = none) :
    readSelector fields = none := by
  unfold readSelector
  dsimp only
  obtain above | ⟨index, beyond⟩ | ⟨tag, zero⟩ | ⟨place, nowhere⟩ := out
  · rw [if_neg (by omega), if_neg (by omega), if_neg (by omega)]
  · rw [if_pos index, finOf_of_ge beyond]
    rfl
  · rw [if_neg (by omega), if_pos tag, if_pos zero]
  · rw [if_neg (by omega), if_neg (by omega), if_pos place, nowhere]
    rfl

theorem readSelector_index {fields : List Byte} {k : Fin 96} (kind : fieldAt fields 0 1 = 0)
    (value : fieldAt fields 1 4 = k.val) : readSelector fields = some (.index k) := by
  unfold readSelector
  dsimp only
  rw [if_pos kind, value, finOf_val]
  rfl

theorem readSelector_tag {fields : List Byte} (kind : fieldAt fields 0 1 = 1) (value : fieldAt fields 1 4 ≠ 0) :
    readSelector fields = some (.tag (fieldAt fields 1 4)) := by
  unfold readSelector
  dsimp only
  rw [if_neg (by omega), if_pos kind, if_neg value]

theorem readSelector_place {fields : List Byte} {p : Place} (kind : fieldAt fields 0 1 = 2)
    (place : Place.ofCode (fieldAt fields 1 1) (fieldAt fields 2 1) = some p) :
    readSelector fields = some (.place p) := by
  unfold readSelector
  dsimp only
  rw [if_neg (by omega), if_neg (by omega), if_pos kind, place]
  rfl

/-- R35: a tag selects the record in use that carries it. -/
theorem selectRecord_tag {k : Fin 96} {x : PartRecord} {tag : Nat} (device : s.parts[k] = some x) (carries : x.tag = tag)
    (first : ∀ (j : Fin 96) (y : PartRecord), j < k → s.parts[j] = some y → y.tag ≠ tag) :
    selectRecord s (.tag tag) = some k := by
  unfold selectRecord
  dsimp only
  cases found : (List.finRange 96).find? fun i => s.parts[i].any fun r => r.tag == tag with
  | none =>
    have misses := List.find?_eq_none.1 found k (List.mem_finRange k)
    rw [device] at misses
    exact absurd carries (by simpa using misses)
  | some j =>
    obtain ⟨meets, before⟩ := find?_finRange_some found
    obtain ⟨y, at_j, same⟩ := (Option.any_eq_true _ _).1 meets
    obtain below | rfl | above := lt_trichotomy j k
    · exact absurd (beq_iff_eq.1 same) (first j y below at_j)
    · rfl
    · have misses := before k above
      rw [device] at misses
      exact absurd carries (by simpa using misses)

theorem selectRecord_noTag {tag : Nat} (unused : ∀ (k : Fin 96) (x : PartRecord), s.parts[k] = some x → x.tag ≠ tag) :
    selectRecord s (.tag tag) = none := by
  refine List.find?_eq_none.2 fun k _ carries => ?_
  obtain ⟨x, at_k, same⟩ := (Option.any_eq_true _ _).1 carries
  exact unused k x at_k (beq_iff_eq.1 same)

/-- R35: a selector that names no record in use. -/
theorem selects_none {fields : List Byte}
    (nothing : (∃ k : Fin 96, fieldAt fields 0 1 = 0 ∧ fieldAt fields 1 4 = k.val ∧ s.parts[k] = none) ∨
      (fieldAt fields 0 1 = 1 ∧ fieldAt fields 1 4 ≠ 0 ∧
        ∀ (k : Fin 96) (x : PartRecord), s.parts[k] = some x → x.tag ≠ fieldAt fields 1 4) ∨
      (fieldAt fields 0 1 = 2 ∧ ∃ p, Place.ofCode (fieldAt fields 1 1) (fieldAt fields 2 1) = some p ∧
        s.recordAt p = none)) :
    ∃ sel, readSelector fields = some sel ∧ selectRecord s sel = none := by
  obtain ⟨k, kind, value, free⟩ | ⟨kind, value, unused⟩ | ⟨kind, p, place, empty⟩ := nothing
  · refine ⟨_, readSelector_index kind value, ?_⟩
    unfold selectRecord
    dsimp only
    rw [free]
    rfl
  · exact ⟨_, readSelector_tag kind value, selectRecord_noTag unused⟩
  · exact ⟨_, readSelector_place kind place, empty⟩

/-- R35: a selector that names a record in use. -/
theorem selects_some {fields : List Byte} {k : Fin 96} {x : PartRecord} (device : s.parts[k] = some x)
    (names : fieldAt fields 0 1 = 0 ∧ fieldAt fields 1 4 = k.val ∨
      fieldAt fields 0 1 = 1 ∧ fieldAt fields 1 4 ≠ 0 ∧ x.tag = fieldAt fields 1 4 ∧
        (∀ (j : Fin 96) (y : PartRecord), j < k → s.parts[j] = some y → y.tag ≠ fieldAt fields 1 4) ∨
      fieldAt fields 0 1 = 2 ∧ ∃ p, Place.ofCode (fieldAt fields 1 1) (fieldAt fields 2 1) = some p ∧
        s.recordAt p = some k) :
    ∃ sel, readSelector fields = some sel ∧ selectRecord s sel = some k := by
  obtain ⟨kind, value⟩ | ⟨kind, value, carries, first⟩ | ⟨kind, p, place, held⟩ := names
  · refine ⟨_, readSelector_index kind value, ?_⟩
    unfold selectRecord
    dsimp only
    rw [device]
    rfl
  · exact ⟨_, readSelector_tag kind value, selectRecord_tag device carries first⟩
  · exact ⟨_, readSelector_place kind place, held⟩

/-! ## The requests (R35, R36) -/

theorem open_of_outside (outside : s.lotState ≠ .bypass) : s.lotState.open = true := by
  simpa [LotState.open] using outside

theorem exec_partPurge (heard : s.hears r = true) (length : r.fields.length = 5) (outside : s.lotState ≠ .bypass) :
    exec (.partPurge r) s = .next (purgeSelected r s) := by
  refine (congrArg Host.Outcome.next (requestArrives_heard partPurgeRequest heard)).trans ?_
  unfold partPurgeRequest takeRequest
  rw [if_pos (beq_iff_eq.2 length), if_pos (open_of_outside outside)]

theorem exec_locate (heard : s.hears r = true) (length : r.fields.length = 5) (outside : s.lotState ≠ .bypass) :
    exec (.locate r) s = .next (locateRequest r s) := by
  refine (congrArg Host.Outcome.next (requestArrives_heard locateHandler heard)).trans ?_
  unfold locateHandler takeRequest
  rw [if_pos (beq_iff_eq.2 length), if_pos (open_of_outside outside)]

theorem requests_outOfRange (out : readSelector r.fields = none) :
    purgeSelected r s = respondRange r 0 s ∧ locateRequest r s = respondRange r 0 s := by
  unfold purgeSelected locateRequest
  rw [out]
  exact ⟨rfl, rfl⟩

theorem requests_notFound {sel : Selector} (read : readSelector r.fields = some sel) (nothing : selectRecord s sel = none) :
    purgeSelected r s = respond r .notFound s ∧ locateRequest r s = respond r .notFound s := by
  unfold purgeSelected locateRequest
  rw [read]
  dsimp only
  rw [nothing]
  exact ⟨rfl, rfl⟩

theorem requests_found {sel : Selector} {k : Fin 96} {x : PartRecord} (read : readSelector r.fields = some sel)
    (selected : selectRecord s sel = some k) (device : s.parts[k] = some x) :
    purgeSelected r s = purgeRecord r k x s ∧ locateRequest r s = respondOk r (locateFields s k x) s := by
  unfold purgeSelected locateRequest
  rw [read]
  dsimp only
  rw [selected]
  dsimp only
  rw [device]
  exact ⟨rfl, rfl⟩

/-! ## The answer of LOCATE (R36, R182) -/

theorem Place.bytes_nozzle (h : Head) (n : Fin 4) : Place.bytes (.nozzle h n) = [1, byte (4 * h.num + n.val)] := by
  cases h
  · exact congrArg (fun k => [1, byte k]) (Nat.zero_add n.val).symm
  · rfl

theorem placeState_nozzle (s : State) (h : Head) (n : Fin 4) :
    byte (placeState s (.nozzle h n)) = if (s.head h).nozzles[n].blocked then 1 else 0 := by
  unfold placeState
  dsimp only
  cases (s.head h).nozzles[n].blocked <;> rfl

theorem placeState_input (s : State) (i : Fin 8) : byte (placeState s (.input i)) =
    if s.inputs[i].record ≠ none then 1 else if s.inputs[i].taken ≠ none then 2 else 0 := by
  unfold placeState
  dsimp only
  cases s.inputs[i].record <;> cases s.inputs[i].taken <;> rfl

theorem placeState_retest (s : State) (i : Fin 8) : byte (placeState s (.retest i)) =
    if s.retests[i].record ≠ none then 1 else 0 := by
  unfold placeState
  dsimp only
  cases s.retests[i].record <;> rfl

theorem planHead_eq (o : Option Plan) : (o.map fun p => byte p.head.num).getD 255 =
    match o with
    | some p => byte p.head.num
    | none => 255 := by cases o <;> rfl

theorem length_attemptBytes (l : List (Fin 64 × Byte)) : (l.flatMap fun a => [byte a.1, a.2]).length = 2 * l.length := by
  simp [List.length_flatMap, Nat.mul_comm]

theorem locateFields_eq (s : State) (k : Fin 96) (x : PartRecord) : locateFields s k x =
    [byte k.val] ++ leBytes 4 x.tag ++ x.place.bytes ++ [byte (placeState s x.place)] ++ [byte x.attempts.length] ++
      x.attempts.flatMap (fun a => [byte a.1.val, a.2]) ++ List.replicate (6 - 2 * x.attempts.length) 0xFF#8 ++
      [x.disposition.code] ++ [((s.plans.find? fun p => some p.id == x.plan).map fun p => byte p.head.num).getD 255] := by
  unfold locateFields absentBytes findPlan
  dsimp only
  rw [length_attemptBytes]
  simp only [List.append_assoc, List.cons_append, List.nil_append]

/-! ## The emptied place (R35, R68) -/

theorem State.nozzle_modNozzle (s : State) (h g : Head) (n m : Fin 4) (f : Nozzle → Nozzle) :
    ((s.modNozzle h n f).head g).nozzles[m] =
      if h = g ∧ n = m then f (s.head h).nozzles[n] else (s.head g).nozzles[m] := by
  unfold State.modNozzle
  rw [State.head_modHead]
  by_cases same : h = g
  · subst same
    simp [Vector.getElem_set, Fin.ext_iff]
  · rw [if_neg same, if_neg fun e => same e.1]

/-- R31: the state a purge finds when the device has left custody. -/
def removedFrom (p : Place) (s : State) : State := countRemoved (releaseAt p s)

/-- R31: what the removal of a device leaves of the records and the ports. -/
theorem removedFrom_spec {p : Place} {k : Fin 96} (held : s.recordAt p = some k) :
    (∀ j : Fin 96, (removedFrom p s).parts[j] = if k = j then none else s.parts[j]) ∧
    (∀ q, (removedFrom p s).recordAt q = if p = q then none else s.recordAt q) ∧
    (removedFrom p s).counters = { s.counters with removed := satSucc s.counters.removed } := by
  obtain ⟨record, part, counters⟩ := releaseAt_spec held
  refine ⟨part, fun q => ?_, ?_⟩
  · rw [← record q]
    cases q <;> rfl
  · show { (releaseAt p s).counters with removed := satSucc (releaseAt p s).counters.removed } = _
    rw [counters]

/-- R31: what the removal of a device leaves of sockets, nozzles, timers and ports. -/
theorem removedFrom_frame {p : Place} {k : Fin 96} (held : s.recordAt p = some k) :
    (removedFrom p s).upstream = s.upstream ∧ (removedFrom p s).downstream = s.downstream ∧
    (∀ i : Fin 64, (removedFrom p s).sockets[i] =
      if p = .socket i then { s.sockets[i] with record := none } else s.sockets[i]) ∧
    ∀ (h : Head) (n : Fin 4), ((removedFrom p s).head h).nozzles[n] =
      if p = .nozzle h n then { (s.head h).nozzles[n] with record := none } else (s.head h).nozzles[n] := by
  have whole : removedFrom p s = countRemoved ((s.setRecordAt p none).setPart k none) := by
    unfold removedFrom releaseAt
    rw [held]
  rw [whole]
  cases p with
  | socket i =>
    refine ⟨rfl, rfl, fun j => ?_, fun _ _ => rfl⟩
    refine (State.socket_modSocket s i j fun x => { x with record := none }).trans ?_
    simp only [Place.socket.injEq]
    split
    · next e => rw [e]
    · rfl
  | nozzle h n =>
    refine ⟨rfl, rfl, fun _ => rfl, fun g m => ?_⟩
    refine (State.nozzle_modNozzle s h g n m fun x => { x with record := none }).trans ?_
    simp only [Place.nozzle.injEq]
    split
    · next e => rw [e.1, e.2]
    · rfl
  | input i => exact ⟨rfl, rfl, fun _ => rfl, fun _ _ => rfl⟩
  | retest i => exact ⟨rfl, rfl, fun _ => rfl, fun _ _ => rfl⟩

/-- R68: between two states sockets, timers and marks of an opportunity have changed: the socket of the emptied place is
EMPTY, with its soak timer CLEAR if it was SOAKING. -/
structure PlaceLeft (p : Place) (s u : State) : Prop where
  frame : ∃ sockets timers west east, u = ({ s with sockets := sockets, timers := timers } : State).withMarks west east
  socket : ∀ i : Fin 64, u.sockets[i] = if p = .socket i then { s.sockets[i] with state := .empty } else s.sockets[i]
  soak : ∀ i : Fin 64, p = .socket i → s.sockets[i].state = .soaking → u.timer (.soak i) = .clear

theorem PlaceLeft.of_marks {p : Place} (off : ∀ i, p ≠ .socket i) (marks : ∃ west east, t = s.withMarks west east) :
    PlaceLeft p s t := by
  obtain ⟨west, east, rfl⟩ := marks
  exact ⟨⟨_, _, west, east, rfl⟩, fun i => (if_neg (off i)).symm, fun i e => absurd e (off i)⟩

theorem fillUpdate_eq (g : Fin 16) (s : State) : ∃ timers, fillUpdate g s = { s with timers := timers } := by
  unfold fillUpdate
  split
  · split
    · exact ⟨_, rfl⟩
    · exact ⟨s.timers, rfl⟩
  · exact ⟨_, rfl⟩

/-- R68: the socket of a purged device. -/
theorem placeLeft_purgedSocket {i : Fin 64} (enabled : s.sockets[i].pendingDisable = none) :
    PlaceLeft (.socket i) s (purgedSocket i s) := by
  let rested := if s.sockets[i].state = .soaking then cancelTimer (.soak i) s else s
  have rest : rested.sockets = s.sockets ∧ ∃ timers, rested = { s with timers := timers } ∧
      (s.sockets[i].state = .soaking → rested.timer (.soak i) = .clear) := by
    dsimp only [rested]
    split
    · exact ⟨rfl, _, rfl, fun _ => (timer_cancelTimer s (.soak i) (.soak i)).trans (if_pos rfl)⟩
    · next not => exact ⟨rfl, s.timers, rfl, fun soaking => absurd soaking not⟩
  obtain ⟨sockets, timers, rest, clear⟩ := rest
  obtain ⟨west, east, marks⟩ := opportunityServing_marks i (rested.modSocket i fun x => { x with state := .empty })
  have emptied : enterEmpty i rested = (rested.modSocket i fun x => { x with state := .empty }).withMarks west east :=
    (enterEmpty_of_enabled (by rw [sockets]; exact enabled)).trans marks
  have at_j (j : Fin 64) : (enterEmpty i rested).sockets[j] =
      if Place.socket i = .socket j then { s.sockets[j] with state := .empty } else s.sockets[j] := by
    rw [emptied]
    refine (State.socket_modSocket rested i j fun x => { x with state := .empty }).trans ?_
    simp only [sockets, Place.socket.injEq]
    split
    · next e => rw [e]
    · rfl
  have soaked : s.sockets[i].state = .soaking → (enterEmpty i rested).timer (.soak i) = .clear := by
    rw [emptied]
    exact clear
  have framed : ∃ sockets timers west east,
      enterEmpty i rested = ({ s with sockets := sockets, timers := timers } : State).withMarks west east := by
    rw [emptied, rest]
    exact ⟨_, _, west, east, rfl⟩
  have left : PlaceLeft (.socket i) s (enterEmpty i rested) := by
    refine ⟨framed, at_j, fun j e soaking => ?_⟩
    cases e
    exact soaked soaking
  unfold purgedSocket
  dsimp only
  split
  · next ready =>
    split
    · next g _ =>
      obtain ⟨timers, filled⟩ := fillUpdate_eq g (enterEmpty i rested)
      obtain ⟨sockets, _, west, east, whole⟩ := framed
      refine ⟨⟨sockets, timers, west, east, filled.trans (by rw [whole]; rfl)⟩, fun j => ?_, fun j e soaking => ?_⟩
      · exact (congrArg (fun u : State => u.sockets[j]) filled).trans (at_j j)
      · cases e
        rw [ready] at soaking
        cases soaking
    · exact left
  · exact left

theorem placeLeft_purgedPlace {p : Place} (enabled : ∀ i, p = .socket i → s.sockets[i].pendingDisable = none) :
    PlaceLeft p s (purgedPlace p s) := by
  cases p with
  | socket i => exact placeLeft_purgedSocket (enabled i rfl)
  | nozzle h n => exact .of_marks (fun _ => nofun) ⟨s.heads.west.passDue, s.heads.east.passDue, rfl⟩
  | input i => exact .of_marks (fun _ => nofun) (opportunityBoth_eq s)
  | retest i => exact .of_marks (fun _ => nofun) (opportunityBoth_eq s)

theorem purgeBarred_iff (s : State) (p : Place) : purgeBarred s p = true ↔
    ∃ i, p = .socket i ∧ (s.sockets[i].state = .testing ∨ s.sockets[i].state = .emptying) := by
  cases p <;> simp [purgeBarred]

/-- R31, R35: a purged device has left custody and is counted as removed. -/
theorem purged_device {p : Place} {k : Fin 96} (held : s.recordAt p = some k) :
    (purgedPlace p (removedFrom p s)).parts[k] = none ∧ (purgedPlace p (removedFrom p s)).recordAt p = none ∧
    (∀ q, q ≠ p → (purgedPlace p (removedFrom p s)).recordAt q = s.recordAt q) ∧
    (purgedPlace p (removedFrom p s)).counters.removed = satSucc s.counters.removed := by
  obtain ⟨part, record, counters⟩ := removedFrom_spec held
  have custody := custody_purgedPlace p (removedFrom p s)
  refine ⟨custody_free custody ((part k).trans (if_pos rfl)), (custody_recordAt custody p).trans ((record p).trans (if_pos rfl)),
    fun q other => (custody_recordAt custody q).trans ((record q).trans (if_neg (Ne.symm other))), ?_⟩
  rw [custody_removed custody, counters]

/-- R35, R68: what a purge leaves as it was, where the place is no socket with pending-disable. -/
theorem purged_frame {p : Place} {k : Fin 96} (held : s.recordAt p = some k)
    (enabled : ∀ i, p = .socket i → s.sockets[i].pendingDisable = none) :
    let u := purgedPlace p (removedFrom p s)
    (∀ j : Fin 96, j ≠ k → u.parts[j] = s.parts[j]) ∧ u.upstream = s.upstream ∧ u.downstream = s.downstream ∧
    u.counters = { s.counters with removed := u.counters.removed } ∧
    (∀ i : Fin 64, u.sockets[i] =
      if p = .socket i then { s.sockets[i] with record := none, state := .empty } else s.sockets[i]) ∧
    (∀ i : Fin 64, p = .socket i → s.sockets[i].state = .soaking → u.timer (.soak i) = .clear) ∧
    ∀ (h : Head) (n : Fin 4), (u.head h).nozzles[n] =
      if p = .nozzle h n then { (s.head h).nozzles[n] with record := none } else (s.head h).nozzles[n] := by
  intro u
  obtain ⟨part, -, counters⟩ := removedFrom_spec held
  obtain ⟨up, down, sockets, nozzles⟩ := removedFrom_frame held
  have left : PlaceLeft p (removedFrom p s) u := by
    refine placeLeft_purgedPlace fun i e => ?_
    rw [sockets, if_pos e]
    exact enabled i e
  have removed : u.counters.removed = satSucc s.counters.removed := (purged_device held).2.2.2
  obtain ⟨boxes, timers, west, east, whole⟩ := left.frame
  refine ⟨fun j other => ?_, ?_, ?_, ?_, fun i => ?_, fun i e soaking => ?_, fun h n => ?_⟩
  · rw [whole]
    exact (part j).trans (if_neg (Ne.symm other))
  · rw [whole]
    exact up
  · rw [whole]
    exact down
  · rw [removed, whole]
    exact counters
  · rw [left.socket, sockets]
    split <;> rfl
  · refine left.soak i e ?_
    rw [sockets, if_pos e]
    exact soaking
  · rw [whole, State.nozzles_withMarks]
    exact nozzles h n

/-- Settles O58. -/
theorem purgeAndLocateSelectedRecord : Obligations.PurgeAndLocateSelectedRecord := by
  intro s r heard length outside kind value place names
  have purge := exec_partPurge heard length outside
  have locate := exec_locate heard length outside
  refine ⟨fun out => ?_, fun nothing => ?_, fun k x ⟨device, named⟩ => ?_⟩
  · obtain ⟨purged, located⟩ := requests_outOfRange (s := s) (readSelector_none out)
    rw [purge, locate, purged, located]
    exact ⟨rfl, rfl⟩
  · obtain ⟨sel, read, none'⟩ := selects_none nothing
    obtain ⟨purged, located⟩ := requests_notFound read none'
    rw [purge, locate, purged, located]
    exact ⟨rfl, rfl⟩
  · obtain ⟨sel, read, selected⟩ := selects_some device named
    obtain ⟨purged, located⟩ := requests_found read selected device
    rw [purge, locate, purged, located, locateFields_eq]
    refine ⟨?_, ?_⟩
    · refine congrArg (fun fields => Host.Outcome.next (respondOk r fields s)) ?_
      obtain ⟨tag, place, attempts, disposition, plan⟩ := x
      dsimp only
      rw [planHead_eq]
      cases place with
      | socket i => rfl
      | nozzle h n =>
        rw [Place.bytes_nozzle, placeState_nozzle]
        rfl
      | input i =>
        rw [placeState_input]
        rfl
      | retest i =>
        rw [placeState_retest]
        rfl
    intro barred
    unfold purgeRecord
    refine ⟨fun bars => ?_, fun free reserved => ?_, fun free unreserved held => ?_⟩
    · rw [if_pos ((purgeBarred_iff s x.place).2 bars)]
    · rw [if_neg (mt (purgeBarred_iff s x.place).1 free), if_pos (Option.isSome_iff_ne_none.2 reserved)]
    · rw [if_neg (mt (purgeBarred_iff s x.place).1 free), unreserved, if_neg (by decide)]
      obtain ⟨free', empty, others, removed⟩ := purged_device held
      exact ⟨purgedPlace x.place (removedFrom x.place s), rfl, free', empty, others, removed, purged_frame held⟩

end Sys2Proof.Machine
end

section
/-! PROOFS. What a device that moves, the soak, the end of a plan and an order resolved as done leave as it was. -/

namespace Sys2Proof.Machine

variable {s t u : State}

/-! ## Devices that move (R21, R30, R31) -/

theorem drops_setRecordAt (p : Place) (r : Option (Fin 96)) (s : State) : Drops s (s.setRecordAt p r) := by
  cases p with
  | nozzle h n =>
    exact drops_modHead h (fun x => { x with nozzles := x.nozzles.set n { x.nozzles[n] with record := r } }) s fun _ =>
      .same rfl rfl
  | socket i => exact .of_eq rfl rfl rfl rfl
  | input i => exact .of_eq rfl rfl rfl rfl
  | retest i => exact .of_eq rfl rfl rfl rfl

theorem drops_moveRecord (a b : Place) (s : State) : Drops s (moveRecord a b s) := by
  unfold moveRecord
  split
  · exact .refl s
  · exact ((drops_setRecordAt _ _ _).trans (drops_setRecordAt _ _ _)).trans (drops_modPart _ _ _)

theorem drops_releaseAt (p : Place) (s : State) : Drops s (releaseAt p s) := by
  unfold releaseAt
  split
  · exact .refl s
  · exact (drops_setRecordAt p none s).trans (.of_eq rfl rfl rfl rfl)

theorem queue_setRecordAt (p : Place) (r : Option (Fin 96)) (h : Head) (s : State) :
    ((s.setRecordAt p r).head h).queue = (s.head h).queue := by
  cases p with
  | nozzle g n => cases g <;> cases h <;> rfl
  | _ => rfl

theorem queue_moveRecord (a b : Place) (h : Head) (s : State) :
    ((moveRecord a b s).head h).queue = (s.head h).queue := by
  unfold moveRecord
  split
  · rfl
  · exact (queue_setRecordAt _ _ h _).trans (queue_setRecordAt _ _ h _)

/-- A socket through a device that moves, but for the record it holds. -/
theorem socket_setRecordAt (p : Place) (r : Option (Fin 96)) (i : Fin 64) (s : State) :
    ∃ x, (s.setRecordAt p r).sockets[i] = { s.sockets[i] with record := x } := by
  cases p with
  | socket j =>
    refine ⟨if j = i then r else s.sockets[i].record,
      (State.socket_modSocket s j i fun x => { x with record := r }).trans ?_⟩
    split
    · next e => rw [e]
    · rfl
  | _ => exact ⟨s.sockets[i].record, rfl⟩

theorem socket_moveRecord (a b : Place) (i : Fin 64) (s : State) :
    ∃ x, (moveRecord a b s).sockets[i] = { s.sockets[i] with record := x } := by
  unfold moveRecord
  split
  · exact ⟨s.sockets[i].record, rfl⟩
  · next k _ =>
    obtain ⟨x, left⟩ := socket_setRecordAt a none i s
    obtain ⟨y, joined⟩ := socket_setRecordAt b (some k) i (s.setRecordAt a none)
    exact ⟨y, joined.trans (by rw [left])⟩

/-- Custody as a move makes it: the device has left one place for the other. -/
theorem moved_records {a b : Place} {k : Fin 96} (same : u.custody = s.custody)
    (moved : t.custody = (moveRecord a b u).custody) (held : s.recordAt a = some k) (ne : b ≠ a) :
    t.recordAt a = none ∧ t.recordAt b = some k := by
  obtain ⟨record, -, -⟩ := moveRecord_spec (b := b) ((custody_recordAt same a).trans held)
  constructor
  · rw [custody_recordAt moved, record, if_neg ne, if_pos rfl]
  · rw [custody_recordAt moved, record, if_pos rfl]

/-- R21: the record of a device that has moved. -/
theorem moved_device {a b : Place} {k : Fin 96} {r : PartRecord} (same : u.custody = s.custody)
    (moved : t.custody = (moveRecord a b u).custody) (held : s.recordAt a = some k) (device : s.parts[k] = some r) :
    ∃ y, t.parts[k] = some y ∧ y.place = b ∧ y.tag = r.tag ∧ y.attempts = r.attempts := by
  obtain ⟨-, part, -⟩ := moveRecord_spec (b := b) ((custody_recordAt same a).trans held)
  obtain ⟨x, at_k, tag, -, attempts⟩ := custody_record same device
  have there : (moveRecord a b u).parts[k] = some { x with place := b } := by
    rw [part, if_pos rfl, at_k]
    rfl
  obtain ⟨y, found, tag', place, attempts'⟩ := custody_record moved there
  exact ⟨y, found, place, tag'.trans tag, attempts'.trans attempts⟩

/-! ## The soak and the tests (R55, R56, R61) -/

/-- R61: a start changes of a socket at most that it goes to TESTING, from READY. -/
theorem socket_updateGroupOf (i j : Fin 64) (s : State) : (updateGroupOf i s).sockets[j] = s.sockets[j] ∨
    s.sockets[j].state = .ready ∧ (updateGroupOf i s).sockets[j] = { s.sockets[j] with state := .testing } := by
  have begun (l : List (Fin 64)) (s : State) : (l.foldl beginTest s).sockets[j] = s.sockets[j] ∨
      (l.foldl beginTest s).sockets[j] = { s.sockets[j] with state := .testing } := by
    induction l generalizing s with
    | nil => exact .inl rfl
    | cons k l ih =>
      have first : (beginTest s k).sockets[j] = if k = j then { s.sockets[k] with state := .testing } else s.sockets[j] :=
        State.socket_modSocket s k j fun x => { x with state := .testing }
      rw [List.foldl_cons]
      by_cases e : k = j
      · subst e
        rw [if_pos rfl] at first
        refine .inr ((ih (beginTest s k)).elim (fun same => same.trans first) fun again => ?_)
        rw [again, first]
      · rw [if_neg e] at first
        rw [← first]
        exact ih (beginTest s k)
  by_cases ready : s.sockets[j].state = .ready
  · have started (g : Fin 16) : (startGroup g s).sockets[j] = s.sockets[j] ∨
        (startGroup g s).sockets[j] = { s.sockets[j] with state := .testing } := by
      have sent := offLink_sockets (offLink_produce .downstream (s.nodeAddress 1) kindSiteStart
        (byte g :: (readyMembers s g).map fun (i : Fin 64) => byte i.val) s)
      rw [← sent]
      exact begun (readyMembers s g) _
    refine Or.imp id (⟨ready, ·⟩) ?_
    have updated (g : Fin 16) : (groupUpdate g s).sockets[j] = s.sockets[j] ∨
        (groupUpdate g s).sockets[j] = { s.sockets[j] with state := .testing } := by
      unfold groupUpdate
      split
      · exact started g
      · obtain ⟨timers, filled⟩ := fillUpdate_eq g s
        rw [filled]
        exact .inl rfl
    unfold updateGroupOf
    split
    · exact updated _
    · exact .inl rfl
  · exact .inl ((starts_updateGroupOf i s).socket j ready)

theorem clearPartFaults_socket (i : Fin 64) (s : State) : (clearPartFaults i s).sockets[i] =
    if s.lot.faultMode = .perPart then { s.sockets[i] with faults := .none } else s.sockets[i] := by
  unfold clearPartFaults
  split
  · exact State.socket_modSocket_self s i _
  · rfl

theorem clearPartFaults_lot (i : Fin 64) (s : State) : (clearPartFaults i s).lot = s.lot := by
  unfold clearPartFaults
  split <;> rfl

/-- R55: with a soak time a socket is SOAKING and its timer runs. -/
theorem beginSoak_soaks {i : Fin 64} (soak : s.lot.soak ≠ 0) :
    (beginSoak i s).sockets[i] = { (clearPartFaults i s).sockets[i] with state := .soaking } ∧
      (beginSoak i s).timer (.soak i) = .running s.lot.soak := by
  have whole : beginSoak i s =
      startTimer (.soak i) s.lot.soak ((clearPartFaults i s).modSocket i fun x => { x with state := .soaking }) := by
    unfold beginSoak
    dsimp only
    rw [clearPartFaults_lot, if_neg soak]
  rw [whole, startTimer_sockets, timer_startTimer, if_pos rfl]
  refine ⟨State.socket_modSocket_self _ i _, ?_⟩
  obtain ⟨n, e⟩ := Nat.exists_eq_succ_of_ne_zero soak
  rw [e]
  rfl

/-- R56: without a soak time a socket is READY, or its group has started with it. -/
theorem beginSoak_ready {i : Fin 64} (soak : s.lot.soak = 0) :
    ∃ state, (state = .ready ∨ state = .testing) ∧
      (beginSoak i s).sockets[i] = { (clearPartFaults i s).sockets[i] with state := state } := by
  have whole : beginSoak i s = becomeReady i (clearPartFaults i s) := by
    unfold beginSoak
    dsimp only
    rw [clearPartFaults_lot, if_pos soak]
  have ready := State.socket_modSocket_self (clearPartFaults i s) i fun x => { x with state := .ready }
  rw [whole]
  unfold becomeReady
  obtain same | ⟨-, tested⟩ :=
    socket_updateGroupOf i i ((clearPartFaults i s).modSocket i fun x => { x with state := .ready })
  · exact ⟨.ready, .inl rfl, same.trans ready⟩
  · exact ⟨.testing, .inr rfl, tested.trans (by rw [ready])⟩

theorem drops_clearPartFaults (i : Fin 64) (s : State) : Drops s (clearPartFaults i s) := by
  unfold clearPartFaults
  split
  · exact drops_modSocket _ _ _
  · exact .refl s

theorem drops_beginSoak (i : Fin 64) (s : State) : Drops s (beginSoak i s) := by
  unfold beginSoak
  dsimp only
  refine (drops_clearPartFaults i s).trans ?_
  split
  · exact drops_becomeReady _ _
  · exact (drops_modSocket i _ _).trans (drops_setTimer (.soak i) _ _ fun _ => by simp)

/-- R164: a completion changes the list of completions and the wish for a slot, but for its frames and events. -/
theorem offLink_complete (code : Byte) (x : Subject) (f : FinalCode) (s : State) : ∃ completions wanted,
    (complete code x f s).offLink = ({ s with completions := completions, slotWanted := wanted } : State).offLink := by
  unfold complete
  split
  · exact ⟨s.completions, s.slotWanted, rfl⟩
  · next c _ =>
    let v := { s with completions := s.completions.filter fun d => !(d.ticket == c.ticket) }
    have sent : (produceCompletion c f v).offLink = v.offLink := offLink_produceCompletion c f v
    unfold slotFreed
    split
    · refine ⟨v.completions, false, (offLink_raiseEvent _ _ _).trans ?_⟩
      exact congrArg (fun u : State => { u with slotWanted := false }) sent
    · exact ⟨v.completions, s.slotWanted, sent⟩

/-- R71: a socket that goes OFF is OFF. -/
theorem state_goOff (i : Fin 64) (s : State) : (goOff i s).sockets[i].state = .off := by
  let gone := s.modSocket i fun x => { x with state := .off, pendingDisable := none }
  have off : gone.sockets[i].state = .off :=
    congrArg Socket.state (State.socket_modSocket_self s i fun x => { x with state := .off, pendingDisable := none })
  have completed : (completeDisable i gone).sockets = gone.sockets := by
    obtain ⟨_, _, same⟩ := offLink_complete codeSocketDisable (.socket i) .ok gone
    exact (offLink_sockets same).trans rfl
  have after {u : State} (same : u.sockets = gone.sockets) : (afterOff i u).sockets[i].state = .off := by
    have view : (reexamine (opportunityServing i u)).benchView = u.benchView := by simp
    have still : (reexamine (opportunityServing i u)).sockets[i].state = .off := by
      rw [benchView_socketState view, same, off]
    unfold afterOff
    rw [(starts_updateGroupOf i _).socket i (by rw [still]; exact SocketState.noConfusion), still]
  unfold goOff
  dsimp only
  refine after ?_
  split
  · exact (offLink_sockets (offLink_raiseEvent _ _ _)).trans completed
  · exact completed

/-- R71, R97: a socket that enters EMPTY stays EMPTY, or is OFF with pending-disable. -/
theorem state_enterEmpty_cases (i : Fin 64) (s : State) :
    (enterEmpty i s).sockets[i].state = if s.sockets[i].pendingDisable = none then .empty else .off := by
  split
  · next enabled => exact state_enterEmpty enabled
  · next disabled =>
    have view := benchView_opportunityServing i (s.modSocket i fun x => { x with state := .empty })
    have still := congrArg Socket.pendingDisable (benchView_socket view i)
    rw [State.socket_modSocket, if_pos rfl] at still
    have due : (opportunityServing i (s.modSocket i fun x => { x with state := .empty })).sockets[i].pendingDisable.isSome =
        true := Option.isSome_iff_ne_none.2 fun clear => disabled (still.symm.trans clear)
    unfold enterEmpty
    dsimp only
    rw [if_pos due]
    exact state_goOff i _

/-! ## Opportunities and the end of a plan (R96, R97) -/

theorem queue_opportunity (g h : Head) (s : State) : ((opportunity g s).head h).queue = (s.head h).queue := by
  obtain ⟨west, east, marks⟩ := opportunity_eq g s
  rw [marks]
  cases h <;> rfl

theorem queue_endPlan (g h : Head) (plan : Option Nat) (s : State) :
    ((endPlan g plan s).head h).queue = (s.head h).queue := by
  unfold endPlan dropPlan opportunityBoth
  split
  · rfl
  · split
    · rfl
    · rw [queue_opportunity, queue_opportunity]
      cases h <;> rfl

theorem inputs_opportunity (h : Head) (s : State) : (opportunity h s).inputs = s.inputs := by
  obtain ⟨west, east, marks⟩ := opportunity_eq h s
  rw [marks]
  rfl

theorem taken_endPlan (h : Head) (plan : Option Nat) (i : Fin 8) (s : State) :
    (endPlan h plan s).inputs[i].taken = s.inputs[i].taken := by
  unfold endPlan dropPlan opportunityBoth
  split
  · rfl
  · split
    · rfl
    · simp only [inputs_opportunity, Fin.getElem_fin, mapVec_getElem]

theorem downstream_opportunity (h : Head) (s : State) : (opportunity h s).downstream = s.downstream := by
  obtain ⟨west, east, marks⟩ := opportunity_eq h s
  rw [marks]
  rfl

theorem downstream_endPlan (h : Head) (plan : Option Nat) (s : State) : (endPlan h plan s).downstream = s.downstream := by
  unfold endPlan dropPlan opportunityBoth
  split
  · rfl
  · split
    · rfl
    · rw [downstream_opportunity, downstream_opportunity]

theorem timers_opportunity (h : Head) (s : State) : (opportunity h s).timers = s.timers := by
  obtain ⟨west, east, marks⟩ := opportunity_eq h s
  rw [marks]
  rfl

theorem timers_endPlan (h : Head) (plan : Option Nat) (s : State) : (endPlan h plan s).timers = s.timers := by
  unfold endPlan dropPlan opportunityBoth
  split
  · rfl
  · split
    · rfl
    · rw [timers_opportunity, timers_opportunity]

end Sys2Proof.Machine
end

section
/-! PROOFS. An order resolved as done: O33. -/

namespace Sys2Proof.Machine

variable {s t u : State}

/-! ## The steps of an order resolved as done (R124) -/

/-- R124: the order has left the queue, and its head reference is the known position. -/
def doneArrived (h : Head) (o : Order) (s : State) : State :=
  setKnown h ((o.resolved.map Resolved.target).getD ⟨0, 0⟩) (leaveQueue h o.tag s)

/-- R124, R137: what follows the effect of an order on its location. -/
def doneFollows (h : Head) (o : Order) (s : State) : State :=
  grantPoint h (opportunity h (endPlan h o.plan (retime h (recomputeHoldings h
    (setBase h (zoneOf ((o.resolved.map Resolved.target).getD ⟨0, 0⟩).x) s)))))

theorem resolveDone_eq (h : Head) (o : Order) (s : State) :
    resolveDone h o s = doneFollows h o (doneEffect h o (doneArrived h o s)) := rfl

theorem head_doneArrived (h : Head) (o : Order) (s : State) : (doneArrived h o s).head h =
    { s.head h with
      queue := (s.head h).queue.filter fun q => !(q.tag == o.tag)
      known := some ((o.resolved.map Resolved.target).getD ⟨0, 0⟩) } := by
  unfold doneArrived setKnown
  rw [State.head_modHead_self, head_leaveQueue]

theorem drops_placePocket (b : Fin 16) (y : TrayId) (s : State) : Drops s (placePocket b y s) := by
  have counted : Drops s ((s.modTray b y fun x => { x with placed := x.placed + 1 }).modCounters fun c =>
      { c with binned := c.binned.set b (satSucc c.binned[b]) }) := .of_eq rfl rfl rfl rfl
  unfold placePocket fillTray
  dsimp only
  split
  · exact (counted.trans (drops_modTray _ _ _ _)).trans (drops_raiseEvent _ _ _)
  · exact counted

/-- R124: the effect of an order on its location drops pending orders at most. -/
theorem drops_doneEffect (h : Head) (o : Order) (s : State) : Drops s (doneEffect h o s) := by
  unfold doneEffect
  split
  · next i n _ _ _ =>
    refine (drops_moveRecord (.socket i) (.nozzle h n) s).trans ?_
    unfold socketPicked
    split
    · exact drops_modSocket _ _ _
    · exact drops_enterEmpty _ _
  · exact (drops_moveRecord _ _ s).trans (drops_clearSlot _ _ _)
  · exact (drops_moveRecord _ _ s).trans (drops_opportunityBoth _)
  · split
    · exact (drops_moveRecord _ _ s).trans (drops_beginSoak _ _)
    · exact (drops_clearPartFaults _ s).trans (drops_enterEmpty _ _)
  · exact (drops_moveRecord _ _ s).trans (drops_opportunityBoth _)
  · split
    · exact (drops_placePocket _ _ s).trans (drops_releaseAt _ _)
    · exact (drops_placePocket _ _ s).trans (drops_modCounters _ _)
  · exact .refl s

/-! ## The head (R116, R122, R137) -/

theorem heads_retime (h : Head) (s : State) : (retime h s).heads = s.heads := by
  unfold retime
  split
  · exact startTimer_heads _ _ _
  · exact cancelTimer_heads _ _

theorem head_setBase (h : Head) (z : Nat) (s : State) : (setBase h z s).head h =
    if (s.head h).state = .ready then { s.head h with base := some z } else s.head h :=
  State.head_modHead_self _ _ _

/-- What follows the effect keeps the queue, and the end of the plan and the opportunity keep what the arbiter goes by. -/
theorem head_doneFollows (h : Head) (o : Order) (s : State) :
    let zoned := (setBase h (zoneOf ((o.resolved.map Resolved.target).getD ⟨0, 0⟩).x) s).head h
    HeadDrops { zoned with holdings := newHoldings zoned } ((doneFollows h o s).head h) ∧
      ((doneFollows h o s).head h).queue = (s.head h).queue := by
  intro zoned
  let v := retime h (recomputeHoldings h (setBase h (zoneOf ((o.resolved.map Resolved.target).getD ⟨0, 0⟩).x) s))
  have timed : v.head h = { zoned with holdings := newHoldings zoned } :=
    (congrArg (PerHead.get · h) (heads_retime h _)).trans (head_recomputeHoldings h _)
  have ended := ((drops_endPlan h o.plan v).trans ((drops_opportunity h _).trans (drops_grantPoint h _))).head h
  have queue : ((doneFollows h o s).head h).queue = (v.head h).queue :=
    (queue_opportunity h h _).trans (queue_endPlan h h o.plan v)
  have zonedQueue : zoned.queue = (s.head h).queue := by
    unfold zoned
    rw [head_setBase]
    split <;> rfl
  rw [timed] at ended queue
  exact ⟨ended, queue.trans zonedQueue⟩

/-- R122: the order timer runs for the oldest order still OUTSTANDING. -/
theorem timer_doneFollows (h : Head) (o : Order) (s : State) (id : TimerId) : (doneFollows h o s).timer id =
    if TimerId.order h = id then
      match oldestIn .outstanding ((doneFollows h o s).head h) with
      | some q => Timer.start true ((q.resolved.map Resolved.timeout).getD 50)
      | none => .clear
    else s.timer id := by
  let w := recomputeHoldings h (setBase h (zoneOf ((o.resolved.map Resolved.target).getD ⟨0, 0⟩).x) s)
  have before : w.timer id = s.timer id := timer_of_timers (tellOther_timers _ _ _) id
  have after : (doneFollows h o s).timer id = (retime h w).timer id :=
    timer_of_timers ((timers_opportunity _ _).trans (timers_endPlan _ _ _)) id
  have queue : ((doneFollows h o s).head h).queue = (w.head h).queue := by
    have kept := (queue_opportunity h h (endPlan h o.plan (retime h w))).trans (queue_endPlan h h o.plan (retime h w))
    exact kept.trans (congrArg (fun x => (PerHead.get x h).queue) (heads_retime h w))
  have oldest : oldestIn .outstanding ((doneFollows h o s).head h) = oldestIn .outstanding (w.head h) := by
    unfold oldestIn
    rw [queue]
  rw [after, oldest, ← before]
  unfold retime
  cases oldestIn .outstanding (w.head h) with
  | none => exact timer_cancelTimer w (.order h) id
  | some q => exact timer_startTimer w (.order h) id _

theorem timer_resolveDone (h : Head) (o : Order) (s : State) (id : TimerId) : (resolveDone h o s).timer id =
    if TimerId.order h = id then
      match oldestIn .outstanding ((resolveDone h o s).head h) with
      | some q => Timer.start true ((q.resolved.map Resolved.timeout).getD 50)
      | none => .clear
    else (doneEffect h o (doneArrived h o s)).timer id := timer_doneFollows h o _ id

/-- R116, R124, R137: a head through an order resolved as done. -/
structure Done (o : Order) (x y : HeadRecord) : Prop where
  queue : y.queue.Sublist (x.queue.filter fun q => !(q.tag == o.tag))
  state : y.state = x.state
  known : y.known = some ((o.resolved.map Resolved.target).getD ⟨0, 0⟩)
  arrived : x.state = .ready → y.base = some (zoneOf ((o.resolved.map Resolved.target).getD ⟨0, 0⟩).x) ∧
    y.holdings = holdingsFrom (zoneOf ((o.resolved.map Resolved.target).getD ⟨0, 0⟩).x) y.queue
  rests : x.state ≠ .ready → y.base = x.base ∧ y.holdings = x.holdings

theorem newHoldings_of_not_ready {x : HeadRecord} (rests : x.state ≠ .ready) : newHoldings x = x.holdings := by
  unfold newHoldings
  split
  · next ready _ => exact absurd ready rests
  · rfl

theorem done_resolveDone (h : Head) (o : Order) (s : State) : Done o (s.head h) ((resolveDone h o s).head h) := by
  have effect := (drops_doneEffect h o (doneArrived h o s)).head h
  obtain ⟨ended, queue⟩ := head_doneFollows h o (doneEffect h o (doneArrived h o s))
  rw [← resolveDone_eq, head_setBase] at ended
  rw [← resolveDone_eq] at queue
  rw [head_doneArrived] at effect
  generalize (doneEffect h o (doneArrived h o s)).head h = m at effect ended queue
  generalize (resolveDone h o s).head h = y at ended queue
  have state : m.state = (s.head h).state := by rw [effect.rest]
  have known : m.known = some ((o.resolved.map Resolved.target).getD ⟨0, 0⟩) := by rw [effect.rest]
  refine ⟨by rw [queue]; exact effect.queue, ?_, ?_, fun ready => ?_, fun rests => ?_⟩
  · rw [ended.rest, ← state]
    dsimp only
    split <;> rfl
  · rw [ended.rest, ← known]
    dsimp only
    split <;> rfl
  · rw [if_pos (state.trans ready)] at ended
    refine ⟨by rw [ended.rest], ?_⟩
    rw [queue, ended.rest]
    unfold newHoldings
    dsimp only
    rw [state, ready]
  · have kept : m.state ≠ .ready := by rw [state]; exact rests
    rw [if_neg kept, newHoldings_of_not_ready kept] at ended
    constructor
    · rw [ended.rest, effect.rest]
    · rw [ended.rest, effect.rest]

/-! ## What follows the effect leaves as it was -/

/-- What follows the effect changes the heads, the grant points and the timers, and then ends the plan. -/
theorem doneFollows_eq (h : Head) (o : Order) (s : State) : ∃ heads points timers, doneFollows h o s =
    grantPoint h (opportunity h (endPlan h o.plan { s with heads := heads, points := points, timers := timers })) := by
  have retimed (v : State) : ∃ timers, retime h v = { v with timers := timers } := by
    unfold retime
    split <;> exact ⟨_, rfl⟩
  have told (v : State) (old : Span) : ∃ points, tellOther h old v = { v with points := points } := by
    unfold tellOther
    dsimp only
    split <;> exact ⟨_, rfl⟩
  obtain ⟨timers, last⟩ := retimed (recomputeHoldings h
    (setBase h (zoneOf ((o.resolved.map Resolved.target).getD ⟨0, 0⟩).x) s))
  unfold doneFollows
  rw [last]
  unfold recomputeHoldings
  obtain ⟨points, first⟩ := told ((setBase h (zoneOf ((o.resolved.map Resolved.target).getD ⟨0, 0⟩).x) s).modHead h
    fun x => { x with holdings := newHoldings x })
    ((setBase h (zoneOf ((o.resolved.map Resolved.target).getD ⟨0, 0⟩).x) s).head h).holdings
  rw [first]
  exact ⟨_, _, _, rfl⟩

theorem socket_doneFollows (h : Head) (o : Order) (i : Fin 64) (s : State) :
    (doneFollows h o s).sockets[i].unplanned = s.sockets[i].unplanned := by
  have ended (v : State) : (grantPoint h (opportunity h (endPlan h o.plan v))).benchView = v.benchView := by simp
  obtain ⟨heads, points, timers, follows⟩ := doneFollows_eq h o s
  rw [follows]
  exact benchView_socket (ended _) i

theorem socketState_doneFollows (h : Head) (o : Order) (i : Fin 64) (s : State) :
    (doneFollows h o s).sockets[i].state = s.sockets[i].state := (congrArg Socket.state (socket_doneFollows h o i s) :)

theorem socketFaults_doneFollows (h : Head) (o : Order) (i : Fin 64) (s : State) :
    (doneFollows h o s).sockets[i].faults = s.sockets[i].faults := (congrArg Socket.faults (socket_doneFollows h o i s) :)

theorem bins_doneFollows (h : Head) (o : Order) (s : State) : (doneFollows h o s).bins = s.bins := by
  obtain ⟨heads, points, timers, follows⟩ := doneFollows_eq h o s
  rw [follows, grantPoint_bins, bins_opportunity, bins_endPlan]

theorem taken_doneFollows (h : Head) (o : Order) (i : Fin 8) (s : State) :
    (doneFollows h o s).inputs[i].taken = s.inputs[i].taken := by
  obtain ⟨heads, points, timers, follows⟩ := doneFollows_eq h o s
  rw [follows, grantPoint_inputs, inputs_opportunity, taken_endPlan]

theorem downstream_doneFollows (h : Head) (o : Order) (s : State) : (doneFollows h o s).downstream = s.downstream := by
  obtain ⟨heads, points, timers, follows⟩ := doneFollows_eq h o s
  rw [follows, grantPoint_downstream, downstream_opportunity, downstream_endPlan]

/-! ## A PICK (R29, R67) -/

theorem arbitrate_downstream_congr (down : t.downstream = s.downstream) :
    (arbitrate .downstream t).downstream = (arbitrate .downstream s).downstream := by
  have sent (q : QueueKind) : (startSending .downstream q t).downstream = (startSending .downstream q s).downstream := by
    unfold startSending State.port State.setPort stamped
    cases q with
    | through =>
      dsimp only
      rw [down]
      cases s.downstream.through <;> rfl
    | own =>
      dsimp only
      rw [down]
      cases s.downstream.own <;> rfl
  unfold arbitrate State.port
  dsimp only
  rw [down]
  split
  · exact down
  · split
    · exact down
    · exact sent _
    · exact sent _
    · exact sent _

/-- A frame produced downstream leaves the port by the port and the unit's own address alone. -/
theorem produce_downstream_congr (down : t.downstream = s.downstream) (address : t.ownAddress = s.ownAddress)
    (d k : Byte) (payload : List Byte) :
    (produce .downstream d k payload t).downstream = (produce .downstream d k payload s).downstream := by
  have frame : ownFrame .downstream d k payload t = ownFrame .downstream d k payload s := by
    unfold ownFrame State.port
    rw [address]
    dsimp only
    rw [down]
  have advanced : (advanceSequence .downstream t).downstream = (advanceSequence .downstream s).downstream := by
    unfold advanceSequence State.setPort State.port
    dsimp only
    rw [down]
  have full : ownFull .downstream (advanceSequence .downstream t) = ownFull .downstream (advanceSequence .downstream s) := by
    unfold ownFull State.port
    dsimp only
    rw [advanced]
  unfold produce queueOwn
  rw [full]
  split
  · rw [raiseCongestion_downstream, raiseCongestion_downstream, advanced]
  · rw [frame]
    refine arbitrate_downstream_congr ?_
    unfold State.setPort State.port
    dsimp only
    rw [advanced]

/-- R21: a device that moves changes the records and the places alone. -/
theorem moveRecord_eq (a b : Place) (s : State) : ∃ parts inputs retests sockets heads, moveRecord a b s =
    { s with parts := parts, inputs := inputs, retests := retests, sockets := sockets, heads := heads } := by
  have set (p : Place) (r : Option (Fin 96)) (s : State) : ∃ inputs retests sockets heads, s.setRecordAt p r =
      { s with inputs := inputs, retests := retests, sockets := sockets, heads := heads } := by
    cases p <;> exact ⟨_, _, _, _, rfl⟩
  unfold moveRecord
  split
  · exact ⟨s.parts, s.inputs, s.retests, s.sockets, s.heads, rfl⟩
  · next k _ =>
    obtain ⟨_, _, _, _, left⟩ := set a none s
    obtain ⟨_, _, _, _, joined⟩ := set b (some k) (s.setRecordAt a none)
    rw [joined, left]
    exact ⟨_, _, _, _, _, rfl⟩

theorem tagAt_eq {p : Place} {k : Fin 96} {r : PartRecord} (held : s.recordAt p = some k) (device : s.parts[k] = some r) :
    tagAt s p = r.tag := by
  unfold tagAt
  rw [held, Option.bind_some, device]
  rfl

/-- R29: an input slot that is CLEARING has its tag, and SHUTTLE TAKEN is produced. -/
theorem clearSlot_spec (i : Fin 8) (tag : Nat) (s : State) : (clearSlot i tag s).inputs[i].taken = some tag ∧
    (clearSlot i tag s).downstream =
      (produce .downstream (s.nodeAddress 4) 0x42 (byte i.val :: leBytes 4 tag) s).downstream := by
  obtain ⟨west, east, marks⟩ := opportunityBoth_eq (s.modInput i fun x => { x with taken := some tag })
  unfold clearSlot shuttleTaken
  rw [marks]
  constructor
  · rw [offLink_inputs (offLink_produce _ _ _ _ _)]
    exact congrArg InputSlot.taken 
      ((State.input_modInput s i i fun x => { x with taken := some tag }).trans (if_pos rfl))
  · refine produce_downstream_congr (s := s) ?_ ?_ _ _ _
    · rfl
    · rfl

/-- R67: the PLACE of the same plan. -/
theorem placeFollows_iff (h : Head) (o : Order) (s : State) : placeFollows h o s = true ↔
    ∃ v, o.plan = some v ∧ ∃ q ∈ (s.head h).queue, q.plan = some v ∧ q.action = .place ∧ q.location = o.location ∧
      (q.state = .outstanding ∨ q.state = .unknown) := by
  unfold placeFollows
  simp only [Bool.and_eq_true, List.any_eq_true, beq_iff_eq, isGranted_iff, Option.isSome_iff_exists]
  constructor
  · rintro ⟨⟨v, plan⟩, q, mem, ⟨⟨same, place⟩, location⟩, granted⟩
    exact ⟨v, plan, q, mem, same.trans plan, place, location, granted⟩
  · rintro ⟨v, plan, q, mem, same, place, location, granted⟩
    exact ⟨⟨v, plan⟩, q, mem, ⟨⟨same.trans plan.symm, place⟩, location⟩, granted⟩

/-- R67: a socket that has been picked from. -/
theorem state_socketPicked (h : Head) (o : Order) (i : Fin 64) (s : State) :
    (placeFollows h o s = true → (socketPicked h o i s).sockets[i].state = .filling) ∧
    (placeFollows h o s = false →
      (socketPicked h o i s).sockets[i].state = if s.sockets[i].pendingDisable = none then .empty else .off) := by
  unfold socketPicked
  constructor
  · intro follows
    rw [if_pos follows]
    exact congrArg Socket.state (State.socket_modSocket_self s i fun x => { x with state := .filling })
  · intro alone
    rw [alone]
    exact state_enterEmpty_cases i s

/-! ## The devices (R21, R30, R89) -/

theorem custody_doneArrived (h : Head) (o : Order) (s : State) : (doneArrived h o s).custody = s.custody := by
  simp [doneArrived]

/-- R21: the device of a PICK stands on the nozzle. -/
theorem custody_doneEffect_pick {h : Head} {o : Order} {n : Fin 4} {loc : Location} {p : Place} (pick : o.action = .pick)
    (nozzle : o.nozzle = some n) (at_loc : o.location = some loc) (place : loc.custody = some p) (s : State) :
    (doneEffect h o s).custody = (moveRecord p (.nozzle h n) s).custody := by
  cases loc with
  | pocket b y j => cases place
  | socket i =>
    cases place
    simp [doneEffect, pick, nozzle, at_loc]
  | input i =>
    cases place
    simp [doneEffect, pick, nozzle, at_loc]
  | retest i =>
    cases place
    simp [doneEffect, pick, nozzle, at_loc]

/-- R21: the device of a PLACE stands in its place. -/
theorem custody_doneEffect_place {h : Head} {o : Order} {n : Fin 4} {loc : Location} {p : Place}
    (place' : o.action = .place) (nozzle : o.nozzle = some n) (at_loc : o.location = some loc)
    (place : loc.custody = some p) (off : ∀ i, p ≠ .input i) (held : (s.recordAt (.nozzle h n)).isSome = true) :
    (doneEffect h o s).custody = (moveRecord (.nozzle h n) p s).custody := by
  cases loc with
  | pocket b y j => cases place
  | socket i =>
    cases place
    simp [doneEffect, place', nozzle, at_loc, held]
  | input i =>
    cases place
    exact absurd rfl (off i)
  | retest i =>
    cases place
    simp [doneEffect, place', nozzle, at_loc]

/-- R89: a pocket is placed into and binned, and moves no device. -/
theorem placePocket_spec (b : Fin 16) (y : TrayId) (s : State) :
    (∀ p, (placePocket b y s).recordAt p = s.recordAt p) ∧
    (placePocket b y s).counters.binned[b] = min (s.counters.binned[b] + 1) 4294967295 ∧
    ((placePocket b y s).bins[b].tray y).placed = (s.bins[b].tray y).placed + 1 := by
  refine ⟨fun p => (custody_recordAt (custody_fillTray b y _) p).trans (by cases p <;> rfl), ?_, ?_⟩
  · refine (congrArg (fun v : Vector Nat 16 => v[b]) (custody_binned (custody_fillTray b y _))).trans ?_
    exact Vector.getElem_set_self _
  · refine (congrArg TrayRecord.placed (tray_fillTray b y _)).trans ?_
    exact congrArg TrayRecord.placed (tray_modTray b y (fun x => { x with placed := x.placed + 1 }) s)

theorem bins_releaseAt (p : Place) (s : State) : (releaseAt p s).bins = s.bins := by
  unfold releaseAt
  split
  · rfl
  · cases p <;> rfl

/-- R30, R89: the device of a PLACE into a pocket has left custody and is counted. -/
theorem doneEffect_pocket {h : Head} {o : Order} {n : Fin 4} {b : Fin 16} {y : TrayId} {j : Nat} (place : o.action = .place)
    (nozzle : o.nozzle = some n) (pocket : o.location = some (.pocket b y j)) (s : State) :
    (doneEffect h o s).recordAt (.nozzle h n) = none ∧
    (∀ k, s.recordAt (.nozzle h n) = some k → (doneEffect h o s).parts[k] = none) ∧
    (doneEffect h o s).counters.binned[b] = min (s.counters.binned[b] + 1) 4294967295 ∧
    ((doneEffect h o s).bins[b].tray y).placed = (s.bins[b].tray y).placed + 1 := by
  obtain ⟨records, binned, placed⟩ := placePocket_spec b y s
  cases held : s.recordAt (.nozzle h n) with
  | none =>
    have effect : doneEffect h o s = uncountRemoved (placePocket b y s) := by
      simp [doneEffect, place, nozzle, pocket, held]
    rw [effect]
    exact ⟨(records _).trans held, fun _ => nofun, binned, placed⟩
  | some k =>
    have effect : doneEffect h o s = releaseAt (.nozzle h n) (placePocket b y s) := by
      simp [doneEffect, place, nozzle, pocket, held]
    obtain ⟨released, freed, counters⟩ := releaseAt_spec ((records (.nozzle h n)).trans held)
    rw [effect, counters, bins_releaseAt, released, if_pos rfl]
    refine ⟨rfl, fun k' same => ?_, binned, placed⟩
    cases same
    rw [freed, if_pos rfl]

/-- R55, R56, R69: a socket that has been placed into. -/
theorem doneEffect_socket {h : Head} {o : Order} {n : Fin 4} {i : Fin 64} (place : o.action = .place)
    (nozzle : o.nozzle = some n) (socket : o.location = some (.socket i))
    (held : (s.recordAt (.nozzle h n)).isSome = true) :
    (s.lot.soak ≠ 0 → (doneEffect h o s).sockets[i].state = .soaking ∧
      (doneEffect h o s).timer (.soak i) = .running s.lot.soak) ∧
    (s.lot.soak = 0 → (doneEffect h o s).sockets[i].state = .ready ∨ (doneEffect h o s).sockets[i].state = .testing) ∧
    (s.lot.faultMode = .perPart → (doneEffect h o s).sockets[i].faults = .none) := by
  have effect : doneEffect h o s = beginSoak i (moveRecord (.nozzle h n) (.socket i) s) := by
    simp [doneEffect, place, nozzle, socket, held]
  have lot : (moveRecord (.nozzle h n) (.socket i) s).lot = s.lot := by
    obtain ⟨_, _, _, _, _, moved⟩ := moveRecord_eq (.nozzle h n) (.socket i) s
    rw [moved]
    rfl
  rw [effect, ← lot]
  generalize moveRecord (.nozzle h n) (.socket i) s = v
  have cleared (perPart : v.lot.faultMode = .perPart) : ((clearPartFaults i v).sockets[i]).faults = .none := by
    rw [clearPartFaults_socket, if_pos perPart]
  by_cases soak : v.lot.soak = 0
  · obtain ⟨state, ready, soaked⟩ := beginSoak_ready (i := i) soak
    rw [soaked]
    exact ⟨fun other => absurd soak other, fun _ => ready.imp id id, cleared⟩
  · obtain ⟨soaked, timed⟩ := beginSoak_soaks (i := i) soak
    rw [soaked]
    exact ⟨fun _ => ⟨rfl, timed⟩, fun other => absurd other soak, cleared⟩

/-- R124: a PARK has no effect on a location. -/
theorem doneEffect_park {h : Head} {o : Order} (park : o.action = .park) (s : State) : doneEffect h o s = s := by
  simp [doneEffect, park]

/-! ## The status (R123) -/

/-- R123, R124, R129: a DONE that matches its order resolves it as done. -/
theorem takeHeadStatus_done {h : Head} {payload : List Byte} {o : Order}
    (own : (HeadStatusFields.read payload).head = h.num) (read : (HeadStatusFields.read payload).outcome = some .done)
    (oldest : ((s.head h).queue.find? fun q => q.state == if (s.head h).state = .ready then .outstanding else .unknown) =
      some o)
    (tag : o.tag = (HeadStatusFields.read payload).tag) : takeHeadStatus h payload s = resolveDone h o s := by
  have status : orderStatus h .done (HeadStatusFields.read payload).tag s = resolveDone h o s := by
    unfold orderStatus
    rw [show matchOrder h s = some o from oldest]
    dsimp only
    rw [if_pos ⟨tag, rfl⟩]
    exact ite_self _
  unfold takeHeadStatus
  dsimp only
  rw [if_pos own, read]
  exact status

/-- R21, R29, R67: the device and the place of a PICK that is done. -/
theorem resolveDone_pick {h : Head} {o : Order} {n : Fin 4} {k : Fin 96} {r : PartRecord} {loc : Location} {p : Place}
    (pick : o.action = .pick) (nozzle : o.nozzle = some n) (device : s.parts[k] = some r) (at_loc : o.location = some loc)
    (place : loc.custody = some p) (held : s.recordAt p = some k) :
    let t := resolveDone h o s
    t.recordAt p = none ∧ t.recordAt (.nozzle h n) = some k ∧
    (∃ y, t.parts[k] = some y ∧ y.place = .nozzle h n ∧ y.tag = r.tag ∧ y.attempts = r.attempts) ∧
    (∀ i, p = .input i → t.inputs[i].taken = some r.tag ∧
      t.downstream = (produce .downstream (s.nodeAddress 4) 0x42 (byte i.val :: leBytes 4 r.tag) s).downstream) ∧
    (∀ i, p = .socket i →
      let follows := ∃ v, o.plan = some v ∧ ∃ q ∈ (s.head h).queue, q.tag ≠ o.tag ∧ q.plan = some v ∧
        q.action = .place ∧ q.location = some (.socket i) ∧ (q.state = .outstanding ∨ q.state = .unknown)
      (follows → t.sockets[i].state = .filling) ∧
      (¬ follows → t.sockets[i].state = if s.sockets[i].pendingDisable = none then .empty else .off)) := by
  intro t
  have arrived := custody_doneArrived h o s
  have moved : t.custody = (moveRecord p (.nozzle h n) (doneArrived h o s)).custody :=
    (custody_resolveDone h o s).trans (custody_doneEffect_pick pick nozzle at_loc place _)
  have off : Place.nozzle h n ≠ p := by
    rintro rfl
    cases loc <;> cases place
  obtain ⟨left, joined⟩ := moved_records arrived moved held off
  have record := moved_device arrived moved held device
  refine ⟨left, joined, record, fun i input => ?_, fun i socket => ?_⟩
  · subst input
    have location : o.location = some (.input i) := by
      cases loc <;> cases place
      exact at_loc
    have tag : tagAt (doneArrived h o s) (.input i) = r.tag := tagAt_eq (s := s) held device
    have effect : doneEffect h o (doneArrived h o s) =
        clearSlot i r.tag (moveRecord (.input i) (.nozzle h n) (doneArrived h o s)) := by
      simp [doneEffect, pick, nozzle, location, tag]
    obtain ⟨taken, sent⟩ := clearSlot_spec i r.tag (moveRecord (.input i) (.nozzle h n) (doneArrived h o s))
    constructor
    · exact (taken_doneFollows h o i _).trans (effect ▸ taken)
    · refine (downstream_doneFollows h o _).trans ((congrArg State.downstream effect).trans (sent.trans ?_))
      obtain ⟨_, _, _, _, _, same⟩ := moveRecord_eq (.input i) (.nozzle h n) (doneArrived h o s)
      rw [same]
      refine produce_downstream_congr (s := s) ?_ ?_ _ _ _
      · rfl
      · rfl
  · subst socket
    have location : o.location = some (.socket i) := by
      cases loc <;> cases place
      exact at_loc
    intro follows
    let v := moveRecord (.socket i) (.nozzle h n) (doneArrived h o s)
    have effect : doneEffect h o (doneArrived h o s) = socketPicked h o i v := by
      simp [doneEffect, pick, nozzle, location, v]
    have state : t.sockets[i].state = (socketPicked h o i v).sockets[i].state :=
      (socketState_doneFollows h o i (doneEffect h o (doneArrived h o s))).trans (by rw [effect])
    have queue : (v.head h).queue = (s.head h).queue.filter fun q => !(q.tag == o.tag) :=
      (queue_moveRecord _ _ h _).trans (congrArg HeadRecord.queue (head_doneArrived h o s))
    have same : placeFollows h o v = true ↔ follows := by
      rw [placeFollows_iff, queue, location]
      simp only [List.mem_filter, Bool.not_eq_true', beq_eq_false_iff_ne, follows, and_assoc]
    have disable : v.sockets[i].pendingDisable = s.sockets[i].pendingDisable := by
      obtain ⟨x, moved⟩ := socket_moveRecord (.socket i) (.nozzle h n) i (doneArrived h o s)
      exact (congrArg Socket.pendingDisable moved).trans rfl
    obtain ⟨filling, empty⟩ := state_socketPicked h o i v
    rw [state, ← disable]
    exact ⟨fun f => filling (same.2 f), fun alone => empty (Bool.eq_false_iff.2 fun f => alone (same.1 f))⟩

/-- Settles O33. -/
theorem doneResolvesOrder : Obligations.DoneResolvesOrder := by
  intro s h payload o g x t order oldest own read matched tag resolved
  have status : t = resolveDone h o s := takeHeadStatus_done own read matched tag
  clear_value t
  subst status
  have target : (o.resolved.map Resolved.target).getD ⟨0, 0⟩ = g.target := by
    rw [resolved]
    rfl
  have arrived := custody_doneArrived h o s
  obtain ⟨queue, state, known, ready, rests⟩ := done_resolveDone h o s
  rw [target] at known ready
  refine ⟨known, state, fun q mem => ?_, ready, rests, fun none' => ?_, fun q w found timed running => ?_,
    fun n k r loc p nozzle device at_loc place => ⟨fun pick held _ => ?_, fun place' off held _ => ?_⟩,
    fun n b y j pocket place nozzle => ?_, fun park => ⟨fun p => ?_, fun i => ?_⟩⟩
  · simpa using (List.mem_filter.1 (queue.subset mem)).2
  · rw [timer_resolveDone, if_pos rfl, show oldestIn .outstanding _ = none from none']
  · rw [timer_resolveDone, if_pos rfl, show oldestIn .outstanding _ = some q from found]
    obtain ⟨k, more⟩ := Nat.exists_eq_succ_of_ne_zero running
    dsimp only
    rw [timed, Option.map_some, Option.getD_some, more]
    rfl
  · exact resolveDone_pick pick nozzle device at_loc place held
  · have carried : ((doneArrived h o s).recordAt (.nozzle h n)).isSome = true := by
      rw [custody_recordAt arrived, held]
      rfl
    have moved : (resolveDone h o s).custody = (moveRecord (.nozzle h n) p (doneArrived h o s)).custody :=
      (custody_resolveDone h o s).trans (custody_doneEffect_place place' nozzle at_loc place off carried)
    have onDeck : p ≠ .nozzle h n := by
      rintro rfl
      cases loc <;> cases place
    obtain ⟨left, joined⟩ := moved_records arrived moved held onDeck
    have record := moved_device arrived moved held device
    refine ⟨joined, left, record, fun i socket => ?_⟩
    subst socket
    have location : o.location = some (.socket i) := by
      cases loc <;> cases place
      exact at_loc
    obtain ⟨soaks, ready, cleared⟩ := doneEffect_socket place' nozzle location carried
    rw [timer_resolveDone, if_neg (by simp), resolveDone_eq, socketState_doneFollows, socketFaults_doneFollows]
    exact ⟨soaks, ready, cleared⟩
  · obtain ⟨left, freed, binned, placed⟩ := doneEffect_pocket place nozzle pocket (doneArrived h o s)
    have same := custody_resolveDone h o s
    refine ⟨(custody_recordAt same _).trans left,
      fun k held => custody_free same (freed k ((custody_recordAt arrived _).trans held)),
      (congrArg (fun v : Vector Nat 16 => v[b]) (custody_binned same)).trans binned, ?_⟩
    rw [resolveDone_eq, bins_doneFollows]
    exact placed
  · have still := congrArg State.custody (doneEffect_park (h := h) park (doneArrived h o s))
    exact custody_recordAt ((custody_resolveDone h o s).trans (still.trans arrived)) p
  · rw [resolveDone_eq, socketState_doneFollows, doneEffect_park park]
    rfl

end Sys2Proof.Machine
end

section
/-! PROOFS. What resolving the orders of a head keeps (R124, R127, R131). -/

namespace Sys2Proof.Machine

variable {s t u : State} {k : EventKind}

/-! ## Pending events through an order resolved as done -/

theorem pends_clearPartFaults (i : Fin 64) (h : s.pends k) : (clearPartFaults i s).pends k := by
  unfold clearPartFaults
  split <;> exact h

theorem pends_placePocket (b : Fin 16) (y : TrayId) (h : s.pends k) : (placePocket b y s).pends k := by
  unfold placePocket fillTray
  dsimp only
  split
  · exact pends_raiseEvent _ _ h
  · exact h

theorem pends_releaseAt (p : Place) (h : s.pends k) : (releaseAt p s).pends k := by
  unfold releaseAt
  split
  · exact h
  · exact pends_of_events (by cases p <;> rfl) h

theorem pends_moveRecord (a b : Place) (h : s.pends k) : (moveRecord a b s).pends k := by
  obtain ⟨_, _, _, _, _, moved⟩ := moveRecord_eq a b s
  rw [moved]
  exact h

theorem pends_beginSoak (i : Fin 64) (h : s.pends k) : (beginSoak i s).pends k := by
  unfold beginSoak
  dsimp only
  split
  · exact pends_updateGroupOf i (s := (clearPartFaults i s).modSocket i _) (pends_clearPartFaults i h)
  · exact pends_setTimer _ _ (pends_of_events rfl (pends_clearPartFaults i h))

theorem pends_doneEffect (x : Head) (o : Order) (h : s.pends k) : (doneEffect x o s).pends k := by
  unfold doneEffect
  split
  · next i n _ _ _ =>
    have moved := pends_moveRecord (.socket i) (.nozzle x n) h
    unfold socketPicked
    split
    · exact pends_of_events rfl moved
    · exact pends_enterEmpty i moved
  · next i n _ _ _ =>
    exact pends_produce _ _ _ _ (pends_opportunityBoth (pends_of_events rfl (pends_moveRecord (.input i) (.nozzle x n) h)))
  · exact pends_opportunityBoth (pends_moveRecord _ _ h)
  · split
    · exact pends_beginSoak _ (pends_moveRecord _ _ h)
    · exact pends_enterEmpty _ (pends_clearPartFaults _ h)
  · exact pends_opportunityBoth (pends_moveRecord _ _ h)
  · split
    · exact pends_releaseAt _ (pends_placePocket _ _ h)
    · exact pends_of_events rfl (pends_placePocket _ _ h)
  · exact h

theorem pends_resolveDone (x : Head) (o : Order) (h : s.pends k) : (resolveDone x o s).pends k := by
  have effect := pends_doneEffect x o (s := doneArrived x o s) h
  obtain ⟨heads, points, timers, follows⟩ := doneFollows_eq x o (doneEffect x o (doneArrived x o s))
  rw [resolveDone_eq, follows]
  exact pends_opportunity x (pends_endPlan x o.plan effect)

/-! ## The other head -/

theorem holdings_of_drops (d : Drops s t) (h : Head) : (t.head h).holdings = (s.head h).holdings := by
  rw [(d.head h).rest]

theorem other_recomputeHoldings (h : Head) (s : State) : (recomputeHoldings h s).head h.other = s.head h.other :=
  (congrArg (PerHead.get · h.other) (tellOther_heads _ _ _)).trans (State.head_modHead_other s h _)

theorem other_resolveDone (h : Head) (o : Order) (s : State) :
    ((resolveDone h o s).head h.other).holdings = (s.head h.other).holdings := by
  let v := setBase h (zoneOf ((o.resolved.map Resolved.target).getD ⟨0, 0⟩).x) (doneEffect h o (doneArrived h o s))
  have ended := holdings_of_drops ((drops_endPlan h o.plan (retime h (recomputeHoldings h v))).trans
    ((drops_opportunity h _).trans (drops_grantPoint h _))) h.other
  have timed : (retime h (recomputeHoldings h v)).head h.other = v.head h.other :=
    (congrArg (PerHead.get · h.other) (heads_retime h _)).trans (other_recomputeHoldings h v)
  have zoned : v.head h.other = (doneEffect h o (doneArrived h o s)).head h.other := State.head_modHead_other _ h _
  have effect := holdings_of_drops (drops_doneEffect h o (doneArrived h o s)) h.other
  have arrived : (doneArrived h o s).head h.other = s.head h.other :=
    (State.head_modHead_other _ h _).trans (State.head_modHead_other s h _)
  rw [timed, zoned, effect, arrived] at ended
  exact ended

theorem other_resolveNotDone (h : Head) (o : Order) (s : State) :
    ((resolveNotDone h o s).head h.other).holdings = (s.head h.other).holdings := by
  let v := notDoneEffect o (leaveQueue h o.tag s)
  have ended := holdings_of_drops ((drops_endPlan h o.plan (recomputeHoldings h v)).trans
    ((drops_opportunity h _).trans (drops_grantPoint h _))) h.other
  have effect := holdings_of_drops (drops_notDoneEffect o (leaveQueue h o.tag s)) h.other
  have left : (leaveQueue h o.tag s).head h.other = s.head h.other := State.head_modHead_other s h _
  rw [other_recomputeHoldings, effect, left] at ended
  exact ended

/-! ## The heads' timers -/

theorem timer_resolveNotDone (h g : Head) (o : Order) (s : State) :
    (resolveNotDone h o s).timer (.order g) = s.timer (.order g) ∧
      (resolveNotDone h o s).timer (.recover g) = s.timer (.recover g) := by
  let v := notDoneEffect o (leaveQueue h o.tag s)
  have after : (resolveNotDone h o s).timers = v.timers :=
    ((timers_opportunity _ _).trans (timers_endPlan _ _ _)).trans (tellOther_timers _ _ _)
  obtain ⟨order, -, recover⟩ := (drops_notDoneEffect o (leaveQueue h o.tag s)).timer g
  exact ⟨(timer_of_timers after _).trans order, (timer_of_timers after _).trans recover⟩

/-! ## Orders resolved one after the other -/

/-- Between two states a head has had orders resolved: none has joined its queue, its state, the other head's holdings and
its recover timer are as they were, its order timer does not start without an OUTSTANDING order, and no event is withdrawn. -/
structure Resolves (h : Head) (s t : State) : Prop where
  queue : (t.head h).queue.Sublist (s.head h).queue
  state : (t.head h).state = (s.head h).state
  other : (t.head h.other).holdings = (s.head h.other).holdings
  recover : t.timer (.recover h) = s.timer (.recover h)
  order : (∀ q ∈ (s.head h).queue, q.state ≠ .outstanding) → s.timer (.order h) = .clear → t.timer (.order h) = .clear
  pends : ∀ k, s.pends k → t.pends k

theorem Resolves.refl (h : Head) (s : State) : Resolves h s s := ⟨.refl _, rfl, rfl, rfl, fun _ c => c, fun _ p => p⟩

theorem Resolves.trans {h : Head} (a : Resolves h s t) (b : Resolves h t u) : Resolves h s u :=
  ⟨b.queue.trans a.queue, b.state.trans a.state, b.other.trans a.other, b.recover.trans a.recover,
    fun rests clear => b.order (fun q mem => rests q (a.queue.subset mem)) (a.order rests clear),
    fun k p => b.pends k (a.pends k p)⟩

theorem resolves_resolveDone (h : Head) (o : Order) (s : State) : Resolves h s (resolveDone h o s) := by
  have done := done_resolveDone h o s
  refine ⟨done.queue.trans List.filter_sublist, done.state, other_resolveDone h o s, ?_, fun rests _ => ?_,
    fun k => pends_resolveDone h o⟩
  · rw [timer_resolveDone, if_neg (by simp)]
    exact ((drops_doneEffect h o (doneArrived h o s)).timer h).2.2
  · have none' : oldestIn .outstanding ((resolveDone h o s).head h) = none :=
      List.find?_eq_none.2 fun q mem => by
        simpa using rests q ((done.queue.trans List.filter_sublist).subset mem)
    rw [timer_resolveDone, if_pos rfl, none']

theorem resolves_resolveNotDone (h : Head) (o : Order) (s : State) : Resolves h s (resolveNotDone h o s) := by
  have left := notDone_resolveNotDone h o s
  obtain ⟨order, recover⟩ := timer_resolveNotDone h h o s
  exact ⟨left.queue.trans List.filter_sublist, left.state, other_resolveNotDone h o s, recover,
    fun _ clear => order.trans clear, fun k => pends_resolveNotDone h o⟩

/-- R131 step 2: each order is resolved as done or as not done. -/
theorem resolveByPresence_cons (h : Head) (presence : Byte) (o : Order) (l : List Order) (failed : Bool) (s : State) :
    ∃ failed' v, (v = resolveDone h o s ∨ v = resolveNotDone h o s) ∧
      resolveByPresence h presence (o :: l) failed s = resolveByPresence h presence l failed' v := by
  rw [resolveByPresence]
  split
  · split
    · exact ⟨_, _, .inl rfl, rfl⟩
    · exact ⟨_, _, .inr rfl, rfl⟩
  · split
    · exact ⟨_, _, .inl rfl, rfl⟩
    · exact ⟨_, _, .inr rfl, rfl⟩
  · exact ⟨_, _, .inr rfl, rfl⟩

/-- R131 step 2: the orders resolved by presence have left the queue. -/
theorem resolves_resolveByPresence (h : Head) (presence : Byte) : ∀ (l : List Order) (failed : Bool) (s : State),
    Resolves h s (resolveByPresence h presence l failed s) ∧
      ∀ o ∈ l, ∀ q ∈ ((resolveByPresence h presence l failed s).head h).queue, q.tag ≠ o.tag
  | [], _, s => ⟨.refl h s, fun _ mem => absurd mem List.not_mem_nil⟩
  | o :: l, failed, s => by
    obtain ⟨failed', v, resolved, next⟩ := resolveByPresence_cons h presence o l failed s
    have first : Resolves h s v ∧ (v.head h).queue.Sublist ((s.head h).queue.filter fun q => !(q.tag == o.tag)) := by
      obtain rfl | rfl := resolved
      · exact ⟨resolves_resolveDone h o s, (done_resolveDone h o s).queue⟩
      · exact ⟨resolves_resolveNotDone h o s, (notDone_resolveNotDone h o s).queue⟩
    obtain ⟨rest, gone⟩ := resolves_resolveByPresence h presence l failed' v
    rw [next]
    refine ⟨first.1.trans rest, fun p mem q left => ?_⟩
    obtain rfl | later := List.mem_cons.1 mem
    · simpa using (List.mem_filter.1 (first.2.subset (rest.queue.subset left))).2
    · exact gone p later q left

end Sys2Proof.Machine
end

section
/-! PROOFS. READY: O34. -/

namespace Sys2Proof.Machine

variable {s t u : State}

/-! ## The nozzles compared with their flags (R131 step 3) -/

/-- R131 step 3: a nozzle after its comparison. -/
def comparedNozzle (present : Bool) (x : Nozzle) : Nozzle :=
  if present then if x.record.isNone then { x with blocked := true } else x else { x with record := none, blocked := false }

/-- Between two states nozzles of a head have been compared: devices have left them at most, and nothing else has changed but
their marks and the counters. -/
structure Compares (h : Head) (s t : State) : Prop where
  off : ∀ p, (∀ n, p ≠ .nozzle h n) → t.recordAt p = s.recordAt p
  queue : (t.head h).queue = (s.head h).queue
  drops : Drops s t
  socket : ∀ i : Fin 64, t.sockets[i] = s.sockets[i]
  events : t.events = s.events
  freed : ∀ k : Fin 96, s.parts[k] = none → t.parts[k] = none

theorem Compares.refl (h : Head) (s : State) : Compares h s s :=
  ⟨fun _ _ => rfl, rfl, .refl s, fun _ => rfl, rfl, fun _ free => free⟩

theorem Compares.trans {h : Head} (a : Compares h s t) (b : Compares h t u) : Compares h s u :=
  ⟨fun p off => (b.off p off).trans (a.off p off), b.queue.trans a.queue, a.drops.trans b.drops,
    fun i => (b.socket i).trans (a.socket i), b.events.trans a.events, fun k free => b.freed k (a.freed k free)⟩

/-- A change of a nozzle's mark. -/
theorem compares_mark (h : Head) (n : Fin 4) (mark : Bool) (s : State) :
    Compares h s (s.modNozzle h n fun x => { x with blocked := mark }) := by
  have custody := custody_modNozzle h n (fun x => { x with blocked := mark }) (fun _ => rfl) s
  refine ⟨fun p _ => custody_recordAt custody p, ?_, ?_, fun _ => rfl, rfl, fun _ free => free⟩
  · exact (congrArg HeadRecord.queue (State.head_modHead_self s h fun x =>
      { x with nozzles := x.nozzles.set n { x.nozzles[n] with blocked := mark } })).trans rfl
  · exact drops_modHead h (fun x => { x with nozzles := x.nozzles.set n { x.nozzles[n] with blocked := mark } }) s fun _ =>
      .same rfl rfl

/-- R31: the removal of a nozzle's device. -/
theorem compares_removed {h : Head} {n : Fin 4} {k : Fin 96} (held : s.recordAt (.nozzle h n) = some k) :
    Compares h s (removedFrom (.nozzle h n) s) := by
  obtain ⟨parts, records, -⟩ := removedFrom_spec held
  obtain ⟨-, -, sockets, -⟩ := removedFrom_frame held
  have whole : removedFrom (.nozzle h n) s = countRemoved ((s.setRecordAt (.nozzle h n) none).setPart k none) := by
    unfold removedFrom releaseAt
    rw [held]
  have drops : Drops s (countRemoved (releaseAt (.nozzle h n) s)) := (drops_releaseAt _ s).trans (drops_modCounters _ _)
  refine ⟨fun p off => ?_, ?_, drops, fun i => ?_, ?_, fun j free => ?_⟩
  · rw [records, if_neg fun e => off n e.symm]
  · rw [whole]
    exact queue_setRecordAt _ _ h s
  · rw [sockets, if_neg Place.noConfusion]
  · rw [whole]
    rfl
  · rw [parts, free]
    exact ite_self _

/-- R131 step 3: one nozzle's comparison. -/
structure ComparedOne (h : Head) (present : Bool) (n : Fin 4) (s t : State) : Prop where
  keeps : Compares h s t
  nozzle : ∀ m : Fin 4, (t.head h).nozzles[m] =
    if n = m then comparedNozzle present (s.head h).nozzles[n] else (s.head h).nozzles[m]
  left : ∀ k, present = false → s.recordAt (.nozzle h n) = some k → t.parts[k] = none
  removed : t.counters.removed =
    if (s.recordAt (.nozzle h n)).isSome && !present then satSucc s.counters.removed else s.counters.removed

theorem comparedOne_compareNozzle (h : Head) (presence : Byte) (n : Fin 4) (s : State) :
    ComparedOne h (presentFlag presence n) n s (compareNozzle h presence s n) := by
  unfold compareNozzle
  split
  · next present =>
    rw [present]
    split
    · next empty =>
      refine ⟨compares_mark h n true s, fun m => ?_, fun _ => nofun, ?_⟩
      · rw [State.nozzle_modNozzle, comparedNozzle, if_pos rfl, if_pos empty]
        simp
      · simp [State.modNozzle]
    · next full =>
      refine ⟨.refl h s, fun m => ?_, fun _ => nofun, by simp⟩
      rw [comparedNozzle, if_pos rfl, if_neg full]
      split
      · next e => rw [e]
      · rfl
  · next absent =>
    rw [Bool.eq_false_iff.2 absent]
    unfold clearNozzle removeFromNozzle
    cases held : s.recordAt (.nozzle h n) with
    | none =>
      have empty : (s.head h).nozzles[n].record = none := held
      rw [empty]
      refine ⟨compares_mark h n false s, fun m => ?_, fun k _ same => absurd (held.symm.trans same) nofun, ?_⟩
      · refine (State.nozzle_modNozzle s h h n m fun x => { x with blocked := false }).trans ?_
        rw [comparedNozzle, if_neg Bool.false_ne_true, ← empty]
        simp only [true_and]
      · rw [held]
        rfl
    | some k =>
      have full : (s.head h).nozzles[n].record = some k := held
      obtain ⟨parts, -, counters⟩ := removedFrom_spec held
      obtain ⟨-, -, -, nozzles⟩ := removedFrom_frame held
      rw [full]
      have both := (compares_removed held).trans (compares_mark h n false (removedFrom (.nozzle h n) s))
      refine ⟨both, fun m => ?_, fun j _ same => ?_, ?_⟩
      · refine (State.nozzle_modNozzle (removedFrom (.nozzle h n) s) h h n m fun x => { x with blocked := false }).trans ?_
        rw [nozzles, nozzles, if_pos rfl, comparedNozzle, if_neg Bool.false_ne_true]
        by_cases e : n = m <;> simp [e]
      · obtain rfl : k = j := Option.some.inj (held.symm.trans same)
        exact (parts k).trans (if_pos rfl)
      · rw [held]
        exact congrArg Counters.removed counters

/-- R131 step 3: the comparisons of some nozzles, one after the other. -/
theorem foldl_compareNozzle (h : Head) (presence : Byte) : ∀ (l : List (Fin 4)) (s : State), l.Nodup →
    let t := l.foldl (compareNozzle h presence) s
    Compares h s t ∧
    (∀ m : Fin 4, (t.head h).nozzles[m] =
      if m ∈ l then comparedNozzle (presentFlag presence m) (s.head h).nozzles[m] else (s.head h).nozzles[m]) ∧
    (∀ m ∈ l, ∀ k, presentFlag presence m = false → s.recordAt (.nozzle h m) = some k → t.parts[k] = none) ∧
    (s.counters.removed ≤ 4294967295 → t.counters.removed = min (s.counters.removed +
      (l.filter fun m => (s.recordAt (.nozzle h m)).isSome && !presentFlag presence m).length) 4294967295)
  | [], s, _ => ⟨.refl h s, fun _ => rfl, fun _ mem => absurd mem List.not_mem_nil,
    fun bound => (min_eq_left bound).symm⟩
  | n :: l, s, distinct => by
    obtain ⟨fresh, distinct⟩ := List.nodup_cons.1 distinct
    have one := comparedOne_compareNozzle h presence n s
    obtain ⟨keeps, nozzles, left, removed⟩ := foldl_compareNozzle h presence l (compareNozzle h presence s n) distinct
    have later (m : Fin 4) (mem : m ∈ l) :
        (compareNozzle h presence s n).recordAt (.nozzle h m) = s.recordAt (.nozzle h m) :=
      congrArg Nozzle.record ((one.nozzle m).trans (if_neg fun e : n = m => fresh (e ▸ mem)))
    refine ⟨one.keeps.trans keeps, fun m => ?_, fun m mem k absent held => ?_, fun bound => ?_⟩
    · rw [List.foldl_cons, nozzles, one.nozzle]
      by_cases e : n = m
      · subst e
        simp [fresh]
      · simp [e, Ne.symm e]
    · obtain rfl | mem := List.mem_cons.1 mem
      · exact keeps.freed k (one.left k absent held)
      · exact left m mem k absent ((later m mem).trans held)
    · have rest : (l.filter fun m =>
            ((compareNozzle h presence s n).recordAt (.nozzle h m)).isSome && !presentFlag presence m) =
          l.filter fun m => (s.recordAt (.nozzle h m)).isSome && !presentFlag presence m :=
        List.filter_congr fun m mem => by rw [later m mem]
      rw [rest, one.removed] at removed
      rw [List.foldl_cons, List.filter_cons]
      split at removed
      · next gone =>
        rw [if_pos gone, List.length_cons]
        refine (removed (Nat.min_le_right _ _)).trans ?_
        unfold satSucc Config.counterMax
        omega
      · next stays =>
        rw [if_neg stays]
        exact removed bound

/-- R131 step 3: a head's nozzles compared with their flags. -/
structure ComparedAll (h : Head) (presence : Byte) (s t : State) : Prop where
  off : ∀ p, (∀ n, p ≠ .nozzle h n) → t.recordAt p = s.recordAt p
  queue : (t.head h).queue = (s.head h).queue
  drops : Drops s t
  socket : ∀ i : Fin 64, t.sockets[i] = s.sockets[i]
  pends : ∀ k, s.pends k → t.pends k
  nozzle : ∀ m : Fin 4, (t.head h).nozzles[m] = comparedNozzle (presentFlag presence m) (s.head h).nozzles[m]
  marked : ∀ m : Fin 4, presentFlag presence m = true → (s.head h).nozzles[m].record = none → t.pends .headProtocol
  left : ∀ (m : Fin 4) k, presentFlag presence m = false → s.recordAt (.nozzle h m) = some k → t.parts[k] = none
  removed : s.counters.removed ≤ 4294967295 → t.counters.removed = min (s.counters.removed +
    ((List.finRange 4).filter fun m => (s.recordAt (.nozzle h m)).isSome && !presentFlag presence m).length) 4294967295

theorem comparedAll_compareNozzles (h : Head) (presence : Byte) (s : State) :
    ComparedAll h presence s (compareNozzles h presence s) := by
  obtain ⟨keeps, nozzles, left, removed⟩ := foldl_compareNozzle h presence (List.finRange 4) s (List.nodup_finRange 4)
  have nozzle (m : Fin 4) := (nozzles m).trans (if_pos (List.mem_finRange m))
  have kept (k : EventKind) : s.pends k → ((List.finRange 4).foldl (compareNozzle h presence) s).pends k :=
    pends_of_events keeps.events
  unfold compareNozzles
  dsimp only
  generalize (List.finRange 4).foldl (compareNozzle h presence) s = u at keeps nozzle left removed kept
  split
  · have same := offLink_raiseEvent .headProtocol h.num u
    have custody := custody_raiseEvent .headProtocol h.num u
    have head : (raiseEvent .headProtocol h.num u).head h = u.head h := congrArg (PerHead.get · h) (offLink_heads same)
    refine ⟨fun p off => (custody_recordAt custody p).trans (keeps.off p off), ?_, keeps.drops.trans (drops_raiseEvent _ _ u),
      fun i => ?_, fun k p => pends_raiseEvent _ _ (kept k p), fun m => ?_, fun _ _ _ => raiseEvent_pends _ _ u,
      fun m k absent held => custody_free custody (left m (List.mem_finRange m) k absent held),
      fun bound => (custody_removed custody).trans (removed bound)⟩
    · rw [head, keeps.queue]
    · rw [offLink_sockets same, keeps.socket]
    · rw [head, nozzle]
  · next unmarked =>
    refine ⟨keeps.off, keeps.queue, keeps.drops, keeps.socket, kept, nozzle, fun m present empty => ?_,
      fun m => left m (List.mem_finRange m), removed⟩
    refine absurd (List.any_eq_true.2 ⟨m, List.mem_finRange m, ?_⟩) unmarked
    rw [present, empty]
    rfl

/-! ## The orders of READY (R131 step 2) -/

theorem resolves_of_comparedAll {h : Head} {presence : Byte} (c : ComparedAll h presence s t) : Resolves h s t := by
  obtain ⟨order, -, recover⟩ := c.drops.timer h
  refine ⟨by rw [c.queue], ?_, holdings_of_drops c.drops h.other, recover, fun _ clear => order.trans clear, c.pends⟩
  rw [(c.drops.head h).rest]

/-- The orders that READY resolves. -/
def unknownOrders (h : Head) (s : State) : List Order := (s.head h).queue.filter fun o => o.state == .unknown

/-- R131: READY resolves the UNKNOWN orders, and then compares the nozzles. -/
theorem reconcile_spec (h : Head) (presence : Byte) (s : State) :
    ∃ m, m = resolveByPresence h presence (unknownOrders h s) false s ∧ ComparedAll h presence m (reconcile h presence s) ∧
      Resolves h s (reconcile h presence s) ∧ ∀ q ∈ ((reconcile h presence s).head h).queue, q.state ≠ .unknown := by
  obtain ⟨resolves, gone⟩ := resolves_resolveByPresence h presence (unknownOrders h s) false s
  have compared := comparedAll_compareNozzles h presence (resolveByPresence h presence (unknownOrders h s) false s)
  refine ⟨_, rfl, compared, resolves.trans (resolves_of_comparedAll compared), fun q mem unknown => ?_⟩
  have left : q ∈ ((resolveByPresence h presence (unknownOrders h s) false s).head h).queue := compared.queue ▸ mem
  exact gone q (List.mem_filter.2 ⟨resolves.queue.subset left, beq_iff_eq.2 unknown⟩) q left rfl

/-- R131: a single UNKNOWN PICK is resolved by its nozzle's flag. -/
theorem resolveByPresence_pick {h : Head} {presence : Byte} {o : Order} {n : Fin 4} (pick : o.action = .pick)
    (nozzle : o.nozzle = some n) (s : State) : resolveByPresence h presence [o] false s =
      if presentFlag presence n = true then resolveDone h o s else resolveNotDone h o s := by
  simp only [resolveByPresence, pick, nozzle, Bool.not_false, Bool.true_and]

/-! ## The head at the reported position (R131, R137, R139) -/

/-- R31, R131, R139: between the reconciled state and the end of READY the head has come to stand at the position. -/
structure Stands (h : Head) (p : Pos) (s t : State) : Prop where
  head : t.head h = { s.head h with
    state := .ready, known := some p, base := some (clippedZone h (zoneOf p.x) s)
    holdings := ⟨clippedZone h (zoneOf p.x) s, clippedZone h (zoneOf p.x) s⟩
    ticket := (t.head h).ticket, passDue := (t.head h).passDue }
  other : (t.head h.other).holdings = (s.head h.other).holdings
  custody : t.custody = s.custody
  sockets : t.sockets = s.sockets
  timers : t.timers = s.timers
  pends : ∀ k, s.pends k → t.pends k

/-- R139: the reported zone is clipped against the other head alone. -/
theorem clippedZone_congr {h : Head} (other : (t.head h.other).holdings = (s.head h.other).holdings) (z : Nat) :
    clippedZone h z t = clippedZone h z s := by
  cases h with
  | west => exact congrArg (fun x : Span => min z (x.lo - 2)) other
  | east => exact congrArg (fun x : Span => max z (x.hi + 2)) other

/-- The head is READY with the reported position known. -/
def readyAt (h : Head) (p : Pos) (s : State) : State := s.setHead h { s.head h with state := .ready, known := some p }

theorem stands_standAt (h : Head) (p : Pos) (s : State) : Stands h p s (standAt h p (readyAt h p s)) := by
  let c := clippedZone h (zoneOf p.x) (readyAt h p s)
  let v := (readyAt h p s).modHead h fun x => { x with base := some c, holdings := ⟨c, c⟩ }
  have clipped : c = clippedZone h (zoneOf p.x) s :=
    clippedZone_congr (congrArg HeadRecord.holdings (State.head_setHead_other s h _)) _
  have custody : (standAt h p (readyAt h p s)).custody = s.custody :=
    (custody_standAt h p _).trans (custody_modHead_rest h (fun x => { x with state := .ready, known := some p })
      (fun _ => rfl) s)
  have heads : (standAt h p (readyAt h p s)).heads = v.heads := by
    unfold standAt
    dsimp only
    split
    · exact tellOther_heads _ _ _
    · exact (offLink_heads (offLink_raiseEvent _ _ _)).trans (tellOther_heads _ _ _)
  have sockets : (standAt h p (readyAt h p s)).sockets = s.sockets := by
    unfold standAt
    dsimp only
    split
    · exact tellOther_sockets _ _ _
    · exact (offLink_sockets (offLink_raiseEvent _ _ _)).trans (tellOther_sockets _ _ _)
  have timers : (standAt h p (readyAt h p s)).timers = s.timers := by
    unfold standAt
    dsimp only
    split
    · exact tellOther_timers _ _ _
    · exact (offLink_timers (offLink_raiseEvent _ _ _)).trans (tellOther_timers _ _ _)
  have pends (k : EventKind) (pending : s.pends k) : (standAt h p (readyAt h p s)).pends k := by
    unfold standAt
    dsimp only
    split
    · exact pends_of_events (tellOther_events _ _ _) pending
    · exact pends_raiseEvent _ _ (pends_of_events (tellOther_events _ _ _) pending)
  have own : (standAt h p (readyAt h p s)).head h = v.head h := congrArg (PerHead.get · h) heads
  have others : (standAt h p (readyAt h p s)).head h.other = s.head h.other :=
    (congrArg (PerHead.get · h.other) heads).trans
      ((State.head_modHead_other _ h _).trans (State.head_setHead_other s h _))
  refine ⟨?_, congrArg HeadRecord.holdings others, custody, sockets, timers, pends⟩
  rw [own, State.head_modHead_self, readyAt, State.head_setHead_self, ← clipped]

/-- What follows the standing changes the head's ticket and its mark of an opportunity at most. -/
theorem Stands.rests {h : Head} {p : Pos} (a : Stands h p s t)
    (head : u.head h = { t.head h with ticket := (u.head h).ticket, passDue := (u.head h).passDue })
    (other : (u.head h.other).holdings = (t.head h.other).holdings) (custody : u.custody = t.custody)
    (sockets : u.sockets = t.sockets) (timers : u.timers = t.timers) (pends : ∀ k, t.pends k → u.pends k) :
    Stands h p s u :=
  ⟨by rw [head, a.head], other.trans a.other, custody.trans a.custody, sockets.trans a.sockets, timers.trans a.timers,
    fun k pending => pends k (a.pends k pending)⟩

theorem Stands.opportunity {h : Head} {p : Pos} (a : Stands h p s t) :
    Stands h p s (grantPoint h (Machine.opportunity h t)) := by
  obtain ⟨west, east, marks⟩ := opportunity_eq h t
  rw [marks]
  refine a.rests ?_ ?_ ?_ rfl rfl fun _ pending => pending
  · cases h <;> rfl
  · cases h <;> rfl
  · rw [← marks]
    exact custody_opportunity h t

theorem Stands.complete {h : Head} {p : Pos} (a : Stands h p s t) :
    Stands h p s (Machine.complete codeHeadRecover (.head h) .ok (t.modHead h fun x => { x with ticket := none })) := by
  let v := t.modHead h fun x => { x with ticket := none }
  obtain ⟨completions, wanted, same⟩ := offLink_complete codeHeadRecover (.head h) .ok v
  have heads := offLink_heads same
  have own : v.head h = { t.head h with ticket := none } := State.head_modHead_self t h _
  have other : v.head h.other = t.head h.other := State.head_modHead_other t h _
  refine a.rests ?_ ?_ ?_ ((offLink_sockets same).trans rfl)
    ((offLink_timers same).trans rfl) fun k pending => pends_complete _ _ _ pending
  · have after : (Machine.complete codeHeadRecover (.head h) .ok v).head h = { t.head h with ticket := none } :=
      (congrArg (PerHead.get · h) heads).trans own
    rw [after]
  · exact congrArg HeadRecord.holdings ((congrArg (PerHead.get · h.other) heads).trans other)
  · exact (custody_complete _ _ _ v).trans (custody_modHead_rest h (fun x => { x with ticket := none }) (fun _ => rfl) t)

/-! ## The state READY starts from (R131, R133) -/

/-- The granted orders of a head (R113). -/
def grantedOrders (h : Head) (s : State) : List Order :=
  (s.head h).queue.filter fun o => o.state == .unknown || o.state == .outstanding

/-- What READY does before it reconciles: the orders it is to resolve are UNKNOWN. -/
structure Prepared (h : Head) (s t : State) : Prop where
  other : (t.head h.other).holdings = (s.head h.other).holdings
  custody : t.custody = s.custody
  sockets : t.sockets = s.sockets
  none : grantedOrders h s = [] → (t.head h).queue = (s.head h).queue ∧ unknownOrders h t = []
  single : ∀ o, grantedOrders h s = [o] → (s.head h).state = .ready ∨ o.state = .unknown → ∃ q, unknownOrders h t = [q] ∧
    q.action = o.action ∧ q.nozzle = o.nozzle ∧ q.location = o.location

/-- R131: a head that is not READY. -/
theorem prepared_recover {h : Head} (stopped : (s.head h).state ≠ .ready) :
    Prepared h s (cancelTimer (.recover h) s) := by
  have unknown : unknownOrders h (cancelTimer (.recover h) s) = (grantedOrders h s).filter fun o => o.state == .unknown := by
    unfold unknownOrders grantedOrders
    rw [List.filter_filter]
    refine List.filter_congr fun o _ => ?_
    cases o.state <;> rfl
  refine ⟨rfl, rfl, rfl, fun nothing => ⟨rfl, ?_⟩, fun o one how => ⟨o, ?_, rfl, rfl, rfl⟩⟩
  · rw [unknown, nothing]
    rfl
  · have late : o.state = .unknown := how.resolve_left stopped
    rw [unknown, one]
    simp [late]

/-- R133: the state from which a restart reconciles. -/
def restarting (h : Head) (s : State) : State := makeUnknown h (cancelTimer (.order h) (raiseEvent .headProtocol h.num s))

/-- R125: an OUTSTANDING order becomes UNKNOWN. -/
def Order.late (o : Order) : Order := if o.state = .outstanding then { o with state := .unknown } else o

theorem heads_beforeRestart (h : Head) (s : State) :
    (cancelTimer (.order h) (raiseEvent .headProtocol h.num s)).heads = s.heads :=
  (cancelTimer_heads _ _).trans (offLink_heads (offLink_raiseEvent _ _ _))

theorem queue_restarting (h : Head) (s : State) :
    ((restarting h s).head h).queue = (s.head h).queue.map Order.late := by
  refine (congrArg HeadRecord.queue (State.head_modHead_self _ h _)).trans ?_
  exact congrArg (fun x => (PerHead.get x h).queue.map Order.late) (heads_beforeRestart h s)

theorem late_state (o : Order) : o.late.state ≠ .outstanding ∧
    (o.late.state == .unknown) = (o.state == .unknown || o.state == .outstanding) := by
  unfold Order.late
  split
  · next out =>
    rw [out]
    exact ⟨nofun, rfl⟩
  · next rests => exact ⟨rests, by rw [beq_eq_false_iff_ne.2 rests, Bool.or_false]⟩

theorem late_of_not_outstanding {o : Order} (rests : o.state ≠ .outstanding) : o.late = o := if_neg rests

theorem unknownOrders_restarting (h : Head) (s : State) :
    unknownOrders h (restarting h s) = (grantedOrders h s).map Order.late := by
  unfold unknownOrders grantedOrders
  rw [queue_restarting, List.filter_map]
  exact congrArg (List.map Order.late) (List.filter_congr fun o _ => (late_state o).2)

theorem prepared_restart (h : Head) (s : State) : Prepared h s (restarting h s) := by
  have sockets : (restarting h s).sockets = s.sockets := (State.modHead_sockets _ h _).trans
    ((cancelTimer_sockets _ _).trans (offLink_sockets (offLink_raiseEvent .headProtocol h.num s)))
  refine ⟨?_, ?_, sockets, fun nothing => ⟨?_, ?_⟩, fun o one _ => ⟨o.late, ?_, ?_⟩⟩
  · refine (congrArg HeadRecord.holdings (State.head_modHead_other _ h _)).trans ?_
    exact congrArg (fun x => (PerHead.get x h.other).holdings) (heads_beforeRestart h s)
  · exact (custody_makeUnknown h _).trans ((custody_cancelTimer _ _).trans (custody_raiseEvent _ _ s))
  · rw [queue_restarting]
    refine (List.map_congr_left (g := id) fun o mem => late_of_not_outstanding fun out => ?_).trans (List.map_id _)
    have granted := List.filter_eq_nil_iff.1 nothing o mem
    exact granted (by rw [show o.state = .outstanding from out]; rfl)
  · rw [unknownOrders_restarting, nothing]
    rfl
  · rw [unknownOrders_restarting, one]
    rfl
  · unfold Order.late
    split <;> exact ⟨rfl, rfl, rfl⟩

/-! ## READY taken (R131, R133) -/

theorem readyAt_recover (h : Head) (p : Pos) (s : State) :
    ((setKnown h p s).modHead h fun x => { x with state := .ready }) = readyAt h p s := by cases h <;> rfl

theorem readyAt_restart {h : Head} (p : Pos) (ready : (s.head h).state = .ready) : setKnown h p s = readyAt h p s := by
  unfold setKnown readyAt State.modHead
  rw [← ready]

/-- R131: a READY that brings back a head. -/
theorem stands_recoverReady (h : Head) (presence : Byte) (p : Pos) (s : State) :
    Stands h p (reconcile h presence (cancelTimer (.recover h) s)) (recoverReady h presence p s) ∧
      ((s.head h).state = .recovering → ((recoverReady h presence p s).head h).ticket = none) := by
  have stood := stands_standAt h p (reconcile h presence (cancelTimer (.recover h) s))
  have ticket (v : State) : ((grantPoint h (opportunity h v)).head h).ticket = (v.head h).ticket := by
    rw [(((drops_opportunity h v).trans (drops_grantPoint h _)).head h).rest]
  unfold recoverReady
  dsimp only
  rw [readyAt_recover]
  split
  · refine ⟨stood.complete.opportunity, fun _ => ?_⟩
    rw [ticket]
    obtain ⟨_, _, same⟩ := offLink_complete codeHeadRecover (.head h) .ok
      ((standAt h p (readyAt h p (reconcile h presence (cancelTimer (.recover h) s)))).modHead h fun x =>
        { x with ticket := none })
    exact (congrArg (fun x => (PerHead.get x h).ticket) (offLink_heads same)).trans
      (congrArg HeadRecord.ticket (State.head_modHead_self _ h fun x => { x with ticket := none }))
  · next other => exact ⟨stood.opportunity, fun recovering => absurd (by rw [recovering]; rfl) other⟩

/-- R133: a READY that restarts a head. -/
theorem stands_restartReady {h : Head} (presence : Byte) (p : Pos) (ready : (s.head h).state = .ready) :
    Stands h p (reconcile h presence (restarting h s)) (restartReady h presence p s) := by
  obtain ⟨-, -, -, resolves, -⟩ := reconcile_spec h presence (restarting h s)
  have kept : ((restarting h s).head h).state = (s.head h).state :=
    (congrArg HeadRecord.state (State.head_modHead_self _ h _)).trans
      (congrArg (fun x => (PerHead.get x h).state) (heads_beforeRestart h s))
  have stood := stands_standAt h p (reconcile h presence (restarting h s))
  rw [← readyAt_restart p (resolves.state.trans (kept.trans ready))] at stood
  exact stood.opportunity

/-! ## Nozzles and devices after READY -/

/-- R131 step 3: the nozzles after READY. -/
theorem ready_nozzle {h : Head} {presence : Byte} {p : Pos} {v : State} (stands : Stands h p (reconcile h presence v) t)
    (n : Fin 4) :
    (presence.getLsbD n = false → (t.head h).nozzles[n].record = none ∧ (t.head h).nozzles[n].blocked = false) ∧
    (presence.getLsbD n = true → (t.head h).nozzles[n].record = none →
      (t.head h).nozzles[n].blocked = true ∧ t.pends .headProtocol) := by
  obtain ⟨m, -, compared, -, -⟩ := reconcile_spec h presence v
  have nozzles : (t.head h).nozzles = ((reconcile h presence v).head h).nozzles := by rw [stands.head]
  rw [nozzles, compared.nozzle]
  unfold comparedNozzle presentFlag
  refine ⟨fun absent => ?_, fun present empty => ?_⟩
  · rw [absent]
    exact ⟨rfl, rfl⟩
  · rw [present, if_pos rfl] at empty ⊢
    have before : (m.head h).nozzles[n].record = none := by
      by_contra full
      rw [if_neg (by simpa using full)] at empty
      exact full empty
    rw [if_pos (by rw [before]; rfl)]
    exact ⟨rfl, stands.pends _ (compared.marked n present before)⟩

/-- R31, R131: without granted orders READY removes the devices of the nozzles reported absent. -/
theorem ready_ungranted {h : Head} {presence : Byte} {p : Pos} {v : State}
    (stands : Stands h p (reconcile h presence v) t) (prepared : Prepared h s v) (nothing : grantedOrders h s = []) :
    (t.head h).queue = (s.head h).queue ∧
    (∀ n : Fin 4, ∀ k, s.recordAt (.nozzle h n) = some k →
      (presence.getLsbD n = false → t.parts[k] = none) ∧
      (presence.getLsbD n = true → t.recordAt (.nozzle h n) = some k)) ∧
    (s.counters.removed ≤ 4294967295 → t.counters.removed = min (s.counters.removed +
      ((List.finRange 4).filter fun (n : Fin 4) =>
        (s.recordAt (.nozzle h n)).isSome && !presence.getLsbD n).length) 4294967295) := by
  obtain ⟨queue, unknown⟩ := prepared.none nothing
  obtain ⟨m, resolved, compared, -, -⟩ := reconcile_spec h presence v
  rw [unknown] at resolved
  obtain rfl : m = v := resolved
  have same (n : Fin 4) := custody_recordAt prepared.custody (.nozzle h n)
  refine ⟨?_, fun n k held => ⟨fun absent => ?_, fun present => ?_⟩, fun bound => ?_⟩
  · rw [stands.head]
    exact compared.queue.trans queue
  · exact custody_free stands.custody (compared.left n k absent ((same n).trans held))
  · have before : (m.head h).nozzles[n].record = some k := (same n).trans held
    refine (custody_recordAt stands.custody _).trans ((congrArg Nozzle.record (compared.nozzle n)).trans ?_)
    unfold comparedNozzle presentFlag
    rw [present, if_pos rfl, before]
    exact before
  · have removed := compared.removed (by rw [custody_removed prepared.custody]; exact bound)
    simp only [same, custody_removed prepared.custody] at removed
    exact (custody_removed stands.custody).trans removed

/-- R131 step 2: a single granted PICK goes by its nozzle's flag. -/
theorem ready_single {h : Head} {presence : Byte} {q : Pos} {v : State} {o : Order} {n : Fin 4} {k : Fin 96} {loc : Location}
    {p : Place} (stands : Stands h q (reconcile h presence v) t) (prepared : Prepared h s v) (one : grantedOrders h s = [o])
    (how : (s.head h).state = .ready ∨ o.state = .unknown) (pick : o.action = .pick) (nozzle : o.nozzle = some n)
    (at_loc : o.location = some loc) (place : loc.custody = some p) (held : s.recordAt p = some k) :
    (presence.getLsbD n = true → t.recordAt (.nozzle h n) = some k ∧ t.recordAt p = none) ∧
    (presence.getLsbD n = false → t.recordAt p = some k ∧
      ∀ i, p = .socket i → s.sockets[i].state = .emptying → t.sockets[i].state = .tested) := by
  obtain ⟨w, unknown, action, nozzle', location⟩ := prepared.single o one how
  obtain ⟨m, resolved, compared, -, -⟩ := reconcile_spec h presence v
  rw [unknown, resolveByPresence_pick (action.trans pick) (nozzle'.trans nozzle)] at resolved
  have off (g : Head) (j : Fin 4) : p ≠ .nozzle g j := by
    rintro rfl
    cases loc <;> cases place
  have at_p : t.recordAt p = m.recordAt p := (custody_recordAt stands.custody p).trans (compared.off p (off h))
  rw [at_p]
  refine ⟨fun present => ?_, fun absent => ?_⟩
  · rw [if_pos (show presentFlag presence n = true from present)] at resolved
    have moved : m.custody = (moveRecord p (.nozzle h n) (doneArrived h w v)).custody := by
      rw [resolved, custody_resolveDone]
      exact custody_doneEffect_pick (action.trans pick) (nozzle'.trans nozzle) (location.trans at_loc) place _
    obtain ⟨left, joined⟩ := moved_records ((custody_doneArrived h w v).trans prepared.custody) moved held
      fun e => off h n e.symm
    have before : (m.head h).nozzles[n].record = some k := joined
    refine ⟨(custody_recordAt stands.custody _).trans ((congrArg Nozzle.record (compared.nozzle n)).trans ?_), left⟩
    unfold comparedNozzle presentFlag
    rw [present, if_pos rfl, before]
    exact before
  · rw [if_neg (by rw [presentFlag, absent]; exact Bool.false_ne_true)] at resolved
    constructor
    · rw [resolved, custody_recordAt (custody_resolveNotDone h w v), custody_recordAt prepared.custody, held]
    · rintro i rfl emptying
      have socket : w.location = some (.socket i) := by
        cases loc <;> cases place
        exact location.trans at_loc
      rw [stands.sockets, compared.socket, resolved, state_resolveNotDone_pick h (action.trans pick) socket,
        prepared.sockets, if_pos emptying]

/-! ## READY (R131, R133) -/

/-- R123, R131, R133: a READY reconciles a state it has prepared, and the head comes to stand at the position. -/
theorem takeHeadStatus_ready {h : Head} {payload : List Byte} (own : (HeadStatusFields.read payload).head = h.num)
    (read : (HeadStatusFields.read payload).outcome = some .ready) (s : State) :
    let x := HeadStatusFields.read payload
    let t := takeHeadStatus h payload s
    ∃ v, Stands h x.position (reconcile h x.presence v) t ∧ Prepared h s v ∧
      ((s.head h).state = .recovering → (t.head h).ticket = none) ∧
      ((s.head h).state ≠ .ready → v.timer (.recover h) = .clear) ∧
      ((s.head h).state = .ready → v.timer (.order h) = .clear ∧ (∀ o ∈ (v.head h).queue, o.state ≠ .outstanding) ∧
        v.pends .headProtocol) := by
  intro x t
  have taken : t = if (s.head h).state = .ready then restartReady h x.presence x.position s
      else recoverReady h x.presence x.position s := by
    unfold t takeHeadStatus
    dsimp only
    rw [if_pos own, read]
  by_cases ready : (s.head h).state = .ready
  · rw [taken, if_pos ready]
    refine ⟨restarting h s, stands_restartReady _ _ ready, prepared_restart h s, fun recovering => ?_,
      fun other => absurd ready other, fun _ => ⟨?_, fun o mem => ?_, raiseEvent_pends .headProtocol h.num s⟩⟩
    · rw [ready] at recovering
      exact HeadState.noConfusion recovering
    · exact (timer_cancelTimer _ (.order h) (.order h)).trans (if_pos rfl)
    · rw [queue_restarting] at mem
      obtain ⟨q, -, rfl⟩ := List.mem_map.1 mem
      exact (late_state q).1
  · rw [taken, if_neg ready]
    obtain ⟨stands, ticket⟩ := stands_recoverReady h x.presence x.position s
    exact ⟨cancelTimer (.recover h) s, stands, prepared_recover ready, ticket,
      fun _ => (timer_cancelTimer s (.recover h) (.recover h)).trans (if_pos rfl), fun e => absurd e ready⟩

/-- Settles O34. -/
theorem readyRecoversHead : Obligations.ReadyRecoversHead := by
  intro s h payload x t z b lost granted own read
  obtain ⟨v, stands, prepared, ticket, recovered, restarted⟩ := takeHeadStatus_ready own read s
  obtain ⟨-, -, -, resolves, known⟩ := reconcile_spec h x.presence v
  have clipped : clippedZone h (zoneOf x.position.x) (reconcile h x.presence v) = b :=
    (clippedZone_congr (resolves.other.trans prepared.other) z).trans (by cases h <;> rfl)
  have head := stands.head
  rw [clipped] at head
  have queue : (t.head h).queue = ((reconcile h x.presence v).head h).queue := by rw [head]
  have nozzles := ready_nozzle stands
  refine ⟨by rw [head], by rw [head], by rw [head], by rw [head], ?_, ?_, ticket, fun stopped => ?_, fun ready => ?_,
    nozzles, ready_ungranted stands prepared, fun o n k loc p one how pick nozzle at_loc place held _ =>
      ready_single stands prepared one how pick nozzle at_loc place held⟩
  · rw [queue]
    exact known
  · exact stands.other.trans (resolves.other.trans prepared.other)
  · rw [timer_of_timers stands.timers, resolves.recover, recovered stopped]
  · obtain ⟨clear, rests, pending⟩ := restarted ready
    refine ⟨(timer_of_timers stands.timers _).trans (resolves.order rests clear), fun o mem => ?_,
      stands.pends _ (resolves.pends _ pending)⟩
    exact rests o (resolves.queue.subset (queue ▸ mem))

end Sys2Proof.Machine
end

section
/-! PROOFS. The location test and the corners of a tray: O42. -/

namespace Sys2Proof.Machine

/-! ## The location test (R44) -/

theorem locationTest_iff (h : Head) (o : Offset) (x y : Nat) : locationTest h o x y = true ↔
    (0 ≤ (x : Int) - o.dx ∧ (x : Int) - o.dx ≤ 1599999 ∧ 0 ≤ (y : Int) - o.dy ∧ (y : Int) - o.dy ≤ 599999) ∧
      inReach h (zoneOf ((x : Int) - o.dx).toNat) = true := by
  simp only [locationTest, Bool.and_eq_true, decide_eq_true_eq]
  rfl

theorem inReach_iff (h : Head) (zone : Nat) : inReach h zone = true ↔
    match h with
    | .west => zone ≤ 13
    | .east => 2 ≤ zone ∧ zone ≤ 15 := by
  cases h <;> exact decide_eq_true_iff

/-- The zones within a head's reach are a run. -/
theorem inReach_between {h : Head} {a b c : Nat} (low : inReach h a = true) (high : inReach h c = true) (ab : a ≤ b)
    (bc : b ≤ c) : inReach h b = true := by
  rw [inReach_iff] at *
  cases h
  · exact bc.trans high
  · exact ⟨low.1.trans ab, bc.trans high.2⟩

/-- R44: the locations that pass for a head and an offset are a rectangle. -/
theorem locationTest_between {h : Head} {o : Offset} {x₀ x x₁ y₀ y y₁ : Nat} (low : locationTest h o x₀ y₀ = true)
    (high : locationTest h o x₁ y₁ = true) (hx : x₀ ≤ x ∧ x ≤ x₁) (hy : y₀ ≤ y ∧ y ≤ y₁) :
    locationTest h o x y = true := by
  obtain ⟨railLow, reachLow⟩ := (locationTest_iff h o x₀ y₀).1 low
  obtain ⟨railHigh, reachHigh⟩ := (locationTest_iff h o x₁ y₁).1 high
  refine (locationTest_iff h o x y).2 ⟨by omega, inReach_between reachLow reachHigh ?_ ?_⟩
  · exact Nat.div_le_div_right (by omega)
  · exact Nat.div_le_div_right (by omega)

theorem passesBoth_between {s : State} {x₀ x x₁ y₀ y y₁ : Nat} (low : passesBoth s x₀ y₀ = true)
    (high : passesBoth s x₁ y₁ = true) (hx : x₀ ≤ x ∧ x ≤ x₁) (hy : y₀ ≤ y ∧ y ≤ y₁) : passesBoth s x y = true :=
  (passesBoth_iff s x y).2 fun h n =>
    locationTest_between ((passesBoth_iff s x₀ y₀).1 low h n) ((passesBoth_iff s x₁ y₁).1 high h n) hx hy

/-! ## The pockets of a tray (R47) -/

theorem TrayGeometry.columns_pos {g : TrayGeometry} {k : Nat} (inside : k < g.capacity) : 0 < g.columns :=
  Nat.pos_of_ne_zero fun none => by simp [TrayGeometry.capacity, none] at inside

theorem TrayGeometry.row_lt {g : TrayGeometry} {k : Nat} (inside : k < g.capacity) : k / g.columns < g.rows :=
  Nat.div_lt_of_lt_mul inside

theorem TrayGeometry.column_lt {g : TrayGeometry} {k : Nat} (inside : k < g.capacity) : g.column k < g.columns := by
  have rest := Nat.mod_lt k (columns_pos inside)
  unfold TrayGeometry.column
  split <;> omega

/-- R47: a pocket lies in the rectangle of its tray's corners. -/
theorem TrayGeometry.pocket_between {g : TrayGeometry} {k : Nat} (inside : k < g.capacity) :
    (g.ox ≤ (g.pocket k).x ∧ (g.pocket k).x ≤ g.ox + (g.columns - 1) * g.px) ∧
      g.oy ≤ (g.pocket k).y ∧ (g.pocket k).y ≤ g.oy + (g.rows - 1) * g.py := by
  have column : g.column k * g.px ≤ (g.columns - 1) * g.px :=
    Nat.mul_le_mul_right _ (Nat.le_sub_one_of_lt (column_lt inside))
  have row : k / g.columns * g.py ≤ (g.rows - 1) * g.py := Nat.mul_le_mul_right _ (Nat.le_sub_one_of_lt (row_lt inside))
  exact ⟨⟨Nat.le_add_right _ _, Nat.add_le_add_left column _⟩, Nat.le_add_right _ _, Nat.add_le_add_left row _⟩

/-! ## The check of a tray's geometry (R48) -/

theorem trayFailure_range (s : State) (g : TrayGeometry) : trayFailure s g = some 0 ↔ g.inRange = false := by
  unfold trayFailure
  cases g.inRange <;> simp

theorem trayFailure_none (s : State) (g : TrayGeometry) :
    trayFailure s g = none ↔ g.inRange = true ∧ ∀ p ∈ g.corners, passesBoth s p.x p.y = true := by
  unfold trayFailure
  cases g.inRange <;> simp

/-- R48: the corner named is the first that fails. -/
theorem trayFailure_corner (s : State) (g : TrayGeometry) (i : Nat) :
    trayFailure s g = some (i + 1) ↔ g.inRange = true ∧ ∃ fits : i < g.corners.length,
      passesBoth s g.corners[i].x g.corners[i].y = false ∧
      ∀ j (before : j < i), passesBoth s (g.corners[j]'(before.trans fits)).x (g.corners[j]'(before.trans fits)).y = true := by
  unfold trayFailure
  cases g.inRange with
  | false => simp
  | true => simp [List.findIdx?_eq_some_iff_getElem]

/-- R48: the first and the last corner pass, so every pocket between them does. -/
theorem passesBoth_pocket {s : State} {g : TrayGeometry} (passes : trayFailure s g = none) {k : Nat}
    (inside : k < g.capacity) : passesBoth s (g.pocket k).x (g.pocket k).y = true := by
  obtain ⟨-, corners⟩ := (trayFailure_none s g).1 passes
  obtain ⟨hx, hy⟩ := TrayGeometry.pocket_between inside
  exact passesBoth_between (corners ⟨g.ox, g.oy⟩ (by simp [TrayGeometry.corners]))
    (corners ⟨g.ox + (g.columns - 1) * g.px, g.oy + (g.rows - 1) * g.py⟩ (by simp [TrayGeometry.corners])) hx hy

/-- Settles O42: the locations that pass are a rectangle, which holds the tray between two opposite corners. -/
theorem cornersSuffice : Obligations.CornersSuffice := by
  refine fun s g => ⟨fun passes k => passesBoth_pocket passes, trayFailure_range s g, fun i => ?_, fun h o x y => ?_,
    passesBoth_iff s⟩
  · have corner (j : Fin 4) : g.corners[j.val]? = some (g.corners[j.val]'j.isLt) := List.getElem?_eq_getElem _
    rw [trayFailure_corner]
    simp only [corner, Option.some.injEq, forall_eq']
    exact and_congr_right fun _ => ⟨fun ⟨_, fails, before⟩ => ⟨fails, fun j lt => before j lt⟩,
      fun ⟨fails, before⟩ => ⟨i.isLt, fails, fun j lt => before ⟨j, lt.trans i.isLt⟩ lt⟩⟩
  · rw [locationTest_iff, inReach_iff]
    simp only [and_assoc]
    rfl

end Sys2Proof.Machine
end

section
/-! PROOFS. The pockets of a tray and how they are handed out: O41. -/

namespace Sys2Proof.Machine

variable {s : State} {t b : Fin 16} {y : TrayId}

/-! ## Pockets and capacities (R47) -/

theorem TrayGeometry.inRange_iff (g : TrayGeometry) : g.inRange = true ↔
    g.ox ≤ 1599999 ∧ g.oy ≤ 599999 ∧ 1 ≤ g.columns ∧ g.columns ≤ 32 ∧ 1 ≤ g.rows ∧ g.rows ≤ 32 ∧
      1000 ≤ g.px ∧ g.px ≤ 60000 ∧ 1000 ≤ g.py ∧ g.py ≤ 60000 := decide_eq_true_iff

theorem TrayGeometry.capacity_bounds {g : TrayGeometry} (range : g.inRange = true) :
    1 ≤ g.capacity ∧ g.capacity ≤ 1024 := by
  obtain ⟨-, -, columns, columnsMax, rows, rowsMax, -⟩ := g.inRange_iff.1 range
  exact ⟨Nat.mul_pos columns rows, Nat.mul_le_mul columnsMax rowsMax⟩

/-- R47: a pocket is named by its row and its column. -/
theorem TrayGeometry.eq_of_row_column {g : TrayGeometry} {j k : Nat} (inside : j < g.capacity)
    (row : j / g.columns = k / g.columns) (column : g.column j = g.column k) : j = k := by
  have positive := columns_pos inside
  have left := Nat.mod_lt j positive
  have right := Nat.mod_lt k positive
  have rest : j % g.columns = k % g.columns := by
    unfold TrayGeometry.column at column
    rw [row] at column
    split at column <;> omega
  rw [← Nat.div_add_mod j g.columns, ← Nat.div_add_mod k g.columns, row, rest]

/-- R47: different pockets lie at different positions. -/
theorem TrayGeometry.pocket_injective {g : TrayGeometry} (range : g.inRange = true) {j k : Nat} (inside : j < g.capacity)
    (same : g.pocket j = g.pocket k) : j = k := by
  obtain ⟨-, -, -, -, -, -, px, -, py, -⟩ := g.inRange_iff.1 range
  obtain ⟨x, y⟩ := Pos.mk.inj same
  exact eq_of_row_column inside (Nat.eq_of_mul_eq_mul_right (by omega) (Nat.add_left_cancel y))
    (Nat.eq_of_mul_eq_mul_right (by omega) (Nat.add_left_cancel x))

/-! ## The tray a stow is answered from (R87) -/

theorem stowTray_active (active : s.bins[t].active = some y) : stowTray s t = some (t, y) := by
  rw [stowTray, active]

theorem stowTray_divert {d : Fin 16} (inactive : s.bins[t].active = none)
    (divert : s.binPolicy[t] = some ⟨.divert, d⟩) : stowTray s t = s.bins[d].active.map fun y => (d, y) := by
  rw [stowTray, inactive, divert]

theorem stowTray_none (inactive : s.bins[t].active = none) (kept : ∀ d, s.binPolicy[t] ≠ some ⟨.divert, d⟩) :
    stowTray s t = none := by
  rw [stowTray, inactive]
  dsimp only
  split
  · next d divert => exact absurd divert (kept d)
  · rfl

theorem stowTray_iff (s : State) (t b : Fin 16) (y : TrayId) : stowTray s t = some (b, y) ↔
    s.bins[t].active = some y ∧ b = t ∨
      s.bins[t].active = none ∧ s.binPolicy[t] = some ⟨.divert, b⟩ ∧ s.bins[b].active = some y := by
  cases active : s.bins[t].active with
  | some z => simp [stowTray_active active, and_comm, eq_comm]
  | none =>
    by_cases divert : ∃ d, s.binPolicy[t] = some ⟨.divert, d⟩
    · obtain ⟨d, divert⟩ := divert
      rw [stowTray_divert active divert, divert]
      constructor
      · intro found
        obtain ⟨z, at_d, same⟩ := Option.map_eq_some_iff.1 found
        obtain ⟨rfl, rfl⟩ := Prod.mk.inj same
        exact .inr ⟨rfl, rfl, at_d⟩
      · rintro (⟨same, -⟩ | ⟨-, same, at_b⟩)
        · cases same
        · cases same
          rw [at_b]
          rfl
    · rw [stowTray_none active (not_exists.1 divert)]
      exact ⟨nofun, fun h => h.elim (fun h => nomatch h.1) fun h => absurd ⟨b, h.2.1⟩ divert⟩

/-! ## An opportunity for both heads (R97) -/

theorem passCondition_withMarks (h : Head) (s : State) (west east : Bool) :
    passCondition h (s.withMarks west east) = passCondition h s := by cases h <;> rfl

/-- R97: an opportunity marks its own head alone. -/
theorem head_opportunity (g h : Head) (s : State) : (opportunity g s).head h =
    { s.head h with passDue := if g = h ∧ passCondition h s = true then true else (s.head h).passDue } := by
  unfold opportunity
  split
  · next pass =>
    rw [State.head_modHead]
    by_cases own : g = h
    · subst own
      simp [pass]
    · simp [own]
  · next stays =>
    by_cases own : g = h
    · subst own
      simp [stays]
    · simp [own]

theorem head_opportunityBoth (h : Head) (s : State) : (opportunityBoth s).head h =
    { s.head h with passDue := if passCondition h s = true then true else (s.head h).passDue } := by
  obtain ⟨west, east, first⟩ := opportunity_eq .west s
  rw [opportunityBoth, head_opportunity, head_opportunity, first, passCondition_withMarks]
  cases h <;> simp

/-! ## A pocket taken (R87, R88) -/

/-- R88: a tray of this bin closes with the pocket taken from it. -/
abbrev Bin.closes (x : Bin) (y : TrayId) : Prop := (x.tray y).capacity ≤ (x.tray y).allocated + 1

/-- R88: a tray of this bin closes with the pocket taken from it, and the other tray takes over. -/
abbrev Bin.moves (x : Bin) (y : TrayId) : Prop := x.closes y ∧ (x.tray y.other).state = .ready

/-- R87, R88: a bin after a pocket has been taken from one of its trays. -/
def Bin.taken (y : TrayId) (x : Bin) : Bin :=
  { (x.setTray y { x.tray y with
        allocated := (x.tray y).allocated + 1
        state := if x.closes y then .closing else (x.tray y).state }).setTray y.other
      { x.tray y.other with state := if x.moves y then .active else (x.tray y.other).state } with
    active := if x.closes y then (if (x.tray y.other).state = .ready then some y.other else none) else x.active
    blocked := if x.moves y then false else x.blocked }

theorem Bin.tray_taken (x : Bin) (y : TrayId) : (x.taken y).tray y =
    { x.tray y with
      allocated := (x.tray y).allocated + 1
      state := if x.closes y then .closing else (x.tray y).state } := by cases y <;> rfl

theorem Bin.tray_other_taken (x : Bin) (y : TrayId) : (x.taken y).tray y.other =
    { x.tray y.other with state := if x.moves y then .active else (x.tray y.other).state } := by cases y <;> rfl

theorem Bin.taken_open {x : Bin} (stays : ¬ x.closes y) :
    x.taken y = x.setTray y { x.tray y with allocated := (x.tray y).allocated + 1 } := by
  have still : ¬ x.moves y := fun moves => stays moves.1
  unfold Bin.taken
  simp only [if_neg stays, if_neg still]
  cases y <;> rfl

theorem Bin.taken_closing {x : Bin} (closes : x.closes y) (still : (x.tray y.other).state ≠ .ready) : x.taken y =
    { x.setTray y { x.tray y with allocated := (x.tray y).allocated + 1, state := .closing } with active := none } := by
  have stays : ¬ x.moves y := fun moves => still moves.2
  unfold Bin.taken
  simp only [if_pos closes, if_neg still, if_neg stays]
  cases y <;> rfl

theorem Bin.taken_moving {x : Bin} (moves : x.moves y) : x.taken y =
    { (x.setTray y { x.tray y with allocated := (x.tray y).allocated + 1, state := .closing }).setTray y.other
        { x.tray y.other with state := .active } with
      active := some y.other, blocked := false } := by
  obtain ⟨closes, ready⟩ := id moves
  unfold Bin.taken
  simp only [if_pos moves, if_pos closes, if_pos ready]

theorem State.modBin_modBin (s : State) (b : Fin 16) (f g : Bin → Bin) :
    (s.modBin b f).modBin b g = s.modBin b fun x => g (f x) := by
  simp [State.modBin]

theorem State.modBin_congr {f g : Bin → Bin} (same : f s.bins[b] = g s.bins[b]) : s.modBin b f = s.modBin b g := by
  rw [State.modBin, State.modBin, same]

theorem State.modBin_self {f : Bin → Bin} (same : f s.bins[b] = s.bins[b]) : s.modBin b f = s := by
  rw [State.modBin, same]
  simp

/-- R88: a tray closes, and the bin has the other tray or none. -/
theorem moveActive_eq (closes : s.bins[b].closes y) :
    moveActive b y ((s.modTray b y fun x => { x with allocated := x.allocated + 1 }).modTray b y fun x =>
      { x with state := .closing }) =
      if s.bins[b].moves y then opportunityBoth (s.modBin b (·.taken y)) else s.modBin b (·.taken y) := by
  unfold moveActive State.modTray
  simp only [State.modBin_modBin, State.bin_modBin, if_true, Bin.tray_setTray_other]
  by_cases ready : (s.bins[b].tray y.other).state = .ready
  · have moves : s.bins[b].moves y := ⟨closes, ready⟩
    rw [if_pos ready, if_pos moves]
    refine congrArg opportunityBoth (State.modBin_congr ?_)
    rw [Bin.taken_moving moves]
    cases y <;> rfl
  · rw [if_neg ready, if_neg fun moves => ready moves.2]
    refine State.modBin_congr ?_
    rw [Bin.taken_closing closes ready]
    cases y <;> rfl

/-- R87, R88: taking a pocket changes the bin, and is an opportunity when the other tray takes over. -/
theorem takePocket_eq (b : Fin 16) (y : TrayId) (s : State) : takePocket b y s =
    (if s.bins[b].moves y then opportunityBoth (s.modBin b (·.taken y)) else s.modBin b (·.taken y),
      .pocket b y (s.bins[b].tray y).allocated) := by
  refine Prod.ext ?_ rfl
  have closing : ((s.modTray b y fun x => { x with allocated := x.allocated + 1 }).bins[b].tray y).capacity ≤
      ((s.modTray b y fun x => { x with allocated := x.allocated + 1 }).bins[b].tray y).allocated ↔ s.bins[b].closes y := by
    rw [tray_modTray]
    exact Iff.rfl
  unfold takePocket
  by_cases closes : s.bins[b].closes y
  · exact (if_pos (closing.2 closes)).trans (moveActive_eq closes)
  · refine (if_neg fun full => closes (closing.1 full)).trans ?_
    dsimp only
    rw [if_neg fun moves => closes moves.1]
    exact State.modBin_congr (Bin.taken_open closes).symm

/-- R87: the state after a stow has been answered with a pocket of a tray. -/
theorem askPocket_some (found : stowTray s t = some (b, y)) : askPocket t s =
    ((takePocket b y s).1.modBin t fun x => { x with blocked := false },
      some (.pocket b y (s.bins[b].tray y).allocated)) := by
  rw [askPocket, found]
  rfl

theorem askPocket_none (nothing : stowTray s t = none) : askPocket t s =
    (if s.bins[t].blocked = true then s.modBin t fun x => { x with blocked := true }
      else raiseEvent .binBlocked t (s.modBin t fun x => { x with blocked := true }), none) := by
  rw [askPocket, nothing]

theorem head_takePocket (b : Fin 16) (y : TrayId) (h : Head) (s : State) : (takePocket b y s).1.head h =
    { s.head h with
      passDue := if s.bins[b].moves y ∧ passCondition h s = true then true else (s.head h).passDue } := by
  have binsAside : passCondition h (s.modBin b (·.taken y)) = passCondition h s := rfl
  rw [takePocket_eq]
  dsimp only
  split
  · next moves =>
    rw [head_opportunityBoth, binsAside]
    simp only [and_iff_right moves]
    rfl
  · next stays =>
    rw [if_neg fun both => stays both.1]
    rfl

/-- R87, R88: taking a pocket changes bins and heads alone. -/
theorem takePocket_rest (b : Fin 16) (y : TrayId) (s : State) : ∃ heads,
    (takePocket b y s).1 = { s.modBin b (·.taken y) with heads := heads } := by
  rw [takePocket_eq]
  dsimp only
  split
  · obtain ⟨west, east, marks⟩ := opportunityBoth_eq (s.modBin b (·.taken y))
    exact ⟨_, marks⟩
  · exact ⟨_, rfl⟩

/-! ## The bins after a stow (R87, R88, R92) -/

theorem bins_askPocket (found : stowTray s t = some (b, y)) :
    (askPocket t s).1.bins = ((s.modBin b (·.taken y)).modBin t fun x => { x with blocked := false }).bins := by
  obtain ⟨heads, rest⟩ := takePocket_rest b y s
  rw [askPocket_some found, rest]
  rfl

/-- R92: the bin a stow asked for is not blocked. -/
theorem blocked_askPocket (found : stowTray s t = some (b, y)) : (askPocket t s).1.bins[t].blocked = false := by
  rw [bins_askPocket found, State.bin_modBin, if_pos rfl]

/-- The bin whose tray gave the pocket. -/
theorem bin_askPocket_tray (found : stowTray s t = some (b, y)) : ∃ blocked,
    (askPocket t s).1.bins[b] = { s.bins[b].taken y with blocked := blocked } ∧
      (b ≠ t → blocked = (s.bins[b].taken y).blocked) := by
  rw [bins_askPocket found, State.bin_modBin, State.bin_modBin, State.bin_modBin, if_pos rfl]
  split
  · next own => exact ⟨false, by rw [if_pos own.symm], fun apart => absurd own.symm apart⟩
  · exact ⟨_, rfl, fun _ => rfl⟩

/-- A bin whose trays gave no pocket. -/
theorem bin_askPocket_other (found : stowTray s t = some (b, y)) {c : Fin 16} (apart : b ≠ c) :
    (askPocket t s).1.bins[c] = if t = c then { s.bins[c] with blocked := false } else s.bins[c] := by
  rw [bins_askPocket found, State.bin_modBin, State.bin_modBin, State.bin_modBin, if_neg apart]
  split
  · next own => rw [own, if_neg apart]
  · rfl

theorem Bin.tray_blocked (x : Bin) (blocked : Bool) (y : TrayId) : ({ x with blocked := blocked } : Bin).tray y = x.tray y := by
  cases y <;> rfl

/-- Settles O41. -/
theorem pocketPositions : Obligations.PocketPositions := by
  refine ⟨fun g => ⟨g.inRange_iff, rfl, TrayGeometry.capacity_bounds, fun k inside => ?_,
    fun range j k inside _ => TrayGeometry.pocket_injective range inside⟩,
    fun s t => ⟨stowTray_iff s t, fun nothing => ⟨fun blocked => ?_, fun unblocked => ?_⟩, fun b y found => ?_⟩⟩
  · exact ⟨k / g.columns, k % g.columns, (Nat.div_add_mod' k g.columns).symm,
      Nat.mod_lt k (TrayGeometry.columns_pos inside), TrayGeometry.row_lt inside, rfl⟩
  · rw [askPocket_none nothing, if_pos blocked, State.modBin_self]
    exact congrArg (fun x => { s.bins[t] with blocked := x }) blocked.symm
  · rw [askPocket_none nothing, if_neg (Bool.eq_false_iff.1 unblocked)]
  · obtain ⟨blocked, bin, unasked⟩ := bin_askPocket_tray found
    obtain ⟨heads, rest⟩ := takePocket_rest b y s
    refine ⟨(askPocket t s).1, ?_, ?_, ?_, ?_, ?_, blocked_askPocket found, fun apart => ?_, fun apart => ?_,
      fun c notTray notBin => ?_, fun h => ?_⟩
    · rw [askPocket_some found]
    · rw [askPocket_some found, rest]
      rfl
    · rw [bin, Bin.tray_blocked, Bin.tray_taken]
    · rw [bin, Bin.tray_blocked, Bin.tray_other_taken]
    · rw [bin]
      rfl
    · rw [bin]
      exact unasked apart
    · rw [bin_askPocket_other found apart, if_pos rfl]
    · rw [bin_askPocket_other found (Ne.symm notTray), if_neg (Ne.symm notBin)]
    · rw [askPocket_some found]
      exact head_takePocket b y h s

end Sys2Proof.Machine
end

section
/-! PROOFS. The timeout of a move, and the front pending order and its claim: O43. -/

namespace Sys2Proof.Machine

variable {s : State}

/-! ## The resolver (R49, R51, R116) -/

theorem headReference_park {o : Order} (h : Head) (nowhere : o.location = none ∨ o.nozzle = none) :
    headReference s h o = s.parkPos h := by
  unfold headReference
  split
  · next at_loc with_nozzle => simp_all
  · rfl

theorem headReference_location {o : Order} {loc : Location} {n : Fin 4} (h : Head) (at_loc : o.location = some loc)
    (nozzle : o.nozzle = some n) : headReference s h o =
      ⟨(((s.locationPos loc).x : Int) - (s.offset h n).dx).toNat,
        (((s.locationPos loc).y : Int) - (s.offset h n).dy).toNat⟩ := by
  unfold headReference
  rw [at_loc, nozzle]

/-- R116: without an OUTSTANDING order the last granted target is the known position. -/
theorem lastTarget_known {x : HeadRecord} (idle : ∀ q ∈ x.queue, q.state ≠ .outstanding) :
    lastTarget x = x.known.getD ⟨0, 0⟩ := by
  have nothing : x.queue.filter (fun o => o.state == .outstanding) = [] := by simpa using idle
  rw [lastTarget, nothing]
  rfl

/-- R116: the last granted target is that of the youngest OUTSTANDING order. -/
theorem lastTarget_youngest {x : HeadRecord} {pre post : List Order} {q : Order} {r : Resolved}
    (queue : x.queue = pre ++ q :: post) (outstanding : q.state = .outstanding) (resolved : q.resolved = some r)
    (youngest : ∀ p ∈ post, p.state ≠ .outstanding) : lastTarget x = r.target := by
  have nothing : post.filter (fun o => o.state == .outstanding) = [] := by simpa using youngest
  rw [lastTarget, queue, List.filter_append, List.filter_cons, if_pos (by rw [outstanding]; rfl), nothing,
    List.getLast?_concat]
  dsimp only
  rw [resolved]
  rfl

theorem distance_eq (a b : Nat) : distance a b = max a b - min a b := by
  unfold distance
  omega

theorem ceilDiv_le_iff {b : Nat} (positive : 1 ≤ b) (a n : Nat) : ceilDiv a b ≤ n ↔ a ≤ n * b := by
  rw [ceilDiv, ← Nat.ceilDiv_eq_add_pred_div, ceilDiv_le_iff_le_mul positive, Nat.mul_comm]

/-- R51: a quotient rounded up is the least number of ticks that covers the distance. -/
theorem ceilDiv_least {v : Nat} (positive : 1 ≤ v) (a b : Nat) :
    max a b - min a b ≤ ceilDiv (distance a b) v * v ∧
      ∀ n, max a b - min a b ≤ n * v → ceilDiv (distance a b) v ≤ n := by
  rw [← distance_eq]
  exact ⟨(ceilDiv_le_iff positive _ _).1 le_rfl, fun n => (ceilDiv_le_iff positive _ _).2⟩

/-- R51: the timeout of a move. -/
theorem moveTimeout_eq (m : Motion) (a : Action) (start target : Pos) : moveTimeout m a start target =
    min 10000 (max 50 (m.base + ceilDiv (distance target.x start.x) m.vx + ceilDiv (distance target.y start.y) m.vy +
      match a with | .pick => m.pick | .place => m.place | .park => 0)) := by cases a <;> rfl

theorem moveTimeout_bounds (m : Motion) (a : Action) (start target : Pos) :
    50 ≤ moveTimeout m a start target ∧ moveTimeout m a start target ≤ 10000 := by
  unfold moveTimeout
  omega

/-! ## The front pending order and its pair (R119, R120) -/

theorem not_isGranted_iff (o : Order) : (!o.isGranted) = true ↔ ¬ (o.state = .outstanding ∨ o.state = .unknown) := by
  rw [Bool.not_eq_true', ← Bool.not_eq_true, isGranted_iff]

theorem isPending_iff (o : Order) : o.isPending = true ↔ o.state = .pending ∨ o.state = .waitingZone := by
  simp [Order.isPending]

theorem frontPending_none (x : HeadRecord) :
    frontPending x = none ↔ ∀ q ∈ x.queue, q.state = .outstanding ∨ q.state = .unknown := by
  simp only [frontPending, List.find?_eq_none, not_isGranted_iff, not_not]

theorem frontPending_some (x : HeadRecord) (o : Order) : frontPending x = some o ↔
    ∃ pre post, x.queue = pre ++ o :: post ∧ (∀ q ∈ pre, q.state = .outstanding ∨ q.state = .unknown) ∧
      ¬ (o.state = .outstanding ∨ o.state = .unknown) := by
  simp only [frontPending, List.find?_eq_some_iff_append, not_isGranted_iff, Bool.not_not, isGranted_iff]
  exact ⟨fun ⟨front, pre, post, queue, granted⟩ => ⟨pre, post, queue, granted, front⟩,
    fun ⟨pre, post, queue, granted, front⟩ => ⟨front, pre, post, queue, granted⟩⟩

/-- R120: what the PLACE of an exchange pair is to its PICK. -/
theorem pairPlace_test (o q : Order) : (q.plan == o.plan && q.action == .place && q.isPending) = true ↔
    q.plan = o.plan ∧ q.action = .place ∧ (q.state = .pending ∨ q.state = .waitingZone) := by
  simp only [Bool.and_eq_true, beq_iff_eq, isPending_iff, and_assoc]

theorem pairPlace_none (x : HeadRecord) (o : Order) : pairPlace x o = none ↔ o.action ≠ .pick ∨ o.plan = none ∨
    ∀ q ∈ x.queue, ¬ (q.plan = o.plan ∧ q.action = .place ∧ (q.state = .pending ∨ q.state = .waitingZone)) := by
  unfold pairPlace
  split
  · next begins =>
    obtain ⟨pick, planned⟩ := begins
    simp only [List.find?_eq_none, pairPlace_test, pick, Option.ne_none_iff_isSome.2 planned, ne_eq, not_true_eq_false,
      false_or]
  · next alone =>
    refine iff_of_true rfl ?_
    by_cases pick : o.action = .pick
    · exact .inr (.inl (Option.not_isSome_iff_eq_none.1 fun planned => alone ⟨pick, planned⟩))
    · exact .inl pick

theorem pairPlace_some {x : HeadRecord} {o q : Order} (found : pairPlace x o = some q) :
    o.action = .pick ∧ o.plan ≠ none ∧ q ∈ x.queue ∧
      q.plan = o.plan ∧ q.action = .place ∧ (q.state = .pending ∨ q.state = .waitingZone) := by
  unfold pairPlace at found
  split at found
  · next begins =>
    exact ⟨begins.1, Option.ne_none_iff_isSome.2 begins.2, List.mem_of_find?_eq_some found,
      (pairPlace_test o q).1 (List.find?_some found :)⟩
  · cases found

/-! ## The claim, and the conditions of a grant (R52, R119, R120, R140) -/

theorem active_iff (l : LotState) : l.active = true ↔ l = .run ∨ l = .drain := by cases l <;> simp [LotState.active]

theorem outstandingCount_eq_zero (x : HeadRecord) :
    (outstandingCount x == 0) = true ↔ ∀ q ∈ x.queue, q.state ≠ .outstanding := by
  simp [outstandingCount]

theorem claimOf_single {h : Head} {o : Order} (single : pairPlace (s.head h) o = none) :
    claimOf h o s = [(o, resolve s h o (lastTarget (s.head h)))] := by
  unfold claimOf
  dsimp only
  rw [single]

theorem claimOf_pair {h : Head} {o q : Order} (pair : pairPlace (s.head h) o = some q) : claimOf h o s =
    [(o, resolve s h o (lastTarget (s.head h))),
      (q, resolve s h q (resolve s h o (lastTarget (s.head h))).target)] := by
  unfold claimOf
  dsimp only
  rw [pair]

theorem mayAsk_single {h : Head} {o : Order} (single : pairPlace (s.head h) o = none) :
    mayAsk h o s = true ↔ (s.head h).state = .ready ∧ (s.lotState = .run ∨ s.lotState = .drain) ∧
      ((s.head h).queue.filter fun q => q.state == .outstanding).length < 2 ∧
      ∀ q ∈ (s.head h).queue, q.state = .outstanding → o.nozzle ≠ none → q.nozzle ≠ o.nozzle := by
  have nozzle :
      (o.nozzle.isNone || !((s.head h).queue.any fun q => q.state == .outstanding && q.nozzle == o.nozzle)) = true ↔
      ∀ q ∈ (s.head h).queue, q.state = .outstanding → o.nozzle ≠ none → q.nozzle ≠ o.nozzle := by
    cases o.nozzle <;> simp
  unfold mayAsk
  dsimp only
  rw [single, if_neg (by simp), Bool.and_eq_true, Bool.and_eq_true, Bool.and_eq_true, nozzle, active_iff, beq_iff_eq,
    decide_eq_true_iff, and_assoc]
  rfl

theorem mayAsk_pair {h : Head} {o q : Order} (pair : pairPlace (s.head h) o = some q) :
    mayAsk h o s = true ↔ (s.head h).state = .ready ∧ (s.lotState = .run ∨ s.lotState = .drain) ∧
      ∀ q ∈ (s.head h).queue, q.state ≠ .outstanding := by
  unfold mayAsk
  dsimp only
  rw [pair, if_pos Option.isSome_some, Bool.and_eq_true, Bool.and_eq_true, outstandingCount_eq_zero, active_iff, beq_iff_eq,
    and_assoc]

theorem acceptsClaim_iff (h : Head) (c : Span) (s : State) : acceptsClaim h c s = true ↔ match h with
    | .west => max (s.head .west).holdings.hi c.hi + 1 < (s.head .east).holdings.lo
    | .east => (s.head .west).holdings.hi + 1 < min (s.head .east).holdings.lo c.lo := by
  cases h <;> exact decide_eq_true_iff

end Sys2Proof.Machine
end

section
/-! PROOFS. What a grant does to the orders, the sockets, the holdings, the timers and the link: O43. -/

namespace Sys2Proof.Machine

variable {s t u : State}

/-! ## The link does not read the heads (R12 to R14) -/

/-- The state with other head records. -/
def State.withHeads (s : State) (heads : PerHead HeadRecord) : State := { s with heads := heads }

theorem startSending_withHeads (p : Port) (q : QueueKind) (s : State) (heads : PerHead HeadRecord) :
    startSending p q (s.withHeads heads) = (startSending p q s).withHeads heads := by
  have port : (s.withHeads heads).port p = s.port p := by cases p <;> rfl
  unfold startSending
  rw [port]
  dsimp only
  cases q with
  | through => cases (s.port p).through <;> cases p <;> rfl
  | own => cases (s.port p).own <;> cases p <;> rfl

theorem arbitrate_withHeads (p : Port) (s : State) (heads : PerHead HeadRecord) :
    arbitrate p (s.withHeads heads) = (arbitrate p s).withHeads heads := by
  have port : (s.withHeads heads).port p = s.port p := by cases p <;> rfl
  unfold arbitrate
  rw [port]
  dsimp only
  split
  · rfl
  · split
    · rfl
    · exact startSending_withHeads _ _ _ _
    · exact startSending_withHeads _ _ _ _
    · exact startSending_withHeads _ _ _ _

theorem joinOwn_withHeads (p : Port) (f : Frame) (s : State) (heads : PerHead HeadRecord) :
    joinOwn p f (s.withHeads heads) = (joinOwn p f s).withHeads heads := by
  refine Eq.trans ?_ (arbitrate_withHeads p _ heads)
  cases p <;> rfl

theorem ownFull_withHeads (p : Port) (s : State) (heads : PerHead HeadRecord) :
    ownFull p (s.withHeads heads) = ownFull p s := by cases p <;> rfl

theorem advanceSequence_withHeads (p : Port) (s : State) (heads : PerHead HeadRecord) :
    advanceSequence p (s.withHeads heads) = (advanceSequence p s).withHeads heads := by cases p <;> rfl

theorem joinOwnOrDrop_withHeads (p : Port) (f : Frame) (s : State) (heads : PerHead HeadRecord) :
    joinOwnOrDrop p f (s.withHeads heads) = (joinOwnOrDrop p f s).withHeads heads := by
  unfold joinOwnOrDrop
  rw [ownFull_withHeads]
  split
  · rfl
  · exact joinOwn_withHeads _ _ _ _

theorem produceNotice_withHeads (k : EventKind) (s : State) (heads : PerHead HeadRecord) :
    produceNotice k (s.withHeads heads) = (produceNotice k s).withHeads heads :=
  joinOwnOrDrop_withHeads .upstream (noticeFrame k s) (advanceSequence .upstream s) heads

theorem noteEvent_withHeads (k : EventKind) (d : Nat) (s : State) (heads : PerHead HeadRecord) :
    noteEvent k d (s.withHeads heads) = (noteEvent k d s).withHeads heads := rfl

theorem raiseCongestion_withHeads (d : Nat) (s : State) (heads : PerHead HeadRecord) :
    raiseCongestion d (s.withHeads heads) = (raiseCongestion d s).withHeads heads := by
  have announced : announces .linkCongestion (s.withHeads heads) = announces .linkCongestion s := rfl
  unfold raiseCongestion
  dsimp only
  rw [noteEvent_withHeads, produceNotice_withHeads, noteEvent_withHeads, ownFull_withHeads, announced]
  split
  · split <;> rfl
  · rfl

theorem queueOwn_withHeads (p : Port) (f : Frame) (s : State) (heads : PerHead HeadRecord) :
    queueOwn p f (s.withHeads heads) = (queueOwn p f s).withHeads heads := by
  unfold queueOwn
  rw [ownFull_withHeads]
  split
  · exact raiseCongestion_withHeads _ _ _
  · exact joinOwn_withHeads _ _ _ _

/-- Producing a frame neither reads nor changes the heads. -/
theorem produce_withHeads (p : Port) (d k : Byte) (payload : List Byte) (s : State) (heads : PerHead HeadRecord) :
    produce p d k payload (s.withHeads heads) = (produce p d k payload s).withHeads heads := by
  have frame : ownFrame p d k payload (s.withHeads heads) = ownFrame p d k payload s := by cases p <;> rfl
  unfold produce
  rw [frame, advanceSequence_withHeads, queueOwn_withHeads]

/-! ## The orders issued (R121 steps 1 and 2) -/

/-- R181: the MOVE ORDER of a granted order is produced. -/
def sendMoveOrder (h : Head) (c : Order × Resolved) (s : State) : State :=
  produce .downstream (s.nodeAddress (match h with | .west => 2 | .east => 3)) kindMoveOrder
    ([byte c.1.tag, byte c.1.action.num, (c.1.nozzle.map fun n => byte n).getD 0xFF#8] ++
      leBytes 4 c.2.target.x ++ leBytes 4 c.2.target.y ++ [byte c.2.seat.num]) s

/-- R121 step 1: an order of the queue after one has been granted. -/
def markGranted (c : Order × Resolved) (q : Order) : Order :=
  if q.tag = c.1.tag then { q with resolved := some c.2, state := .outstanding } else q

/-- The heads after an order has been granted. -/
def headsGranted (h : Head) (c : Order × Resolved) (s : State) : PerHead HeadRecord :=
  (modOrder h c.1.tag (fun o => { o with resolved := some c.2, state := .outstanding }) s).heads

theorem issueOrder_eq (h : Head) (c : Order × Resolved) (s : State) :
    issueOrder h c s = (sendMoveOrder h c s).withHeads (headsGranted h c s) := produce_withHeads _ _ _ _ _ _

theorem sendMoveOrder_withHeads (h : Head) (c : Order × Resolved) (s : State) (heads : PerHead HeadRecord) :
    sendMoveOrder h c (s.withHeads heads) = (sendMoveOrder h c s).withHeads heads := produce_withHeads _ _ _ _ _ _

@[simp] theorem offLink_sendMoveOrder (h : Head) (c : Order × Resolved) (s : State) :
    (sendMoveOrder h c s).offLink = s.offLink := offLink_produce _ _ _ _ _

theorem head_issueOrder (h : Head) (c : Order × Resolved) (s : State) : (issueOrder h c s).head h =
    { s.head h with queue := (s.head h).queue.map (markGranted c) } := by
  rw [issueOrder_eq]
  exact State.head_modHead_self s h fun x => { x with queue := x.queue.map (markGranted c) }

theorem head_issueOrder_other (h : Head) (c : Order × Resolved) (s : State) :
    (issueOrder h c s).head h.other = s.head h.other := by
  rw [issueOrder_eq]
  exact State.head_modHead_other s h fun x => { x with queue := x.queue.map (markGranted c) }

theorem sockets_issueOrder (h : Head) (c : Order × Resolved) (s : State) : (issueOrder h c s).sockets = s.sockets := by
  rw [issueOrder_eq]
  exact (offLink_sockets (offLink_sendMoveOrder h c s) :)

theorem timers_issueOrder (h : Head) (c : Order × Resolved) (s : State) : (issueOrder h c s).timers = s.timers := by
  rw [issueOrder_eq]
  exact (offLink_timers (offLink_sendMoveOrder h c s) :)

/-- R121 steps 1 and 2: the orders of a claim are issued. -/
def issueAll (h : Head) (claim : List (Order × Resolved)) (s : State) : State :=
  claim.foldl (fun s c => issueOrder h c s) s

/-- R181: the MOVE ORDERs of a claim. -/
def sendAll (h : Head) (claim : List (Order × Resolved)) (s : State) : State :=
  claim.foldl (fun s c => sendMoveOrder h c s) s

theorem sendAll_withHeads (h : Head) (claim : List (Order × Resolved)) (s : State) (heads : PerHead HeadRecord) :
    sendAll h claim (s.withHeads heads) = (sendAll h claim s).withHeads heads := by
  induction claim generalizing s with
  | nil => rfl
  | cons c rest ih => exact (congrArg (sendAll h rest) (sendMoveOrder_withHeads h c s heads)).trans (ih _)

/-- R121 steps 1 and 2: issuing the orders of a claim sends their MOVE ORDERs, and changes the heads besides. -/
theorem issueAll_eq (h : Head) (claim : List (Order × Resolved)) (s : State) :
    ∃ heads, issueAll h claim s = (sendAll h claim s).withHeads heads := by
  induction claim generalizing s with
  | nil => exact ⟨s.heads, rfl⟩
  | cons c rest ih =>
    obtain ⟨heads, issued⟩ := ih (issueOrder h c s)
    refine ⟨heads, issued.trans ?_⟩
    rw [issueOrder_eq, sendAll_withHeads]
    rfl

theorem head_issueAll (h : Head) (claim : List (Order × Resolved)) (s : State) : (issueAll h claim s).head h =
    { s.head h with queue := claim.foldl (fun l c => l.map (markGranted c)) (s.head h).queue } := by
  induction claim generalizing s with
  | nil => rfl
  | cons c rest ih =>
    refine (ih (issueOrder h c s)).trans ?_
    rw [head_issueOrder]
    rfl

theorem head_issueAll_other (h : Head) (claim : List (Order × Resolved)) (s : State) :
    (issueAll h claim s).head h.other = s.head h.other := by
  induction claim generalizing s with
  | nil => rfl
  | cons c rest ih => exact (ih (issueOrder h c s)).trans (head_issueOrder_other h c s)

theorem sockets_issueAll (h : Head) (claim : List (Order × Resolved)) (s : State) :
    (issueAll h claim s).sockets = s.sockets := by
  induction claim generalizing s with
  | nil => rfl
  | cons c rest ih => exact (ih (issueOrder h c s)).trans (sockets_issueOrder h c s)

theorem timers_issueAll (h : Head) (claim : List (Order × Resolved)) (s : State) :
    (issueAll h claim s).timers = s.timers := by
  induction claim generalizing s with
  | nil => rfl
  | cons c rest ih => exact (ih (issueOrder h c s)).trans (timers_issueOrder h c s)

/-! ## The sockets (R121 step 3) -/

/-- R121 step 3: a socket after the grant of an order at it. -/
def grantedSocket (a : Action) (x : Socket) : Socket :=
  match a with
  | .pick => { x with state := .emptying }
  | .place => if x.state = .empty then { x with state := .filling } else x
  | .park => x

theorem grantSocket_eq (o : Order) (s : State) : ∃ sockets, grantSocket o s = { s with sockets := sockets } := by
  unfold grantSocket
  split <;> exact ⟨_, rfl⟩

theorem socket_grantSocket (o : Order) (s : State) (i : Fin 64) : (grantSocket o s).sockets[i] =
    if o.location = some (.socket i) then grantedSocket o.action s.sockets[i] else s.sockets[i] := by
  cases loc : o.location with
  | none => simp [grantSocket, loc]
  | some l =>
    cases l with
    | socket j =>
      have here : some (Location.socket j) = some (.socket i) ↔ j = i := by simp
      unfold grantSocket
      rw [loc]
      cases o.action with
      | park => exact (ite_self _).symm
      | pick =>
        dsimp only
        rw [State.socket_modSocket]
        simp only [here]
        split
        · next e => rw [e]; rfl
        · rfl
      | place =>
        dsimp only
        rw [State.socket_modSocket]
        simp only [here]
        split
        · next e =>
          rw [e]
          unfold grantedSocket
          dsimp only
          split <;> rfl
        · rfl
    | _ => simp [grantSocket, loc]

/-- R121 step 3: the sockets of a claim. -/
def grantSockets (claim : List (Order × Resolved)) (s : State) : State := claim.foldl (fun s c => grantSocket c.1 s) s

theorem grantSockets_eq (claim : List (Order × Resolved)) (s : State) :
    ∃ sockets, grantSockets claim s = { s with sockets := sockets } := by
  induction claim generalizing s with
  | nil => exact ⟨s.sockets, rfl⟩
  | cons c rest ih =>
    obtain ⟨first, granted⟩ := grantSocket_eq c.1 s
    obtain ⟨sockets, all⟩ := ih (grantSocket c.1 s)
    refine ⟨sockets, all.trans ?_⟩
    rw [granted]

/-! ## A grant as a whole (R121, R122, R137) -/

/-- R121 steps 1 to 3. -/
def issued (h : Head) (claim : List (Order × Resolved)) (s : State) : State := grantSockets claim (issueAll h claim s)

/-- R122: the order timer starts when no order of the head was OUTSTANDING. -/
def clockGrant (h : Head) (alone : Bool) (timeout : Nat) (s : State) : State :=
  if alone then startTimer (.order h) timeout s else s

theorem grantClaim_cons (h : Head) (c : Order × Resolved) (rest : List (Order × Resolved)) (s : State) :
    grantClaim h (c :: rest) s =
      opportunity h (clockGrant h (outstandingCount (s.head h) == 0) c.2.timeout
        (joinHoldings h (claimSpan (c :: rest)) (issued h (c :: rest) s))) := rfl

theorem clockGrant_eq (h : Head) (alone : Bool) (timeout : Nat) (s : State) :
    ∃ timers, clockGrant h alone timeout s = { s with timers := timers } := by
  cases alone <;> exact ⟨_, rfl⟩

theorem joinHoldings_eq (h : Head) (claim : Span) (s : State) :
    ∃ heads points, joinHoldings h claim s = { s with heads := heads, points := points } := by
  unfold joinHoldings tellOther
  dsimp only
  split <;> exact ⟨_, _, rfl⟩

theorem head_issued (h g : Head) (claim : List (Order × Resolved)) (s : State) :
    (issued h claim s).head g = (issueAll h claim s).head g := by
  obtain ⟨sockets, granted⟩ := grantSockets_eq claim (issueAll h claim s)
  rw [issued, granted]
  rfl

theorem head_clockGrant (h g : Head) (alone : Bool) (timeout : Nat) (s : State) :
    (clockGrant h alone timeout s).head g = s.head g := by
  cases alone <;> rfl

theorem head_joinHoldings (h g : Head) (claim : Span) (s : State) : (joinHoldings h claim s).head g =
    if h = g then { s.head h with holdings := (s.head h).holdings.join claim } else s.head g := by
  unfold joinHoldings
  rw [State.head, tellOther_heads]
  exact State.head_modHead s h g _

theorem ne_other (h : Head) : h ≠ h.other := by cases h <;> nofun

/-- R121, R137: the granting head. -/
theorem head_grantClaim (h : Head) (c : Order × Resolved) (rest : List (Order × Resolved)) (s : State) :
    (grantClaim h (c :: rest) s).head h = { s.head h with
      queue := (c :: rest).foldl (fun l c => l.map (markGranted c)) (s.head h).queue
      holdings := (s.head h).holdings.join (claimSpan (c :: rest))
      passDue := ((grantClaim h (c :: rest) s).head h).passDue } := by
  rw [grantClaim_cons, head_opportunity, head_clockGrant, head_joinHoldings, if_pos rfl, head_issued, head_issueAll]

theorem head_grantClaim_other (h : Head) (c : Order × Resolved) (rest : List (Order × Resolved)) (s : State) :
    (grantClaim h (c :: rest) s).head h.other = s.head h.other := by
  rw [grantClaim_cons, head_opportunity, head_clockGrant, head_joinHoldings, if_neg (ne_other h), head_issued,
    head_issueAll_other]
  simp only [ne_other h, false_and, if_false]

theorem passCondition_opportunity (h g : Head) (s : State) : passCondition h (opportunity g s) = passCondition h s := by
  obtain ⟨west, east, marks⟩ := opportunity_eq g s
  rw [marks, passCondition_withMarks]

/-- R97: an opportunity that meets the condition of a pass leaves its mark. -/
theorem passDue_opportunity {h : Head} (pass : passCondition h (opportunity h s) = true) :
    ((opportunity h s).head h).passDue = true := by
  rw [passCondition_opportunity] at pass
  rw [head_opportunity]
  exact if_pos ⟨rfl, pass⟩

theorem timers_issued (h : Head) (claim : List (Order × Resolved)) (s : State) :
    (issued h claim s).timers = s.timers := by
  obtain ⟨sockets, granted⟩ := grantSockets_eq claim (issueAll h claim s)
  rw [issued, granted]
  exact timers_issueAll h claim s

/-- R122: the timers after a grant. -/
theorem timer_grantClaim (h : Head) (c : Order × Resolved) (rest : List (Order × Resolved)) (s : State) (id : TimerId) :
    (grantClaim h (c :: rest) s).timer id =
      if .order h = id ∧ outstandingCount (s.head h) = 0 then Timer.start true c.2.timeout else s.timer id := by
  have before : (joinHoldings h (claimSpan (c :: rest)) (issued h (c :: rest) s)).timers = s.timers := by
    rw [joinHoldings, tellOther_timers]
    exact timers_issued h (c :: rest) s
  rw [grantClaim_cons, timer_of_timers (timers_opportunity _ _)]
  by_cases alone : outstandingCount (s.head h) = 0
  · have counts : (outstandingCount (s.head h) == 0) = true := beq_iff_eq.2 alone
    rw [counts, clockGrant, if_pos rfl, timer_startTimer, timer_of_timers before]
    simp only [alone, and_true]
    rfl
  · have other : (outstandingCount (s.head h) == 0) = false := beq_eq_false_iff_ne.2 alone
    rw [other, clockGrant, if_neg Bool.false_ne_true, timer_of_timers before, if_neg fun both => alone both.2]

theorem sockets_grantClaim (h : Head) (c : Order × Resolved) (rest : List (Order × Resolved)) (s : State) :
    (grantClaim h (c :: rest) s).sockets = (issued h (c :: rest) s).sockets := by
  obtain ⟨_, clocks⟩ := clockGrant_eq h (outstandingCount (s.head h) == 0) c.2.timeout
    (joinHoldings h (claimSpan (c :: rest)) (issued h (c :: rest) s))
  obtain ⟨west, east, marks⟩ := opportunity_eq h (clockGrant h (outstandingCount (s.head h) == 0) c.2.timeout
    (joinHoldings h (claimSpan (c :: rest)) (issued h (c :: rest) s)))
  rw [grantClaim_cons, marks, clocks]
  exact tellOther_sockets _ _ _

/-- R121, R137: a grant changes heads, sockets, timers and open points besides what its MOVE ORDERs change. -/
theorem grantClaim_rest (h : Head) (c : Order × Resolved) (rest : List (Order × Resolved)) (s : State) :
    let t := grantClaim h (c :: rest) s
    t = { sendAll h (c :: rest) s with
      heads := t.heads, sockets := t.sockets, timers := t.timers, points := t.points } := by
  obtain ⟨_, issues⟩ := issueAll_eq h (c :: rest) s
  obtain ⟨_, grants⟩ := grantSockets_eq (c :: rest) (issueAll h (c :: rest) s)
  obtain ⟨_, _, joins⟩ := joinHoldings_eq h (claimSpan (c :: rest)) (issued h (c :: rest) s)
  obtain ⟨_, clocks⟩ := clockGrant_eq h (outstandingCount (s.head h) == 0) c.2.timeout
    (joinHoldings h (claimSpan (c :: rest)) (issued h (c :: rest) s))
  obtain ⟨west, east, marks⟩ := opportunity_eq h (clockGrant h (outstandingCount (s.head h) == 0) c.2.timeout
    (joinHoldings h (claimSpan (c :: rest)) (issued h (c :: rest) s)))
  rw [grantClaim_cons, marks, clocks, joins, issued, grants, issues]
  rfl

/-! ## One order or a pair -/

theorem socket_grantSockets_of_sockets (claim : List (Order × Resolved)) (i : Fin 64) (same : t.sockets = s.sockets) :
    (grantSockets claim t).sockets[i] = (grantSockets claim s).sockets[i] := by
  induction claim generalizing s t with
  | nil => exact congrArg (fun v : Vector Socket 64 => v[i]) same
  | cons c rest ih =>
    refine ih (Vector.ext fun j lt => ?_)
    have first := socket_grantSocket c.1 t ⟨j, lt⟩
    rw [same] at first
    exact first.trans (socket_grantSocket c.1 s ⟨j, lt⟩).symm

/-- R121 step 3: the sockets after a grant are those after the steps of the claim's orders. -/
theorem socket_grantClaim (h : Head) (c : Order × Resolved) (rest : List (Order × Resolved)) (s : State) (i : Fin 64) :
    (grantClaim h (c :: rest) s).sockets[i] = (grantSockets (c :: rest) s).sockets[i] := by
  rw [sockets_grantClaim]
  exact socket_grantSockets_of_sockets (c :: rest) i (sockets_issueAll h (c :: rest) s)

/-- R121: the orders of a queue after the grant of a pair. -/
theorem markGranted_pair {o q : Order} (r r' : Resolved) (apart : o.tag ≠ q.tag) (p : Order) :
    markGranted (q, r') (markGranted (o, r) p) =
      if p.tag = o.tag then { p with resolved := some r, state := .outstanding }
      else if p.tag = q.tag then { p with resolved := some r', state := .outstanding } else p := by
  by_cases first : p.tag = o.tag
  · simp [markGranted, first, apart]
  · simp [markGranted, first]

/-- R121, R137: the granting head after an exchange pair. -/
theorem head_grantClaim_pair {o q : Order} (r r' : Resolved) (apart : o.tag ≠ q.tag) (h : Head) (s : State) :
    (grantClaim h [(o, r), (q, r')] s).head h = { s.head h with
      queue := (s.head h).queue.map fun p =>
        if p.tag = o.tag then { p with resolved := some r, state := .outstanding }
        else if p.tag = q.tag then { p with resolved := some r', state := .outstanding } else p
      holdings := (s.head h).holdings.join (r.span.join r'.span)
      passDue := ((grantClaim h [(o, r), (q, r')] s).head h).passDue } := by
  have queue := List.map_congr_left fun p (_ : p ∈ (s.head h).queue) => markGranted_pair r r' apart p
  exact (head_grantClaim h (o, r) [(q, r')] s).trans (congrArg (fun l => { s.head h with
    queue := l
    holdings := (s.head h).holdings.join (r.span.join r'.span)
    passDue := ((grantClaim h [(o, r), (q, r')] s).head h).passDue }) (List.map_map.trans queue))

/-- R121 step 3: an exchange pair leaves its socket EMPTYING. -/
theorem socket_grantSockets_pair {o q : Order} {i : Fin 64} (r r' : Resolved) (pick : o.action = .pick)
    (place : q.action = .place) (from_i : o.location = some (.socket i)) (into_i : q.location = some (.socket i))
    (s : State) (j : Fin 64) : (grantSockets [(o, r), (q, r')] s).sockets[j] =
      if j = i then { s.sockets[i] with state := .emptying } else s.sockets[j] := by
  refine (socket_grantSocket q (grantSocket o s) j).trans ?_
  rw [socket_grantSocket, into_i, from_i, pick, place]
  by_cases here : i = j
  · subst here
    simp [grantedSocket]
  · simp [here, Ne.symm here]

/-- R122: the order timer starts where no order was OUTSTANDING, and no other timer changes. -/
theorem timers_grantClaim (h : Head) (c : Order × Resolved) (rest : List (Order × Resolved)) (s : State) :
    ((∀ q ∈ (s.head h).queue, q.state ≠ .outstanding) →
      (grantClaim h (c :: rest) s).timer (.order h) = Timer.start true c.2.timeout) ∧
    ((¬ ∀ q ∈ (s.head h).queue, q.state ≠ .outstanding) →
      (grantClaim h (c :: rest) s).timer (.order h) = s.timer (.order h)) ∧
    ∀ id, id ≠ .order h → (grantClaim h (c :: rest) s).timer id = s.timer id := by
  have alone : outstandingCount (s.head h) = 0 ↔ ∀ q ∈ (s.head h).queue, q.state ≠ .outstanding :=
    beq_iff_eq.symm.trans (outstandingCount_eq_zero _)
  refine ⟨fun idle => ?_, fun busy => ?_, fun id other => ?_⟩
  · rw [timer_grantClaim, if_pos ⟨rfl, alone.2 idle⟩]
  · rw [timer_grantClaim, if_neg fun both => busy (alone.1 both.2)]
  · rw [timer_grantClaim, if_neg fun both => other both.1.symm]

end Sys2Proof.Machine
end

section
/-! PROOFS. Grant points, taken at the end of a command, and those that a cancelled order opens: O43. -/

namespace Sys2Proof.Machine

variable {s : State} {h : Head}

/-! ## A grant point taken up (R119, R140, R142) -/

/-- R119: the grant point of a head is no longer open. -/
def closeGrant (h : Head) (s : State) : State :=
  { s with points := { s.points with grant := s.points.grant.set h false } }

theorem takeGrantPoint_eq (h : Head) (s : State) : takeGrantPoint h s = considerFront h 3 (closeGrant h s) := rfl

theorem considerFront_none (refused : grantable h s = none) (n : Nat) :
    considerFront h (n + 1) s = markWaiting h s := by
  rw [considerFront, refused]

theorem considerFront_some {c : List (Order × Resolved)} (granted : grantable h s = some c) (n : Nat) :
    considerFront h (n + 1) s = considerFront h n (syncYield h (grantClaim h c s)) := by
  rw [considerFront, granted]

theorem grantable_front {o : Order} (front : frontPending (s.head h) = some o) : grantable h s =
    if mayAsk h o s && acceptsClaim h (claimSpan (claimOf h o s)) s then some (claimOf h o s) else none := by
  rw [grantable, front]

theorem markWaiting_front {o : Order} (front : frontPending (s.head h) = some o) : markWaiting h s =
    if o.state = .pending ∧ mayAsk h o s ∧ acceptsClaim h (claimSpan (claimOf h o s)) s = false then
      startTimer (.yield h) s.lot.yieldDelay (modOrder h o.tag (fun o => { o with state := .waitingZone }) s)
    else s := by
  rw [markWaiting, front]

/-- R119: without a pending order nothing is granted. -/
theorem takeGrantPoint_empty (empty : frontPending (s.head h) = none) : takeGrantPoint h s = closeGrant h s := by
  have front : frontPending ((closeGrant h s).head h) = none := empty
  rw [takeGrantPoint_eq, considerFront_none (by rw [grantable, front]), markWaiting, front]

/-- R119, R120: a front pending order that may not ask stays as it is. -/
theorem takeGrantPoint_barred {o : Order} (front : frontPending (s.head h) = some o) (barred : mayAsk h o s = false) :
    takeGrantPoint h s = closeGrant h s := by
  have front : frontPending ((closeGrant h s).head h) = some o := front
  have barred : mayAsk h o (closeGrant h s) = false := barred
  rw [takeGrantPoint_eq, considerFront_none (by rw [grantable_front front, barred]; rfl), markWaiting_front front,
    if_neg fun marks => Bool.false_ne_true (barred.symm.trans marks.2.1)]

/-- R140, R142: a front pending order that the arbiter refuses is WAITING_ZONE, and its yield timer starts when it was
not. -/
theorem takeGrantPoint_refused {o : Order} (front : frontPending (s.head h) = some o) (asks : mayAsk h o s = true)
    (refused : acceptsClaim h (claimSpan (claimOf h o s)) s = false) : takeGrantPoint h s =
      if o.state = .pending then
        startTimer (.yield h) s.lot.yieldDelay
          (modOrder h o.tag (fun o => { o with state := .waitingZone }) (closeGrant h s))
      else closeGrant h s := by
  have front : frontPending ((closeGrant h s).head h) = some o := front
  have asks : mayAsk h o (closeGrant h s) = true := asks
  have refused : acceptsClaim h (claimSpan (claimOf h o (closeGrant h s))) (closeGrant h s) = false := refused
  rw [takeGrantPoint_eq, considerFront_none (by rw [grantable_front front, asks, refused]; rfl), markWaiting_front front]
  simp only [asks, refused, and_true]
  rfl

/-- R119, R121: a front pending order that the arbiter accepts is granted, and the next one is considered. -/
theorem takeGrantPoint_accepted {o : Order} (front : frontPending (s.head h) = some o) (asks : mayAsk h o s = true)
    (accepted : acceptsClaim h (claimSpan (claimOf h o s)) s = true) :
    takeGrantPoint h s = considerFront h 2 (syncYield h (grantClaim h (claimOf h o s) (closeGrant h s))) := by
  have front : frontPending ((closeGrant h s).head h) = some o := front
  have asks : mayAsk h o (closeGrant h s) = true := asks
  have accepted : acceptsClaim h (claimSpan (claimOf h o (closeGrant h s))) (closeGrant h s) = true := accepted
  rw [takeGrantPoint_eq, considerFront_some (c := claimOf h o s) (by rw [grantable_front front, asks, accepted]; rfl)]

/-! ## The end of a command (R119, R141, R143) -/

theorem grantActs_iff (h : Head) (s : State) : grantActs h s = true ↔
    ∃ o, frontPending (s.head h) = some o ∧ mayAsk h o s = true ∧
      (o.state = .pending ∨ acceptsClaim h (claimSpan (claimOf h o s)) s = true) := by
  unfold grantActs
  cases frontPending (s.head h) with
  | none => exact ⟨nofun, fun ⟨o, front, _⟩ => nomatch front⟩
  | some o => simp

theorem grant_mem_moves (h : Head) (s : State) : .grant h ∈ moves s ↔
    s.points.grant.get h = true ∧ ∃ o, frontPending (s.head h) = some o ∧ mayAsk h o s = true ∧
      (o.state = .pending ∨ acceptsClaim h (claimSpan (claimOf h o s)) s = true) := by
  rw [← grantActs_iff]
  cases h <;> simp [moves, PerHead.get]

theorem yieldCheck_mem_moves (h : Head) (s : State) : .yieldCheck h ∈ moves s ↔
    s.points.yieldCheck.get h = true ∧ (s.head h).yieldDue = true ∧ parkPossible h.other s = true := by
  cases h <;> simp [moves, PerHead.get, yieldActs]

theorem moves_of_points_none (closed : s.points = .none) : moves s = [] := by
  unfold moves
  rw [closed]
  rfl

theorem settleLoop_nil (nothing : moves s = []) (k : Nat) : settleLoop (k + 1) s = s := by
  rw [settleLoop, nothing]

theorem settleLoop_one {m : Move} (one : moves s = [m]) (k : Nat) :
    settleLoop (k + 1) s = settleLoop k (takeMove m s) := by
  rw [settleLoop, one]

/-- Log 8: of several open points any one goes first. -/
theorem settleLoop_several (several : 2 ≤ (moves s).length) (k : Nat) :
    ∃ m ∈ moves s, settleLoop (k + 1) s = settleLoop k (takeMove m { s with draws := s.draws + 1 }) := by
  match found : moves s with
  | [] => simp [found] at several
  | [_] => simp [found] at several
  | m :: n :: rest =>
    have inside : Config.choice s.draws % ((n :: rest).length + 1) < (m :: n :: rest).length := Nat.mod_lt _ (by simp)
    refine ⟨(m :: n :: rest).getD (Config.choice s.draws % ((n :: rest).length + 1)) m, ?_, ?_⟩
    · rw [List.getD_eq_getElem _ _ inside]
      exact List.getElem_mem inside
    · rw [settleLoop, found]

theorem syncYield_points (h : Head) (s : State) : (syncYield h s).points = s.points := by
  unfold syncYield
  dsimp only
  split <;> simp

/-- A command that opened no point grants nothing. -/
theorem settle_of_points_none (closed : s.points = .none) : settle s = syncYield .east (syncYield .west s) := by
  have still : (syncYield .east (syncYield .west s)).points = .none := by
    rw [syncYield_points, syncYield_points, closed]
  rw [settle, settleLoop_nil (moves_of_points_none still), ← still]

/-! ## The grant point that a cancelled order opens (R119, R127) -/

theorem points_opportunity (h : Head) (s : State) : (opportunity h s).points = s.points := by
  obtain ⟨west, east, marks⟩ := opportunity_eq h s
  rw [marks]
  rfl

theorem points_endPlan (h : Head) (plan : Option Nat) (s : State) : (endPlan h plan s).points = s.points := by
  unfold endPlan dropPlan opportunityBoth
  split
  · rfl
  · split
    · rfl
    · rw [points_opportunity, points_opportunity]

theorem points_holeOf (o : Order) (s : State) : (holeOf o s).points = s.points := by
  unfold holeOf holePocket fillTray
  split
  · dsimp only
    split
    · exact (offLink_points (offLink_raiseEvent _ _ _) :)
    · rfl
  · rfl

theorem points_cancelPending (h : Head) (o : Order) (s : State) :
    (cancelPending h o s).points = (cancelPoint h o s).points := by
  rw [cancelPending, points_opportunity, points_endPlan, points_holeOf]
  rfl

theorem grant_cancelPoint (h : Head) (o : Order) (s : State) : (cancelPoint h o s).points.grant.get h = true ↔
    s.points.grant.get h = true ∨ opensGrant (s.head h) o = true := by
  unfold cancelPoint
  split
  · next opens => simp [grantPoint, opens]
  · next stays => simp [stays]

/-- With different tags an order of a queue is found by its tag alone. -/
theorem tags_apart {pre post : List Order} {o : Order} (distinct : ((pre ++ o :: post).map Order.tag).Nodup) :
    (∀ q ∈ pre, q.tag ≠ o.tag) ∧ ∀ q ∈ post, q.tag ≠ o.tag := by
  rw [List.map_append, List.map_cons, List.nodup_append] at distinct
  obtain ⟨-, rest, across⟩ := distinct
  exact ⟨fun q mem => across _ (List.mem_map_of_mem mem) _ List.mem_cons_self,
    fun q mem same => (List.nodup_cons.1 rest).1 (List.mem_map.2 ⟨q, mem, same⟩)⟩

theorem last_tag_ne_iff {pre post : List Order} {o : Order} (distinct : ((pre ++ o :: post).map Order.tag).Nodup) :
    ((pre ++ o :: post).getLast?).map Order.tag ≠ some o.tag ↔ post ≠ [] := by
  cases post using List.reverseRecOn with
  | nil => simp
  | append_singleton post last =>
    have apart := (tags_apart distinct).2 last (by simp)
    rw [← List.cons_append, ← List.append_assoc, List.getLast?_concat]
    simpa using apart

theorem front_tag_iff {x : HeadRecord} {pre post : List Order} {o : Order} (queue : x.queue = pre ++ o :: post)
    (distinct : (x.queue.map Order.tag).Nodup) (pending : o.state = .pending ∨ o.state = .waitingZone) :
    (frontPending x).map Order.tag = some o.tag ↔ ∀ q ∈ pre, q.state = .outstanding ∨ q.state = .unknown := by
  rw [queue] at distinct
  constructor
  · intro front
    obtain ⟨p, found, same⟩ := Option.map_eq_some_iff.1 front
    rw [frontPending, queue, List.find?_append] at found
    cases ahead : pre.find? fun q => !q.isGranted with
    | none =>
      intro q mem
      exact (isGranted_iff q).1 (by simpa using List.find?_eq_none.1 ahead q mem)
    | some q =>
      rw [ahead] at found
      obtain rfl : q = p := Option.some.inj found
      exact absurd same ((tags_apart distinct).1 q (List.mem_of_find?_eq_some ahead))
  · intro granted
    rw [(frontPending_some x o).2 ⟨pre, post, queue, granted, by rintro (e | e) <;> simp [e] at pending⟩]
    rfl

theorem opensGrant_iff {x : HeadRecord} {pre post : List Order} {o : Order} (queue : x.queue = pre ++ o :: post)
    (distinct : (x.queue.map Order.tag).Nodup) (pending : o.state = .pending ∨ o.state = .waitingZone) :
    opensGrant x o = true ↔ post ≠ [] ∨ ∀ q ∈ pre, q.state = .outstanding ∨ q.state = .unknown := by
  rw [opensGrant, Bool.or_eq_true, decide_eq_true_iff, decide_eq_true_iff, front_tag_iff queue distinct pending, queue,
    last_tag_ne_iff (queue ▸ distinct)]

/-- R119, R127: when the cancelling of a pending order opens a grant point of its head. -/
theorem grant_cancelPending {pre post : List Order} {o : Order} (queue : (s.head h).queue = pre ++ o :: post)
    (distinct : ((s.head h).queue.map Order.tag).Nodup) (pending : o.state = .pending ∨ o.state = .waitingZone) :
    (cancelPending h o s).points.grant.get h = true ↔ s.points.grant.get h = true ∨ post ≠ [] ∨
      ∀ q ∈ pre, q.state = .outstanding ∨ q.state = .unknown := by
  rw [points_cancelPending, grant_cancelPoint, opensGrant_iff queue distinct pending]

/-- Settles O43: the resolver, the claim, the grant, and the grant points of a command. -/
theorem moveTimeoutAndGrant : Obligations.MoveTimeout := by
  refine ⟨fun s h o start => ⟨rfl, headReference_park h, fun loc n => headReference_location h, lastTarget_known,
      fun pre q post r => lastTarget_youngest⟩,
    fun m a start target vx vy => ⟨_, _, ceilDiv_least vx target.x start.x, ceilDiv_least vy target.y start.y,
      moveTimeout_eq m a start target, moveTimeout_bounds m a start target⟩,
    fun x o => ⟨frontPending_none x, frontPending_some x o, pairPlace_none x o, fun q => pairPlace_some⟩,
    fun s h o => ⟨fun single => ⟨claimOf_single single, by rw [claimOf_single single]; rfl, mayAsk_single single⟩,
      fun q pair => ⟨claimOf_pair pair, by rw [claimOf_pair pair]; rfl, mayAsk_pair pair⟩,
      fun c => acceptsClaim_iff h c s⟩,
    fun s h => ⟨takeGrantPoint_empty, fun o front => ⟨takeGrantPoint_barred front, fun asks refused => ?_,
      takeGrantPoint_accepted front⟩⟩,
    fun s h n => ⟨fun refused => considerFront_none refused n, fun c granted => considerFront_some granted n⟩,
    fun s h o r => ⟨grantClaim_rest h (o, r) [] s, head_grantClaim h (o, r) [] s, head_grantClaim_other h (o, r) [] s,
      passDue_opportunity, timers_grantClaim h (o, r) [] s, fun i => ?_,
      fun q r' i apart pick place from_i into_i => ?_⟩,
    fun s => ⟨settle_of_points_none, fun h => grant_mem_moves h s, fun h => yieldCheck_mem_moves h s, fun k =>
      ⟨fun nothing => settleLoop_nil nothing k, fun m one => settleLoop_one one k, fun several => settleLoop_several several k,
        fun h pre o post => grant_cancelPending⟩⟩⟩
  · rw [takeGrantPoint_refused front asks refused]
    exact ⟨fun waiting => if_neg (by simp [waiting]), fun pending => if_pos pending⟩
  · exact (socket_grantClaim h (o, r) [] s i).trans (socket_grantSocket o s i)
  · exact ⟨grantClaim_rest h (o, r) [(q, r')] s, head_grantClaim_pair r r' apart h s,
      head_grantClaim_other h (o, r) [(q, r')] s, passDue_opportunity, timers_grantClaim h (o, r) [(q, r')] s, fun j =>
      (socket_grantClaim h (o, r) [(q, r')] s j).trans (socket_grantSockets_pair r r' pick place from_i into_i s j)⟩

end Sys2Proof.Machine
end

section
/-! PROOFS. A late SITE REPORT and the clearing of a socket's fault state: O27 and O55. -/

namespace Sys2Proof.Machine

variable {s : State}

/-! ## A SITE REPORT that is not taken (R64) -/

/-- R64: a SITE REPORT for a socket above 63 or one that is not TESTING is ignored. -/
theorem deliver_siteReport_late {f : Frame}
    (late : ∀ i : Fin 64, fieldAt f.payload 0 1 = i.val → s.sockets[i].state ≠ .testing) :
    deliver .site f s = (raiseEvent .lateReport (fieldAt f.payload 0 1) s, f) := by
  unfold deliver siteDelivery
  dsimp only
  by_cases within : fieldAt f.payload 0 1 < 64
  · have names : fieldAt f.payload 0 1 = (⟨_, within⟩ : Fin 64).val := rfl
    rw [names, finOf_val]
    exact if_neg (late _ names)
  · have outside : finOf 64 (fieldAt f.payload 0 1) = none := dif_neg within
    rw [outside]

/-- Settles O27. -/
theorem siteReportLate : Obligations.SiteReportLate := by
  intro s bytes f takes owned length late u c hc
  rw [exec_takes hc takes, classify_owned (ownerOf_siteReport owned) (fits_siteReport owned.2.2.2.1 length),
    deliver_siteReport_late late]

/-! ## The requests for a socket (R72 to R74, R156, R157) -/

variable {r : Request}

theorem withSocket_outside (act : Fin 64 → State → State) (outside : 64 ≤ fieldAt r.fields 0 1) :
    withSocket r act s = respondRange r 0 s := by
  have none' : finOf 64 (fieldAt r.fields 0 1) = none := dif_neg (Nat.not_lt_of_le outside)
  unfold withSocket
  rw [none']

theorem withSocket_names {i : Fin 64} (act : Fin 64 → State → State) (names : fieldAt r.fields 0 1 = i.val) :
    withSocket r act s = act i s := by
  unfold withSocket
  rw [names, finOf_val]

/-- R157: a request of one byte that every lot state but BYPASS accepts is carried out. -/
theorem takeRequest_socket (act : State → State) (length : r.fields.length = 1) (outside : s.lotState ≠ .bypass) :
    takeRequest r (r.fields.length == 1) s.lotState.open act s = act s := by
  unfold takeRequest
  rw [if_pos (beq_iff_eq.2 length), if_pos (open_of_outside outside)]

theorem exec_socketEnable (heard : s.hears r = true) (length : r.fields.length = 1) (outside : s.lotState ≠ .bypass) :
    exec (.socketEnable r) s = .next (withSocket r (enableSocket r) s) :=
  congrArg Host.Outcome.next ((requestArrives_heard socketEnableRequest heard).trans (takeRequest_socket _ length outside))

theorem exec_socketDisable (heard : s.hears r = true) (length : r.fields.length = 1) (outside : s.lotState ≠ .bypass) :
    exec (.socketDisable r) s = .next (withSocket r (disableSocket r) s) :=
  congrArg Host.Outcome.next ((requestArrives_heard socketDisableRequest heard).trans (takeRequest_socket _ length outside))

theorem exec_socketClear (heard : s.hears r = true) (length : r.fields.length = 1) (outside : s.lotState ≠ .bypass) :
    exec (.socketClear r) s = .next (withSocket r (clearSocket r) s) :=
  congrArg Host.Outcome.next ((requestArrives_heard socketClearRequest heard).trans (takeRequest_socket _ length outside))

/-- Settles O55. -/
theorem socketClearResetsFaults : Obligations.SocketClearResetsFaults := by
  intro s r i heard length outside names
  refine ⟨s.modSocket i fun x => { x with faults := .none, faultCount := 0 }, ?_, State.socket_modSocket_self s i _,
    fun j other => ?_, rfl⟩
  · rw [exec_socketClear heard length outside, withSocket_names _ names]
    rfl
  · exact (State.socket_modSocket s i j _).trans (if_neg (Ne.symm other))

end Sys2Proof.Machine
end

section
/-! PROOFS. Starts of groups, the start test and the fill wait: O20 and O21. -/

namespace Sys2Proof.Machine

variable {s t : State}

/-! ## The members that begin their tests (R61) -/

/-- R61: what begins with the tests of some sockets is in the sockets, the watchdogs and the count of tests alone. -/
theorem foldl_beginTest_frame : ∀ (l : List (Fin 64)) (s : State), ∃ sockets watchdog started,
    l.foldl beginTest s = { s with
      sockets := sockets
      timers := { s.timers with watchdog := watchdog }
      counters := { s.counters with testsStarted := started } }
  | [], s => ⟨s.sockets, s.timers.watchdog, s.counters.testsStarted, rfl⟩
  | i :: l, s => by
    obtain ⟨sockets, watchdog, started, e⟩ := foldl_beginTest_frame l (beginTest s i)
    exact ⟨sockets, watchdog, started, e⟩

theorem beginTest_self (i : Fin 64) (s : State) : (beginTest s i).sockets[i] = { s.sockets[i] with state := .testing } ∧
    (beginTest s i).timer (.watchdog i) = .count s.lot.testLimit := by
  refine ⟨State.socket_modSocket_self s i fun x => { x with state := .testing }, ?_⟩
  rw [beginTest, timer_startTimer, if_pos rfl]
  rfl

/-- R61: each of the sockets is TESTING with its watchdog started, whether or not it comes twice. -/
theorem foldl_beginTest_members {j : Fin 64} : ∀ (l : List (Fin 64)) (s : State), j ∈ l →
    (l.foldl beginTest s).sockets[j] = { s.sockets[j] with state := .testing } ∧
      (l.foldl beginTest s).timer (.watchdog j) = .count s.lot.testLimit := by
  intro l
  induction l with
  | nil => exact fun _ h => absurd h List.not_mem_nil
  | cons i l ih =>
    intro s hj
    have lot : (beginTest s i).lot = s.lot := rfl
    rw [List.foldl_cons]
    by_cases again : j ∈ l
    · obtain ⟨socket, watchdog⟩ := ih (beginTest s i) again
      rw [socket, watchdog, lot]
      refine ⟨?_, rfl⟩
      by_cases e : i = j
      · subst e
        rw [(beginTest_self i s).1]
      · have before : (beginTest s i).sockets[j] = s.sockets[j] :=
          (State.socket_modSocket s i j fun x => { x with state := .testing }).trans (if_neg e)
        rw [before]
    · obtain rfl : j = i := (List.mem_cons.1 hj).resolve_right again
      obtain ⟨socket, watchdog⟩ := (foldl_beginTest l (beginTest s j)).2.2 j again
      rw [socket, watchdog]
      exact beginTest_self j s

/-- R61, R175: one test is counted for each socket. -/
theorem foldl_beginTest_started : ∀ (l : List (Fin 64)) (s : State), s.counters.testsStarted ≤ 4294967295 →
    (l.foldl beginTest s).counters.testsStarted = min (s.counters.testsStarted + l.length) 4294967295
  | [], _, bounded => (Nat.min_eq_left bounded).symm
  | i :: l, s, bounded => by
    have first : (beginTest s i).counters.testsStarted = min (s.counters.testsStarted + 1) 4294967295 := rfl
    rw [List.foldl_cons, foldl_beginTest_started l _ (by rw [first]; exact Nat.min_le_right _ _), first, List.length_cons]
    omega

/-! ## A group start (R57, R61) -/

theorem mem_readyMembers (s : State) (g : Fin 16) (i : Fin 64) :
    i ∈ readyMembers s g ↔ groupOf s i = some g ∧ s.sockets[i].state = .ready := by
  simp [readyMembers, members, and_comm]

theorem readyMembers_sorted (s : State) (g : Fin 16) : (readyMembers s g).Pairwise (· < ·) :=
  ((List.pairwise_lt_finRange 64).filter _).filter _

/-- R61: the SITE START of a group. -/
def sendSiteStart (g : Fin 16) (s : State) : State :=
  produce .downstream (s.nodeAddress 1) kindSiteStart (byte g :: (readyMembers s g).map fun i => byte i.val) s

theorem offLink_sendSiteStart (g : Fin 16) (s : State) : (sendSiteStart g s).offLink = s.offLink := offLink_produce _ _ _ _ _

/-- R61: a start but for its record in the group. -/
def startMembers (g : Fin 16) (s : State) : State :=
  cancelTimer (.fill g) ((readyMembers s g).foldl beginTest (sendSiteStart g s))

theorem startGroup_eq (g : Fin 16) (s : State) : startGroup g s = { startMembers g s with
    groups := (startMembers g s).groups.set g ⟨some ((startMembers g s).lotClock, (readyMembers s g).length)⟩ } := rfl

/-- R61: a start changes the ports, the event records, the sockets, the watchdogs, the group and its timer, and the count of
tests alone. -/
theorem startGroup_frame (g : Fin 16) (s : State) : ∃ sockets watchdog started, startGroup g s = { sendSiteStart g s with
    sockets := sockets
    timers := { s.timers with watchdog := watchdog, fill := s.timers.fill.set g .clear }
    counters := { s.counters with testsStarted := started }
    groups := s.groups.set g ⟨some (s.lotClock, (readyMembers s g).length)⟩ } := by
  have sent := offLink_sendSiteStart g s
  obtain ⟨sockets, watchdog, started, e⟩ := foldl_beginTest_frame (readyMembers s g) (sendSiteStart g s)
  refine ⟨sockets, watchdog, started, ?_⟩
  rw [startGroup_eq, startMembers, e, ← offLink_timers sent, ← offLink_counters sent, ← offLink_groups sent,
    ← offLink_lotClock sent]
  rfl

theorem startGroup_members {g : Fin 16} {i : Fin 64} (ready : i ∈ readyMembers s g) :
    (startGroup g s).sockets[i] = { s.sockets[i] with state := .testing } ∧
      (startGroup g s).timer (.watchdog i) = .count s.lot.testLimit := by
  have sent := offLink_sendSiteStart g s
  obtain ⟨socket, watchdog⟩ := foldl_beginTest_members (readyMembers s g) (sendSiteStart g s) ready
  have lot : (sendSiteStart g s).lot = s.lot := by
    unfold State.lot
    rw [offLink_lotTable sent]
  rw [offLink_sockets sent] at socket
  rw [lot] at watchdog
  exact ⟨socket, watchdog⟩

theorem startGroup_others {g : Fin 16} {i : Fin 64} (rests : i ∉ readyMembers s g) :
    (startGroup g s).sockets[i] = s.sockets[i] ∧ (startGroup g s).timer (.watchdog i) = s.timer (.watchdog i) := by
  have sent := offLink_sendSiteStart g s
  obtain ⟨socket, watchdog⟩ := (foldl_beginTest (readyMembers s g) (sendSiteStart g s)).2.2 i rests
  rw [offLink_sockets sent] at socket
  rw [timer_of_timers (offLink_timers sent)] at watchdog
  exact ⟨socket, watchdog⟩

theorem startGroup_started (g : Fin 16) (bounded : s.counters.testsStarted ≤ 4294967295) :
    (startGroup g s).counters.testsStarted = min (s.counters.testsStarted + (readyMembers s g).length) 4294967295 := by
  have sent := offLink_counters (offLink_sendSiteStart g s)
  refine (foldl_beginTest_started (readyMembers s g) (sendSiteStart g s) ?_).trans ?_
  · rw [sent]
    exact bounded
  · rw [sent]

theorem Timer.count_of_pos {n : Nat} (positive : 1 ≤ n) : Timer.count n = .running n := by
  obtain ⟨m, rfl⟩ := Nat.exists_eq_add_of_le' positive
  rfl

/-- Settles O21. -/
theorem groupStartTests : Obligations.GroupStartTests := by
  intro s g ready t sent
  obtain ⟨sockets, watchdog, started, frame⟩ := startGroup_frame g s
  have frame : t = _ := frame
  refine ⟨mem_readyMembers s g, readyMembers_sorted s g, fun i member => ?_, fun i rests => startGroup_others rests, ?_,
    fun bounded => ?_, ?_, fun k other => ?_, ?_, ?_, ?_, ?_⟩
  · obtain ⟨socket, timer⟩ := startGroup_members member
    exact ⟨socket, fun positive => timer.trans (Timer.count_of_pos positive)⟩
  · rw [frame]
    exact Vector.getElem_set_self g.isLt
  · have count := startGroup_started g bounded
    have frame' : t.counters = { s.counters with testsStarted := started } := by rw [frame]
    rw [frame']
    rw [show (startGroup g s).counters = { s.counters with testsStarted := started } from frame'] at count
    exact congrArg (fun n => { s.counters with testsStarted := n }) count
  · rw [frame]
    exact Vector.getElem_set_self g.isLt
  · rw [frame]
    exact Vector.getElem_set_ne g.isLt k.isLt fun e => other (Fin.ext e.symm)
  · rw [frame]
    rfl
  · rw [frame]
    rfl
  · rw [frame]
    rfl
  · rw [frame]
    exact (offLink_parts (offLink_sendSiteStart g s) :)

/-! ## The start test and the fill wait (R58, R59) -/

theorem groupBusy_iff (s : State) (g : Fin 16) : groupBusy s g = false ↔
    ∀ i : Fin 64, groupOf s i = some g → s.sockets[i].state ≠ .testing := by
  simp [groupBusy, members]

theorem startOutstanding_iff (s : State) (g : Fin 16) : startOutstanding s g = true ↔
    (∀ i : Fin 64, groupOf s i = some g → s.sockets[i].state ≠ .testing) ∧
      ∃ i : Fin 64, groupOf s i = some g ∧ s.sockets[i].state = .ready := by
  have some_ready : (readyMembers s g).isEmpty = false ↔ ∃ i : Fin 64, groupOf s i = some g ∧ s.sockets[i].state = .ready := by
    simp only [List.isEmpty_eq_false_iff_exists_mem, mem_readyMembers]
  unfold startOutstanding
  rw [Bool.and_eq_true, Bool.not_eq_true', Bool.not_eq_true', groupBusy_iff, some_ready]

theorem allEligibleReady_iff (s : State) (g : Fin 16) :
    (members s g).all (fun i => !eligible s.sockets[i] || s.sockets[i].state == .ready) = true ↔
    ∀ i : Fin 64, groupOf s i = some g → s.sockets[i].state ≠ .off → s.sockets[i].pendingDisable = none →
      s.sockets[i].state = .ready := by
  simp only [members, eligible, List.all_eq_true, List.mem_filter, List.mem_finRange, true_and, beq_iff_eq]
  refine forall₂_congr fun i _ => ?_
  cases s.sockets[i].pendingDisable <;> simp [Classical.or_iff_not_imp_left]

theorem startTest_iff (s : State) (g : Fin 16) : startTest s g = true ↔
    (s.lotState = .run ∨ s.lotState = .drain) ∧ startOutstanding s g = true ∧
      ((∀ i : Fin 64, groupOf s i = some g → s.sockets[i].state ≠ .off → s.sockets[i].pendingDisable = none →
          s.sockets[i].state = .ready) ∨ s.lot.fillWait = 0 ∨ s.lotState = .drain) := by
  unfold startTest
  rw [Bool.and_eq_true, Bool.and_eq_true, Bool.or_eq_true, Bool.or_eq_true, active_iff, allEligibleReady_iff, beq_iff_eq,
    beq_iff_eq, and_assoc, or_assoc]

theorem fillUpdate_outstanding {g : Fin 16} (outstanding : startOutstanding s g = true) : fillUpdate g s =
    if s.timer (.fill g) = .clear ∧ s.lot.fillWait ≠ 0 then startTimer (.fill g) s.lot.fillWait s else s :=
  if_pos outstanding

/-! ## The expiries (R56, R60, R150) -/

/-- R150: the owner of an expired timer takes the expiry, on the timer made CLEAR. -/
theorem takeExpiry_expired {id : TimerId} (high : s.resetLow = false) (expired : s.timer id = .expired) :
    takeExpiry id s = finish (ownerActs id (cancelTimer id s)) := by
  unfold takeExpiry
  rw [high, expired]
  rfl

/-- Settles O20. -/
theorem soakAndFillWaitExpiries : Obligations.SoakAndFillWaitExpiries := by
  refine ⟨fun s i high expired => ?_, fun s g high expired => ?_, fun s g => ?_⟩
  · let u := (cancelTimer (.soak i) s).modSocket i fun x => { x with state := .ready }
    refine ⟨u, State.socket_modSocket_self (cancelTimer (.soak i) s) i _, fun j other => ?_, ?_, fun id other => ?_, rfl, ?_⟩
    · exact (State.socket_modSocket (cancelTimer (.soak i) s) i j _).trans (if_neg (Ne.symm other))
    · exact (timer_cancelTimer s (.soak i) (.soak i)).trans (if_pos rfl)
    · exact (timer_cancelTimer s (.soak i) id).trans (if_neg (Ne.symm other))
    · refine congrArg Host.Outcome.next ((takeExpiry_expired high expired).trans (congrArg finish ?_))
      show updateGroupOf i u = _
      have group : groupOf u i = groupOf s i := rfl
      unfold updateGroupOf
      rw [group]
      cases groupOf s i with
      | none => rfl
      | some g => rfl
  · exact congrArg Host.Outcome.next (takeExpiry_expired high expired)
  · intro outstanding
    have iff := startOutstanding_iff s g
    refine ⟨?_, fun due clear waits => ?_, fun due rests => ?_, fun done => if_neg (mt iff.1 done)⟩
    · rw [startTest_iff, iff]
    · exact (fillUpdate_outstanding (iff.2 due)).trans (if_pos ⟨clear, waits⟩)
    · exact (fillUpdate_outstanding (iff.2 due)).trans (if_neg fun ⟨clear, waits⟩ => rests.elim (absurd clear) waits)

end Sys2Proof.Machine
end

section
/-! PROOFS. Pending-disable set on a socket, up to its way to OFF (R71). -/

namespace Sys2Proof.Machine

variable {s t : State}

/-- R71: a socket has pending-disable, its pending PLACEs are cancelled, and the devices it would have taken are converted. -/
def barring (i : Fin 64) (cause : DisableCause) (s : State) : State :=
  reexamine (cancelPlacesInto i (s.modSocket i fun x => { x with pendingDisable := some cause }))

/-- R71, R59: the same when its group has had its start test. -/
def disabling (i : Fin 64) (cause : DisableCause) (s : State) : State := updateGroupOf i (barring i cause s)

theorem setPendingDisable_eq (i : Fin 64) (cause : DisableCause) (s : State) : setPendingDisable i cause s =
    if (disabling i cause s).sockets[i].state = .empty ∧ (disabling i cause s).sockets[i].plan = none then
      goOff i (disabling i cause s)
    else disabling i cause s := rfl

/-- R71: sockets but for their plans are changed by the flag alone. -/
theorem socket_barring (i j : Fin 64) (cause : DisableCause) (s : State) : ∃ plan, (barring i cause s).sockets[j] =
    if i = j then { s.sockets[i] with plan := plan, pendingDisable := some cause } else { s.sockets[j] with plan := plan } := by
  have view : (barring i cause s).benchView = (s.modSocket i fun x => { x with pendingDisable := some cause }).benchView := by
    simp only [barring, cancelPlacesInto, benchView_reexamine, benchView_cancelWhere]
  refine ⟨(barring i cause s).sockets[j].plan, (eq_of_unplanned (benchView_socket view j)).trans ?_⟩
  rw [State.socket_modSocket]
  split <;> rfl

/-- R71: the socket itself changes in its flag, its plan, and its state where a start test begins its test. -/
theorem socket_disabling (i : Fin 64) (cause : DisableCause) (s : State) : ∃ state plan,
    (state = s.sockets[i].state ∨ s.sockets[i].state = .ready ∧ state = .testing) ∧
    (disabling i cause s).sockets[i] =
      { s.sockets[i] with state := state, plan := plan, pendingDisable := some cause } := by
  obtain ⟨plan, barred⟩ := socket_barring i i cause s
  rw [if_pos rfl] at barred
  obtain same | ⟨ready, started⟩ := socket_updateGroupOf i i (barring i cause s)
  · exact ⟨_, plan, .inl rfl, same.trans barred⟩
  · rw [barred] at ready started
    exact ⟨.testing, plan, .inr ⟨ready, rfl⟩, started⟩

/-- R71: of the other sockets those that are not READY change in their plans at most. -/
theorem socket_disabling_other {i j : Fin 64} (cause : DisableCause) (other : j ≠ i) (notReady : s.sockets[j].state ≠ .ready) :
    ∃ plan, (disabling i cause s).sockets[j] = { s.sockets[j] with plan := plan } := by
  obtain ⟨plan, barred⟩ := socket_barring i j cause s
  rw [if_neg (Ne.symm other)] at barred
  refine ⟨plan, ((starts_updateGroupOf i (barring i cause s)).socket j ?_).trans barred⟩
  rw [barred]
  exact notReady

/-- R71: no pending PLACE into the socket is left in a queue. -/
theorem queue_disabling (i : Fin 64) (cause : DisableCause) (h : Head) (s : State) :
    ∀ o ∈ ((disabling i cause s).head h).queue, o.isPending = true →
      ¬ (o.action = .place ∧ o.location = some (.socket i)) := fun o ho =>
  cancelPlacesInto_queue i _ h o ((((drops_reexamine _).trans (drops_updateGroupOf i _)).head h).queue.subset ho)

theorem queue_setPendingDisable (i : Fin 64) (cause : DisableCause) (h : Head) (s : State) :
    ∀ o ∈ ((setPendingDisable i cause s).head h).queue, o.isPending = true →
      ¬ (o.action = .place ∧ o.location = some (.socket i)) := fun o ho => by
  refine queue_disabling i cause h s o ?_
  rw [setPendingDisable_eq] at ho
  split at ho
  · exact ((drops_goOff i _).head h).queue.subset ho
  · exact ho

end Sys2Proof.Machine
end

section
/-! PROOFS. An induction over the operations of the socket, disposition and order units: what their few primitive changes
keep, the operations keep. -/

namespace Sys2Proof.Machine

/-- R55, R61, R71, R127: the changes of a socket's state that follow from starts and from orders that are not carried out. -/
inductive Socket.Moves : Socket → Socket → Prop
  | starts (x : Socket) : x.state = .ready ∨ x.state = .testing → Moves x { x with state := .testing }
  | tested (x : Socket) : x.state = .emptying → Moves x { x with state := .tested }
  | emptied (x : Socket) : x.state = .filling → Moves x { x with state := .empty }
  | off (x : Socket) : x.state = .empty → x.pendingDisable ≠ none → Moves x { x with state := .off, pendingDisable := none }

/-- Two states with the same sockets, CLEARING slots, bins, event records and completion list, and the same count of test
timeouts. -/
structure SameBench (s t : State) : Prop where
  sockets : t.sockets = s.sockets
  taken : ∀ i : Fin 8, t.inputs[i].taken = s.inputs[i].taken
  bins : t.bins = s.bins
  events : t.events = s.events
  completions : t.completions = s.completions
  ticketCounter : t.ticketCounter = s.ticketCounter
  testTimeouts : t.counters.testTimeouts = s.counters.testTimeouts

/-- A property of states that the primitive changes of the units keep: events but PICK_MISS and PLACE_STUCK are noted, plans
are dropped, pockets become holes, trays become FULL, and sockets move. -/
structure Quiet (P : State → Prop) : Prop where
  same : ∀ {s t}, P s → SameBench s t → P t
  note : ∀ {k} d {s}, k ≠ .pickMiss → k ≠ .placeStuck → P s → P (noteEvent k d s)
  plans : ∀ {v : Vector Socket 64} {s : State}, (∀ i : Fin 64, v[i] = s.sockets[i] ∨ v[i] = s.sockets[i].unplanned) → P s →
    P { s with sockets := v }
  hole : ∀ b y {s : State}, P s → P (s.modTray b y fun x => { x with holes := x.holes + 1 })
  full : ∀ b y {s : State}, P s → P (s.modTray b y fun x => { x with state := .full })
  moves : ∀ {i : Fin 64} {f} {s : State}, s.sockets[i].Moves (f s.sockets[i]) → P s → P (s.modSocket i f)

/-- A property that the completion of a request keeps as well. -/
structure Steady (P : State → Prop) : Prop extends Quiet P where
  done : ∀ list wanted {s}, P s → P { s with completions := list, slotWanted := wanted }

variable {P : State → Prop} {s t : State}

theorem SameBench.of_offLink (e : t.offLink = s.offLink) (events : t.events = s.events) : SameBench s t :=
  ⟨offLink_sockets e, fun _ => by rw [offLink_inputs e], offLink_bins e, events, offLink_completions e,
    offLink_ticketCounter e, congrArg Counters.testTimeouts (offLink_counters e)⟩

namespace Quiet

/-! ## Frames and events -/

theorem produceNotice (c : Quiet P) (k : EventKind) (hs : P s) : P (produceNotice k s) := by
  refine c.same hs (.of_offLink (offLink_produceNotice k s) ?_)
  unfold Machine.produceNotice joinOwnOrDrop
  split
  · rfl
  · exact joinOwn_events _ _ _

theorem raiseCongestion (c : Quiet P) (d : Nat) (hs : P s) : P (raiseCongestion d s) := by
  have congestion {d : Nat} {s : State} (hs : P s) : P (noteEvent .linkCongestion d s) := c.note d nofun nofun hs
  unfold Machine.raiseCongestion
  dsimp only
  split
  · split
    · exact congestion (c.produceNotice _ (congestion hs))
    · exact c.produceNotice _ (congestion hs)
  · exact congestion hs

theorem raiseEvent (c : Quiet P) {k : EventKind} (d : Nat) (miss : k ≠ .pickMiss) (stuck : k ≠ .placeStuck) (hs : P s) :
    P (raiseEvent k d s) := by
  have noted := c.note d miss stuck hs
  unfold Machine.raiseEvent
  dsimp only
  split
  · split
    · exact c.raiseCongestion _ (c.produceNotice _ noted)
    · exact c.produceNotice _ noted
  · exact noted

theorem produce (c : Quiet P) (p : Port) (d k : Byte) (payload : List Byte) (hs : P s) : P (produce p d k payload s) := by
  have numbered : P (advanceSequence p s) := c.same hs (.of_offLink (offLink_advanceSequence p s) (by simp [advanceSequence]))
  unfold Machine.produce queueOwn
  split
  · exact c.raiseCongestion _ numbered
  · exact c.same numbered (.of_offLink (offLink_joinOwn _ _ _) (joinOwn_events _ _ _))

/-! ## Heads, plans and orders -/

theorem modHead (c : Quiet P) (h : Head) (f : HeadRecord → HeadRecord) (hs : P s) : P (s.modHead h f) :=
  c.same hs ⟨rfl, fun _ => rfl, rfl, rfl, rfl, rfl, rfl⟩

theorem grantPoint (c : Quiet P) (h : Head) (hs : P s) : P (grantPoint h s) :=
  c.same hs ⟨rfl, fun _ => rfl, rfl, rfl, rfl, rfl, rfl⟩

theorem setTimer (c : Quiet P) (id : TimerId) (x : Timer) (hs : P s) : P (s.setTimer id x) := by
  cases id <;> exact c.same hs ⟨rfl, fun _ => rfl, rfl, rfl, rfl, rfl, rfl⟩

theorem withMarks (c : Quiet P) (west east : Bool) (hs : P s) : P (s.withMarks west east) :=
  c.same hs ⟨rfl, fun _ => rfl, rfl, rfl, rfl, rfl, rfl⟩

theorem opportunity (c : Quiet P) (h : Head) (hs : P s) : P (opportunity h s) := by
  obtain ⟨west, east, marks⟩ := opportunity_eq h s
  rw [marks]
  exact c.withMarks west east hs

theorem opportunityBoth (c : Quiet P) (hs : P s) : P (opportunityBoth s) := c.opportunity _ (c.opportunity _ hs)

theorem opportunityServing (c : Quiet P) (i : Fin 64) (hs : P s) : P (opportunityServing i s) := by
  obtain ⟨west, east, marks⟩ := opportunityServing_marks i s
  rw [marks]
  exact c.withMarks west east hs

theorem recomputeHoldings (c : Quiet P) (h : Head) (hs : P s) : P (recomputeHoldings h s) := by
  have held := c.modHead h (fun x => { x with holdings := newHoldings x }) hs
  unfold Machine.recomputeHoldings tellOther
  dsimp only
  split
  · exact c.same held ⟨rfl, fun _ => rfl, rfl, rfl, rfl, rfl, rfl⟩
  · exact c.same held ⟨rfl, fun _ => rfl, rfl, rfl, rfl, rfl, rfl⟩

theorem holeOf (c : Quiet P) (o : Order) (hs : P s) : P (holeOf o s) := by
  unfold Machine.holeOf holePocket fillTray
  split
  · dsimp only
    split
    · exact c.raiseEvent _ nofun nofun (c.full _ _ (c.hole _ _ hs))
    · exact c.hole _ _ hs
  · exact hs

theorem dropPlan (c : Quiet P) (p : Nat) (hs : P s) : P (dropPlan p s) := by
  unfold Machine.dropPlan
  dsimp only
  refine c.opportunityBoth (c.same (c.plans (v := mapVec
      (fun x => { x with plan := if x.plan = some p then none else x.plan }) s.sockets) (fun i => ?_) hs)
    ⟨rfl, fun i => ?_, rfl, rfl, rfl, rfl, rfl⟩)
  · rw [Fin.getElem_fin, mapVec_getElem]
    split
    · exact .inr rfl
    · exact .inl rfl
  · simp only [Fin.getElem_fin, mapVec_getElem]

theorem endPlan (c : Quiet P) (h : Head) (plan : Option Nat) (hs : P s) : P (endPlan h plan s) := by
  unfold Machine.endPlan
  split
  · exact hs
  · split
    · exact hs
    · exact c.dropPlan _ hs

theorem leaveQueue (c : Quiet P) (h : Head) (tag : Nat) (hs : P s) : P (leaveQueue h tag s) := c.modHead _ _ hs

theorem cancelPending (c : Quiet P) (h : Head) (o : Order) (hs : P s) : P (cancelPending h o s) := by
  have opened : P (cancelPoint h o s) := by
    unfold cancelPoint
    split
    · exact c.grantPoint _ hs
    · exact hs
  exact c.opportunity _ (c.endPlan _ _ (c.holeOf _ (c.leaveQueue _ _ opened)))

theorem cancelWhere (c : Quiet P) (h : Head) (test : Order → Bool) (hs : P s) : P (cancelWhere h test s) :=
  foldl_keeps (fun _ o hs => c.cancelPending h o hs) _ hs

theorem cancelPlacesInto (c : Quiet P) (i : Fin 64) (hs : P s) : P (cancelPlacesInto i s) :=
  c.cancelWhere _ _ (c.cancelWhere _ _ hs)

/-! ## Conversions (R80 to R83) -/

theorem modPart (c : Quiet P) (k : Fin 96) (f : PartRecord → PartRecord) (hs : P s) : P (s.modPart k f) :=
  c.same hs ⟨rfl, fun _ => rfl, rfl, rfl, rfl, rfl, rfl⟩

theorem convert (c : Quiet P) (k : Fin 96) (hs : P s) : P (convert k s) := by
  have cancelled (plan : Option Nat) {s : State} (hs : P s) : P (cancelCarrying k plan s) := by
    unfold cancelCarrying
    split
    · exact hs
    · exact c.cancelWhere _ _ (c.cancelWhere _ _ hs)
  have carried {s : State} (hs : P s) : P (carriedOpportunity k s) := by
    unfold carriedOpportunity
    split
    · split
      · exact hs
      · exact c.opportunity _ hs
    · exact hs
  unfold Machine.convert
  split
  · split
    · refine carried (cancelled _ ?_)
      split
      · exact c.raiseEvent _ nofun nofun (c.modPart _ _ hs)
      · exact c.modPart _ _ hs
    · exact hs
  · exact hs

theorem reexamine (c : Quiet P) (hs : P s) : P (reexamine s) := by
  refine foldl_keeps (fun s k hs => ?_) _ hs
  split
  · split
    · exact c.convert k hs
    · exact hs
  · exact hs

/-! ## Groups (R57 to R61) -/

theorem foldl_beginTest (c : Quiet P) : ∀ (l : List (Fin 64)) {s : State},
    (∀ i ∈ l, s.sockets[i].state = .ready ∨ s.sockets[i].state = .testing) → P s → P (l.foldl beginTest s)
  | [], _, _, hs => hs
  | i :: l, s, waits, hs => by
    have begun : P (beginTest s i) := by
      refine c.setTimer (.watchdog i) _ (c.same (c.moves (f := fun x => { x with state := .testing }) ?_ hs)
        ⟨rfl, fun _ => rfl, rfl, rfl, rfl, rfl, rfl⟩)
      exact .starts _ (waits i List.mem_cons_self)
    refine c.foldl_beginTest l (fun j hj => ?_) begun
    have at_j : (beginTest s i).sockets[j] = if i = j then { s.sockets[i] with state := .testing } else s.sockets[j] :=
      State.socket_modSocket s i j fun x => { x with state := .testing }
    rw [at_j]
    split
    · exact .inr rfl
    · exact waits j (List.mem_cons_of_mem _ hj)

theorem startGroup (c : Quiet P) (g : Fin 16) (hs : P s) : P (startGroup g s) := by
  have sent := offLink_sockets (offLink_produce .downstream (s.nodeAddress 1) kindSiteStart
    (byte g :: (readyMembers s g).map fun (i : Fin 64) => byte i.val) s)
  have begun := c.foldl_beginTest (readyMembers s g)
    (fun i hi => .inl (by rw [sent]; exact ((mem_readyMembers s g i).1 hi).2)) (c.produce _ _ _ _ hs)
  exact c.same (c.setTimer (.fill g) .clear begun) ⟨rfl, fun _ => rfl, rfl, rfl, rfl, rfl, rfl⟩

theorem updateGroupOf (c : Quiet P) (i : Fin 64) (hs : P s) : P (updateGroupOf i s) := by
  unfold Machine.updateGroupOf groupUpdate
  split
  · next g _ =>
    split
    · exact c.startGroup _ hs
    · obtain ⟨timers, filled⟩ := fillUpdate_eq g s
      rw [filled]
      exact c.same hs ⟨rfl, fun _ => rfl, rfl, rfl, rfl, rfl, rfl⟩
  · exact hs

/-- R97: a socket enters TESTED as its PICK is not carried out. -/
theorem enterTested (c : Quiet P) {i : Fin 64} (emptying : s.sockets[i].state = .emptying) (hs : P s) :
    P (enterTested i s) := c.opportunityServing i (c.moves (.tested _ emptying) hs)

end Quiet

namespace Steady

/-! ## Sockets that leave service (R71) -/

theorem completeDisable (c : Steady P) (i : Fin 64) (hs : P s) : P (completeDisable i s) := by
  unfold Machine.completeDisable complete
  split
  · exact hs
  · next x _ =>
    have sent : P (produceCompletion x .ok
        { s with completions := s.completions.filter fun d => !(d.ticket == x.ticket) }) :=
      c.produce _ _ _ _ (c.done _ s.slotWanted hs)
    unfold slotFreed
    split
    · exact c.raiseEvent _ nofun nofun (c.done _ false sent)
    · exact sent

theorem afterOff (c : Steady P) (i : Fin 64) (hs : P s) : P (afterOff i s) :=
  c.updateGroupOf _ (c.reexamine (c.opportunityServing _ hs))

theorem goOff (c : Steady P) {i : Fin 64} (empty : s.sockets[i].state = .empty) (due : s.sockets[i].pendingDisable ≠ none)
    (hs : P s) : P (goOff i s) := by
  have off := c.completeDisable i
    (c.moves (f := fun x => { x with state := .off, pendingDisable := none }) (.off _ empty due) hs)
  unfold Machine.goOff
  dsimp only
  refine c.afterOff i ?_
  split
  · exact c.raiseEvent _ nofun nofun off
  · exact off

theorem enterEmpty (c : Steady P) {i : Fin 64} (filling : s.sockets[i].state = .filling) (hs : P s) :
    P (enterEmpty i s) := by
  have emptied := c.opportunityServing i (c.moves (f := fun x => { x with state := .empty }) (.emptied _ filling) hs)
  have view := benchView_opportunityServing i (s.modSocket i fun x => { x with state := .empty })
  have empty := (benchView_socketState view i).trans
    (congrArg Socket.state (State.socket_modSocket_self s i fun x => { x with state := .empty }))
  unfold Machine.enterEmpty
  dsimp only
  split
  · next due => exact c.goOff empty (Option.isSome_iff_ne_none.1 due) emptied
  · exact emptied

/-- R71: for a property that the flag itself keeps. -/
theorem setPendingDisable (c : Steady P) (i : Fin 64) (cause : DisableCause)
    (marked : P (s.modSocket i fun x => { x with pendingDisable := some cause })) : P (setPendingDisable i cause s) := by
  have flagged : P (disabling i cause s) := c.updateGroupOf i (c.reexamine (c.cancelPlacesInto i marked))
  obtain ⟨state, plan, -, socket⟩ := socket_disabling i cause s
  rw [setPendingDisable_eq]
  split
  · next empty =>
    refine c.goOff empty.1 ?_ flagged
    rw [socket]
    exact Option.some_ne_none cause
  · exact flagged

/-! ## Orders that are not carried out (R126 to R128) -/

theorem resolveNotDone (c : Steady P) (h : Head) (o : Order) (hs : P s) : P (resolveNotDone h o s) := by
  have left := c.leaveQueue h o.tag hs
  have effect : P (notDoneEffect o (Machine.leaveQueue h o.tag s)) := by
    unfold notDoneEffect
    split
    · split
      · next emptying => exact c.enterTested emptying left
      · exact left
    · split
      · next filling => exact c.enterEmpty filling left
      · exact left
    · exact c.holeOf _ left
  exact c.grantPoint _ (c.opportunity _ (c.endPlan _ _ (c.recomputeHoldings _ effect)))

theorem failGranted (c : Steady P) (h : Head) (hs : P s) : P (failGranted h s) :=
  foldl_keeps (fun _ o => c.resolveNotDone h o) _ hs

theorem failPlanMates (c : Steady P) (h : Head) (o : Order) (hs : P s) : P (failPlanMates h o s) :=
  foldl_keeps (fun _ o => c.resolveNotDone h o) _ hs

theorem stopStuck (c : Steady P) (h : Head) (hs : P s) : P (stopStuck h s) := by
  have told : P (yieldCheck h.other (s.modHead h fun x => { x with state := .stopped, base := none })) :=
    c.same (c.modHead h (fun x => { x with state := .stopped, base := none }) hs) ⟨rfl, fun _ => rfl, rfl, rfl, rfl, rfl, rfl⟩
  exact c.raiseEvent _ nofun nofun (c.failGranted h (c.cancelWhere h _ (c.setTimer (.order h) .clear told)))

/-- R126: an order that goes back to a queue. -/
theorem revertSocket (c : Steady P) (o : Order) (hs : P s) : P (revertSocket o s) := by
  unfold Machine.revertSocket
  split
  · split
    · next emptying => exact c.enterTested emptying hs
    · exact hs
  · next i _ _ =>
    have emptied : P (if s.sockets[i].state = .filling then
        Machine.opportunityServing i (s.modSocket i fun x => { x with state := .empty }) else s) := by
      split
      · next filling => exact c.opportunityServing i (c.moves (.emptied _ filling) hs)
      · exact hs
    dsimp only
    generalize (if s.sockets[i].state = .filling then
      Machine.opportunityServing i (s.modSocket i fun x => { x with state := .empty }) else s) = v at emptied
    split
    · next due =>
      have view : (Machine.cancelPlacesInto i v).benchView = v.benchView := by
        simp only [Machine.cancelPlacesInto, benchView_cancelWhere]
      have still := congrArg Socket.pendingDisable (benchView_socket view i)
      have cancelled := c.cancelPlacesInto i emptied
      split
      · next empty =>
        exact c.goOff empty (fun none' => Option.isSome_iff_ne_none.1 due (still.symm.trans none')) cancelled
      · exact cancelled
    · exact emptied
  · exact hs

theorem returnForRetry (c : Steady P) (h : Head) (failed : Option Nat) (hs : P s) : P (returnForRetry h failed s) := by
  have reverted := foldl_keeps (fun _ o => c.revertSocket o) ((s.head h).queue.filter fun o => o.state == .outstanding)
    (c.modHead h (fun x => { x with
      queue := x.queue.map fun o =>
        if o.state = .outstanding then
          { o with state := .pending, retry := if some o.tag = failed then 1 else o.retry }
        else o }) hs)
  exact c.grantPoint _ (c.opportunity _ (c.recomputeHoldings _ (c.setTimer (.order h) .clear reverted)))

end Steady

/-! ## Properties that are kept -/

/-- A property of one socket that no move and no dropped plan undoes. -/
theorem steady_socket (i : Fin 64) {Q : Socket → Prop} (unplanned : ∀ x, Q x → Q x.unplanned)
    (moves : ∀ x y : Socket, x.Moves y → Q x → Q y) : Steady fun t => Q t.sockets[i] where
  same hs e := by
    rw [e.sockets]
    exact hs
  note _ _ _ _ hs := hs
  plans {v s} kept hs := by
    show Q v[i]
    obtain e | e := kept i
    · rw [e]
      exact hs
    · rw [e]
      exact unplanned _ hs
  hole _ _ _ hs := hs
  full _ _ _ hs := hs
  moves {j f s} step hs := by
    rw [State.socket_modSocket]
    split
    · next e =>
      subst e
      exact moves _ _ step hs
    · exact hs
  done _ _ _ hs := hs

/-- A property of the plan that reserves a socket. -/
theorem steady_plan (i : Fin 64) {Q : Option Nat → Prop} (free : Q none) : Steady fun t => Q t.sockets[i].plan :=
  steady_socket (Q := fun x => Q x.plan) i (fun _ _ => free) fun x y step kept => by cases step <;> exact kept

/-- A fault flag stays set. -/
theorem steady_faults (i : Fin 64) {Q : FaultFlags → Prop} : Steady fun t => Q t.sockets[i].faults :=
  steady_socket (Q := fun x => Q x.faults) i (fun _ kept => kept) fun x y step kept => by cases step <;> exact kept

theorem num_ne_pickMiss {k : EventKind} : k ≠ .pickMiss → k.num ≠ EventKind.pickMiss.num := by cases k <;> decide

theorem num_ne_placeStuck {k : EventKind} : k ≠ .placeStuck → k.num ≠ EventKind.placeStuck.num := by cases k <;> decide

/-- R171: what PICK_MISS and PLACE_STUCK have noted is not changed by another event. -/
theorem steady_event {k : EventKind} (own : k = .pickMiss ∨ k = .placeStuck) (e : EventRecord) :
    Steady fun t => t.events[k.num] = e where
  same hs b := by
    rw [b.events]
    exact hs
  note {j} d s miss stuck hs := by
    have apart : j.num ≠ k.num := by
      obtain rfl | rfl := own
      · exact num_ne_pickMiss miss
      · exact num_ne_placeStuck stuck
    rw [event_noteEvent, if_neg apart]
    exact hs
  plans _ hs := hs
  hole _ _ _ hs := hs
  full _ _ _ hs := hs
  moves _ hs := hs
  done _ _ _ hs := hs

/-- R171: a pending event stays pending. -/
theorem steady_pends (k : EventKind) : Steady fun t => t.pends k where
  same hs b := pends_of_events b.events hs
  note d _ _ _ hs := pends_noteEvent _ d hs
  plans _ hs := hs
  hole _ _ _ hs := hs
  full _ _ _ hs := hs
  moves _ hs := hs
  done _ _ _ hs := hs

/-- R29, R24: a CLEARING slot keeps its tag. -/
theorem steady_taken (i : Fin 8) (tag : Option Nat) : Steady fun t => t.inputs[i].taken = tag where
  same hs b := (b.taken i).trans hs
  note _ _ _ _ hs := hs
  plans _ hs := hs
  hole _ _ _ hs := hs
  full _ _ _ hs := hs
  moves _ hs := hs
  done _ _ _ hs := hs

/-- R175: no test times out. -/
theorem steady_testTimeouts (n : Nat) : Steady fun t => t.counters.testTimeouts = n where
  same hs b := b.testTimeouts.trans hs
  note _ _ _ _ hs := hs
  plans _ hs := hs
  hole _ _ _ hs := hs
  full _ _ _ hs := hs
  moves _ hs := hs
  done _ _ _ hs := hs

/-- R163: the completion list and its counter. -/
theorem quiet_completions (list : List Completion) (n : Nat) :
    Quiet fun t => t.completions = list ∧ t.ticketCounter = n where
  same hs b := ⟨b.completions.trans hs.1, b.ticketCounter.trans hs.2⟩
  note _ _ _ _ hs := hs
  plans _ hs := hs
  hole _ _ _ hs := hs
  full _ _ _ hs := hs
  moves _ hs := hs

theorem holes_modTray {b c : Fin 16} {y z : TrayId} {n : Nat} {f : TrayRecord → TrayRecord}
    (more : ∀ x, x.holes ≤ (f x).holes) (hs : n ≤ (s.bins[b].tray y).holes) : n ≤ ((s.modTray c z f).bins[b].tray y).holes := by
  refine hs.trans ?_
  rw [State.modTray, State.bin_modBin]
  split
  · next e =>
    subst e
    cases y <;> cases z
    · exact more _
    · exact Nat.le_refl _
    · exact Nat.le_refl _
    · exact more _
  · exact Nat.le_refl _

/-- R89: a hole stays a hole. -/
theorem steady_holes (b : Fin 16) (y : TrayId) (n : Nat) : Steady fun t => n ≤ (t.bins[b].tray y).holes where
  same hs e := by
    rw [e.bins]
    exact hs
  note _ _ _ _ hs := hs
  plans _ hs := hs
  hole c z s hs := holes_modTray (fun _ => Nat.le_succ _) hs
  full c z s hs := holes_modTray (fun _ => Nat.le_refl _) hs
  moves _ hs := hs
  done _ _ _ hs := hs

end Sys2Proof.Machine
end

section
/-! PROOFS. Faults that reach the threshold, and a socket that goes OFF: O28. -/

namespace Sys2Proof.Machine

variable {s t : State}

/-! ## A socket that goes OFF (R71, R73) -/

/-- R71: a socket out of service with its flag clear, its ticket completed, and SOCKET_DISABLED raised after a fault. -/
def switchedOff (i : Fin 64) (s : State) : State :=
  let v := completeDisable i (s.modSocket i fun x => { x with state := .off, pendingDisable := none })
  if s.sockets[i].pendingDisable = some .fault then raiseEvent .socketDisabled i v else v

theorem goOff_eq (i : Fin 64) (s : State) : goOff i s = afterOff i (switchedOff i s) := rfl

theorem sockets_completeDisable (i : Fin 64) (s : State) : (completeDisable i s).sockets = s.sockets := by
  obtain ⟨_, _, same⟩ := offLink_complete codeSocketDisable (.socket i) .ok s
  exact (offLink_sockets same).trans rfl

theorem sockets_switchedOff (i : Fin 64) (s : State) :
    (switchedOff i s).sockets = (s.modSocket i fun x => { x with state := .off, pendingDisable := none }).sockets := by
  unfold switchedOff
  dsimp only
  split
  · exact (offLink_sockets (offLink_raiseEvent _ _ _)).trans (sockets_completeDisable i _)
  · exact sockets_completeDisable i _

/-- R71: what follows an entry into OFF drops plans of sockets that are not READY, and changes nothing else of them. -/
theorem socket_afterOff {j : Fin 64} (i : Fin 64) (notReady : s.sockets[j].state ≠ .ready) :
    ∃ plan, (afterOff i s).sockets[j] = { s.sockets[j] with plan := plan } := by
  have view : (reexamine (opportunityServing i s)).benchView = s.benchView := by simp
  have rest := (starts_updateGroupOf i (reexamine (opportunityServing i s))).socket j
    (by rw [benchView_socketState view]; exact notReady)
  exact ⟨_, rest.trans (eq_of_unplanned (benchView_socket view j))⟩

theorem socket_goOff (i : Fin 64) (s : State) : ∃ plan, (goOff i s).sockets[i] =
    { s.sockets[i] with state := .off, plan := plan, pendingDisable := none } := by
  have off : (switchedOff i s).sockets[i] = { s.sockets[i] with state := .off, pendingDisable := none } := by
    rw [sockets_switchedOff]
    exact State.socket_modSocket_self s i _
  obtain ⟨plan, after⟩ := socket_afterOff (s := switchedOff i s) (j := i) i (by rw [off]; exact SocketState.noConfusion)
  rw [off] at after
  exact ⟨plan, after⟩

theorem socket_goOff_other {i j : Fin 64} (other : j ≠ i) (notReady : s.sockets[j].state ≠ .ready) :
    ∃ plan, (goOff i s).sockets[j] = { s.sockets[j] with plan := plan } := by
  have before : (switchedOff i s).sockets[j] = s.sockets[j] := by
    rw [sockets_switchedOff]
    exact (State.socket_modSocket s i j _).trans (if_neg (Ne.symm other))
  obtain ⟨plan, after⟩ := socket_afterOff (s := switchedOff i s) (j := j) i (by rw [before]; exact notReady)
  rw [before] at after
  exact ⟨plan, after⟩

theorem pends_afterOff {k : EventKind} (i : Fin 64) (h : s.pends k) : (afterOff i s).pends k :=
  (steady_pends k).afterOff i h

/-- R71: a socket that a fault has taken out of service raises SOCKET_DISABLED. -/
theorem goOff_pends {i : Fin 64} (fault : s.sockets[i].pendingDisable = some .fault) : (goOff i s).pends .socketDisabled := by
  rw [goOff_eq]
  refine pends_afterOff i ?_
  unfold switchedOff
  rw [if_pos fault]
  exact raiseEvent_pends _ _ _

/-! ## Pending-disable by the socket's state (R71) -/

theorem setPendingDisable_of_not_empty {i : Fin 64} (cause : DisableCause) (full : s.sockets[i].state ≠ .empty) :
    setPendingDisable i cause s = disabling i cause s := by
  obtain ⟨state, plan, begun, socket⟩ := socket_disabling i cause s
  rw [setPendingDisable_eq]
  refine if_neg fun empty => ?_
  have empty : state = .empty := by
    have e := empty.1
    rwa [socket] at e
  obtain same | ⟨-, testing⟩ := begun
  · exact full (same.symm.trans empty)
  · exact SocketState.noConfusion (testing.symm.trans empty)

/-- R71: an EMPTY socket goes on to OFF unless a plan still reserves it. -/
theorem setPendingDisable_of_empty {i : Fin 64} (cause : DisableCause) (empty : s.sockets[i].state = .empty) :
    (disabling i cause s).sockets[i].plan = none ∧
      (setPendingDisable i cause s).sockets[i] = { s.sockets[i] with state := .off, plan := none, pendingDisable := none } ∧
      (cause = .fault → (setPendingDisable i cause s).pends .socketDisabled) ∨
    (disabling i cause s).sockets[i].plan = s.sockets[i].plan ∧ s.sockets[i].plan ≠ none ∧
      (setPendingDisable i cause s).sockets[i] = { s.sockets[i] with pendingDisable := some cause } := by
  obtain ⟨state, plan, begun, socket⟩ := socket_disabling i cause s
  obtain rfl : state = .empty := begun.elim (·.trans empty) fun h => SocketState.noConfusion (empty.symm.trans h.1)
  have kept : (disabling i cause s).sockets[i].plan = s.sockets[i].plan ∨ (disabling i cause s).sockets[i].plan = none :=
    let c := steady_plan i (Q := fun p => p = s.sockets[i].plan ∨ p = none) (.inr rfl)
    c.updateGroupOf i (c.reexamine (c.cancelPlacesInto i (.inl (by rw [State.socket_modSocket_self]))))
  have state : (disabling i cause s).sockets[i].state = .empty := by rw [socket]
  rw [setPendingDisable_eq]
  by_cases free : (disabling i cause s).sockets[i].plan = none
  · rw [if_pos ⟨state, free⟩]
    obtain ⟨left, off⟩ := socket_goOff i (disabling i cause s)
    have flag : (disabling i cause s).sockets[i].pendingDisable = some cause := by rw [socket]
    have gone : (goOff i (disabling i cause s)).sockets[i].plan = none :=
      (steady_plan i (Q := fun p => p = none) rfl).goOff state (by rw [flag]; exact Option.some_ne_none cause) free
    refine .inl ⟨free, ?_, fun fault => goOff_pends (flag.trans (by rw [fault]))⟩
    rw [off] at gone ⊢
    obtain rfl : left = none := gone
    rw [socket]
  · rw [if_neg fun h => free h.2]
    have same := kept.resolve_right free
    refine .inr ⟨same, fun none' => free (same.trans none'), ?_⟩
    rw [socket] at same ⊢
    obtain rfl : plan = s.sockets[i].plan := same
    rw [← empty]

/-! ## Faults (R69, R70) -/

theorem noteFault_off {i : Fin 64} (k : FaultKind) (off : s.sockets[i].state = .off) :
    noteFault i k s = s.modSocket i fun x => x.faulted k := by
  rw [noteFault_eq]
  unfold checkThreshold
  dsimp only
  rw [State.socket_modSocket_self]
  exact if_neg fun ⟨_, _, _, inService⟩ => inService off

/-- R70, R71: what a fault that reaches the threshold leaves of its socket. -/
theorem noteFault_reached_socket {i : Fin 64} (k : FaultKind) (reached : reachesThreshold i s)
    (inService : s.sockets[i].state ≠ .off) : ∃ state plan flag,
    (noteFault i k s).sockets[i] =
      { s.sockets[i].faulted k with state := state, plan := plan, pendingDisable := flag } ∧
    (s.sockets[i].state ≠ .empty →
      (state = s.sockets[i].state ∨ s.sockets[i].state = .ready ∧ state = .testing) ∧ flag = some .fault) ∧
    (s.sockets[i].state = .empty →
      state = .off ∧ flag = none ∧ (noteFault i k s).pends .socketDisabled ∨
      s.sockets[i].plan ≠ none ∧ plan = s.sockets[i].plan ∧ state = .empty ∧ flag = some .fault) := by
  have faulted := State.socket_modSocket_self s i fun x => x.faulted k
  have before : (s.modSocket i fun x => x.faulted k).sockets[i].state = s.sockets[i].state := by
    rw [faulted]
    rfl
  rw [noteFault_reached k reached inService]
  by_cases empty : s.sockets[i].state = .empty
  · obtain ⟨-, off, pends⟩ | ⟨-, reserved, flagged⟩ := setPendingDisable_of_empty .fault (before.trans empty)
    · rw [faulted] at off
      exact ⟨.off, none, none, off, fun full => absurd empty full, fun _ => .inl ⟨rfl, rfl, pends rfl⟩⟩
    · rw [faulted] at reserved flagged
      exact ⟨.empty, s.sockets[i].plan, some .fault, flagged.trans (by rw [← empty]; rfl), fun full => absurd empty full,
        fun _ => .inr ⟨reserved, rfl, rfl, rfl⟩⟩
  · obtain ⟨state, plan, begun, socket⟩ := socket_disabling i .fault (s.modSocket i fun x => x.faulted k)
    rw [setPendingDisable_of_not_empty .fault (by rw [before]; exact empty)]
    rw [faulted] at socket begun
    exact ⟨state, plan, some .fault, socket, fun _ => ⟨begun, rfl⟩, fun e => absurd e empty⟩

/-- Settles O28. -/
theorem faultThresholdDisables : Obligations.FaultThresholdDisables := by
  intro s i kind x count reached t
  refine ⟨fun below => ?_, fun ⟨nonzero, atLeast, enabled, inService⟩ => ?_⟩
  · by_cases off : x.state = .off
    · exact noteFault_off kind off
    · exact noteFault_below kind fun ⟨enabled, nonzero, atLeast⟩ => below ⟨nonzero, atLeast, enabled, off⟩
  have reaches : reachesThreshold i s := ⟨enabled, nonzero, atLeast⟩
  obtain ⟨state, plan, flag, socket, full, empty⟩ := noteFault_reached_socket kind reaches inService
  have socket : t.sockets[i] = _ := socket
  have queues : t = setPendingDisable i .fault (s.modSocket i fun y => y.faulted kind) :=
    noteFault_reached kind reaches inService
  rw [socket]
  refine ⟨rfl, rfl, rfl, fun h o ho => ?_, fun notEmpty notReady => ?_, fun ready => ?_, fun notEmpty => (full notEmpty).2,
    fun isEmpty => ?_⟩
  · rw [queues] at ho
    exact queue_setPendingDisable i .fault h _ o ho
  · exact (full notEmpty).1.resolve_right fun h => notReady h.1
  · refine (full (by rw [ready]; exact SocketState.noConfusion)).1.imp (·.trans ready) And.right
  · exact empty isEmpty

end Sys2Proof.Machine
end

section
/-! PROOFS. A test that times out: O22. -/

namespace Sys2Proof.Machine

variable {s t v w : State} {i : Fin 64} {k : Fin 96} {r : PartRecord} {code : Byte} {time : Nat}

/-! ## The fault of a time-out, and of its result code (R65, R69, R70) -/

/-- R65, R69: a socket whose test has timed out, `mark` being the fault mark of the timeout code. -/
def Socket.overrun (mark : Bool) (x : Socket) : Socket :=
  if mark then (x.faulted .timeout).faulted .result else x.faulted .timeout

/-- R65, R70: the faults of a time-out bring the count of a socket to the lot's threshold. -/
def reachesThresholdBy (mark : Bool) (i : Fin 64) (s : State) : Prop :=
  s.sockets[i].pendingDisable = none ∧ s.lot.faultThreshold ≠ 0 ∧
    s.lot.faultThreshold ≤ (s.sockets[i].overrun mark).faultCount

/-- R65: the faults of a time-out are noted. -/
def noteOverrun (i : Fin 64) (code : Byte) (s : State) : State :=
  if faultMark (noteFault i .timeout s) code then noteFault i .result (noteFault i .timeout s) else noteFault i .timeout s

theorem takeTimeout_eq (i : Fin 64) (s : State) : takeTimeout i s =
    (raiseEvent .siteTimeout i (finishTest i (noteOverrun i s.lot.timeoutCode
      (decideResult i s.lot.timeoutCode s.lot.testLimit s)))).modCounters fun c =>
      { c with testTimeouts := satSucc c.testTimeouts } := rfl

theorem faultMark_modSocket (i : Fin 64) (f : Socket → Socket) (code : Byte) (s : State) :
    faultMark (s.modSocket i f) code = faultMark s code := rfl

theorem State.modSocket_modSocket (i : Fin 64) (f g : Socket → Socket) (s : State) :
    (s.modSocket i f).modSocket i g = s.modSocket i fun x => g (f x) := by
  simp [State.modSocket]

theorem faultCount_overrun (mark : Bool) (x : Socket) : (x.overrun mark).faultCount =
    if mark then min (x.faultCount + 2) 15 else min (x.faultCount + 1) 15 := by
  cases mark with
  | false => rfl
  | true =>
    show min (min (x.faultCount + 1) 15 + 1) 15 = min (x.faultCount + 2) 15
    omega

/-- R69: faults that do not bring the count to the threshold change the socket alone. -/
theorem noteOverrun_below (below : ¬ reachesThresholdBy (faultMark s code) i s) :
    noteOverrun i code s = s.modSocket i fun x => x.overrun (faultMark s code) := by
  have rises (x : Socket) (mark : Bool) : faultSucc x.faultCount ≤ (x.overrun mark).faultCount := by
    rw [faultCount_overrun]
    unfold faultSucc
    split <;> omega
  have first : noteFault i .timeout s = s.modSocket i fun x => x.faulted .timeout := noteFault_below .timeout
    fun ⟨enabled, nonzero, reached⟩ => below ⟨enabled, nonzero, reached.trans (rises _ _)⟩
  unfold noteOverrun
  rw [first, faultMark_modSocket]
  split
  · next mark =>
    rw [noteFault_below .result, State.modSocket_modSocket, mark]
    · rfl
    · rintro ⟨enabled, nonzero, reached⟩
      rw [State.socket_modSocket_self] at enabled reached
      refine below ⟨enabled, nonzero, ?_⟩
      rw [mark]
      exact reached
  · next mark =>
    rw [Bool.eq_false_iff.2 mark]
    rfl

/-- R70, R71: faults that bring the count of a TESTING socket to the threshold set its pending-disable, whichever of the two
does so. -/
theorem noteOverrun_reached (testing : s.sockets[i].state = .testing) (reached : reachesThresholdBy (faultMark s code) i s) :
    Disabled i .fault (s.modSocket i fun x => x.overrun (faultMark s code)) (noteOverrun i code s) := by
  obtain ⟨enabled, nonzero, atLeast⟩ := reached
  have inService {x : Socket} (e : x.state = .testing) : x.state ≠ .off := by
    rw [e]
    exact SocketState.noConfusion
  have still (f : Socket → Socket) (hf : ∀ x, (f x).state = x.state) : (s.modSocket i f).sockets[i].state = .testing := by
    rw [State.socket_modSocket_self, hf]
    exact testing
  unfold noteOverrun
  by_cases first : reachesThreshold i s
  · have disabled : Disabled i .fault (s.modSocket i fun x => x.faulted .timeout) (noteFault i .timeout s) := by
      rw [noteFault_reached .timeout first (inService testing)]
      exact setPendingDisable_testing .fault (still _ fun _ => rfl)
    have mark : faultMark (noteFault i .timeout s) code = faultMark s code := by
      unfold faultMark
      rw [disabled.converts.binMap]
      rfl
    rw [mark]
    split
    · next marked =>
      have flagged : (noteFault i .timeout s).sockets[i].pendingDisable = some .fault := by rw [disabled.socket]
      rw [noteFault_below .result fun h => Option.some_ne_none _ (flagged.symm.trans h.1), marked]
      have socket := State.socket_modSocket_self (noteFault i .timeout s) i fun x => x.faulted .result
      refine ⟨?_, disabled.watchdog, disabled.retests, ⟨disabled.converts.binMap, disabled.converts.part⟩, disabled.queues⟩
      rw [socket, State.socket_modSocket_self]
      refine (congrArg (·.faulted .result) disabled.socket).trans ?_
      rw [State.socket_modSocket_self]
      rfl
    · next unmarked =>
      rw [Bool.eq_false_iff.2 unmarked]
      exact disabled
  · have alone : noteFault i .timeout s = s.modSocket i fun x => x.faulted .timeout := noteFault_below .timeout first
    rw [alone, faultMark_modSocket]
    split
    · next marked =>
      rw [marked] at atLeast ⊢
      have second : reachesThreshold i (s.modSocket i fun x => x.faulted .timeout) := by
        unfold reachesThreshold
        rw [State.socket_modSocket_self]
        exact ⟨enabled, nonzero, atLeast⟩
      have testing' := still (fun x => x.faulted .timeout) fun _ => rfl
      rw [noteFault_reached .result second (inService testing'), State.modSocket_modSocket]
      exact setPendingDisable_testing .fault (still (fun x => x.overrun true) fun _ => rfl)
    · next unmarked =>
      rw [Bool.eq_false_iff.2 unmarked] at atLeast
      exact absurd ⟨enabled, nonzero, atLeast⟩ first

/-! ## The end of a test whose socket has changed (R63 step 5) -/

/-- R63: the result of a test after a change of its socket alone. -/
theorem Decided.finish_kept (d : Decided i k r code time s v) (f : Socket → Socket) :
    (finishTest i (v.modSocket i f)).sockets[i] = { f { s.sockets[i] with last := some (code, time) } with state := .tested } ∧
    (finishTest i (v.modSocket i f)).parts[k] =
      some { r.tested i code with disposition := decideDisposition s (r.tested i code) code } ∧
    (∀ j : Fin 96, j ≠ k → (finishTest i (v.modSocket i f)).parts[j] = s.parts[j]) ∧
    ∀ j : Fin 64, j ≠ i → s.sockets[j].state ≠ .ready → (finishTest i (v.modSocket i f)).sockets[j] = s.sockets[j] := by
  obtain ⟨socket, others, parts, -⟩ := finishTest_spec i (v.modSocket i f)
  have other (j : Fin 64) (ne : j ≠ i) : (v.modSocket i f).sockets[j] = s.sockets[j] := by
    rw [State.socket_modSocket, if_neg (Ne.symm ne), d.socket, if_neg (Ne.symm ne)]
  rw [parts]
  refine ⟨socket.trans ?_, (d.part k).trans (if_pos rfl), fun j ne => (d.part j).trans (if_neg (Ne.symm ne)),
    fun j ne notReady => ?_⟩
  · rw [State.socket_modSocket_self, d.socket, if_pos rfl]
  · rw [others j ne (by rw [other j ne]; exact notReady), other j ne]

/-- R63, R71: the result of a test whose socket has pending-disable since. -/
theorem Decided.finish_disabled (d : Decided i k r code time s v) {f : Socket → Socket} {cause : DisableCause}
    (disabled : Disabled i cause (v.modSocket i f) w) (custody : w.custody = v.custody) :
    (finishTest i w).sockets[i] =
      { f { s.sockets[i] with last := some (code, time) } with
        state := .tested, plan := (finishTest i w).sockets[i].plan, pendingDisable := some cause } ∧
    (∀ h, ∀ o ∈ ((finishTest i w).head h).queue, o.isPending = true →
      ¬ (o.action = .place ∧ o.location = some (.socket i))) ∧
    ∃ y, (finishTest i w).parts[k] = some y ∧ y.tag = r.tag ∧ y.place = r.place ∧
      y.attempts = (r.tested i code).attempts ∧
      (y.disposition = decideDisposition s (r.tested i code) code ∨
        decideDisposition s (r.tested i code) code = .retest ∧
          y.disposition = (finalDisposition s (r.tested i code)).1) := by
  obtain ⟨socket, -, parts, -⟩ := finishTest_spec i w
  have drops : Drops w (finishTest i w) := (drops_enterTested _ _).trans (drops_updateGroupOf _ _)
  have device := (d.part k).trans (if_pos rfl)
  refine ⟨?_, fun h o ho => disabled.queues h o ((drops.head h).queue.subset ho), ?_⟩
  · rw [socket]
    refine (congrArg (fun x : Socket => { x with state := .tested }) disabled.socket).trans ?_
    rw [State.socket_modSocket_self, d.socket, if_pos rfl]
  · obtain ⟨y, at_k, tag, place, attempts⟩ := custody_record custody device
    obtain ⟨z, at_k', -, disposition⟩ := disabled.converts.part k _ device
    obtain rfl : y = z := Option.some.inj (at_k.symm.trans at_k')
    refine ⟨y, by rw [parts]; exact at_k, tag, place, attempts, disposition.imp id fun final => ⟨final.1, final.2.trans ?_⟩⟩
    exact congrArg Prod.fst (finalDisposition_congr d.binMap rfl)

/-! ## The count of test timeouts (R175) -/

theorem testTimeouts_decideResult (i : Fin 64) (code : Byte) (time : Nat) (s : State) :
    (decideResult i code time s).counters.testTimeouts = s.counters.testTimeouts := by
  have attempted : (recordAttempt i code time (cancelTimer (.watchdog i) s)).counters = s.counters := by
    unfold recordAttempt
    dsimp only
    split <;> rfl
  have raised (c : Prop) [Decidable c] (u : State) : (if c then raiseEvent .unmappedResult i u else u).counters = u.counters := by
    split
    · exact offLink_counters (offLink_raiseEvent _ _ _)
    · rfl
  unfold decideResult setDisposition
  split
  · rw [attempted]
  · dsimp only
    rw [raised]
    split <;> exact (congrArg Counters.testTimeouts attempted :)

theorem testTimeouts_noteFault (i : Fin 64) (kind : FaultKind) (s : State) :
    (noteFault i kind s).counters.testTimeouts = s.counters.testTimeouts := by
  rw [noteFault_eq]
  unfold checkThreshold
  dsimp only
  split
  · exact (steady_testTimeouts s.counters.testTimeouts).setPendingDisable i .fault rfl
  · rfl

theorem testTimeouts_noteOverrun (i : Fin 64) (code : Byte) (s : State) :
    (noteOverrun i code s).counters.testTimeouts = s.counters.testTimeouts := by
  unfold noteOverrun
  split
  · rw [testTimeouts_noteFault, testTimeouts_noteFault]
  · exact testTimeouts_noteFault i .timeout s

theorem testTimeouts_finishTest (i : Fin 64) (s : State) :
    (finishTest i s).counters.testTimeouts = s.counters.testTimeouts :=
  let c := steady_testTimeouts s.counters.testTimeouts
  c.updateGroupOf i (c.opportunityServing i (s := s.modSocket i fun x => { x with state := .tested }) rfl)

/-! ## The expiry (R65, R150) -/

/-- R63: a result cancels the watchdog, whose expiry has made it CLEAR already. -/
theorem decideResult_cancelled (i : Fin 64) (code : Byte) (time : Nat) (s : State) :
    decideResult i code time (cancelTimer (.watchdog i) s) = decideResult i code time s := by
  have twice : cancelTimer (.watchdog i) (cancelTimer (.watchdog i) s) = cancelTimer (.watchdog i) s := by
    simp [cancelTimer, State.setTimer]
  unfold decideResult
  rw [twice]

/-- R65: the state after a time-out, but for the event and its count. -/
def timedOut (i : Fin 64) (s : State) : State :=
  finishTest i (noteOverrun i s.lot.timeoutCode (decideResult i s.lot.timeoutCode s.lot.testLimit s))

theorem exec_watchdogExpiry (high : s.resetLow = false) (expired : s.timer (.watchdog i) = .expired) :
    exec (.watchdogExpiry i) s = .next (finish ((raiseEvent .siteTimeout i (timedOut i s)).modCounters fun c =>
      { c with testTimeouts := satSucc c.testTimeouts })) := by
  refine congrArg Host.Outcome.next ((takeExpiry_expired high expired).trans (congrArg finish ?_))
  show takeTimeout i (cancelTimer (.watchdog i) s) = _
  rw [takeTimeout_eq, decideResult_cancelled]
  rfl

/-- R65: whether or not the threshold is reached, the watchdog and the count of retests stay as the decision left them. -/
theorem Decided.timedOut_keeps
    (d : Decided i k r s.lot.timeoutCode s.lot.testLimit s (decideResult i s.lot.timeoutCode s.lot.testLimit s))
    (testing : s.sockets[i].state = .testing) : (timedOut i s).timer (.watchdog i) = .clear ∧
      (timedOut i s).counters.retests = (decideResult i s.lot.timeoutCode s.lot.testLimit s).counters.retests := by
  unfold timedOut
  generalize decideResult i s.lot.timeoutCode s.lot.testLimit s = v at d
  obtain ⟨-, -, -, retests, watchdog⟩ := finishTest_spec i (noteOverrun i s.lot.timeoutCode v)
  rw [retests, watchdog]
  by_cases reached : reachesThresholdBy (Machine.faultMark v s.lot.timeoutCode) i v
  · have disabled := noteOverrun_reached (by rw [d.socket, if_pos rfl]; exact testing) reached
    exact ⟨disabled.watchdog.trans d.watchdog, disabled.retests⟩
  · rw [noteOverrun_below reached]
    exact ⟨d.watchdog, rfl⟩

/-- Settles O22. -/
theorem watchdogExpiryTakesResult : Obligations.WatchdogExpiryTakesResult := by
  intro s i k r high expired testing held device x code tested d faults count reached
  have decided := decideResult_spec code s.lot.testLimit held device
  have mark : faultMark (decideResult i code s.lot.testLimit s) code = faultMark s code := decided.faultMark
  have reached_iff : reachesThresholdBy (faultMark (decideResult i code s.lot.testLimit s) code) i
      (decideResult i code s.lot.testLimit s) ↔ reached := by
    unfold reachesThresholdBy
    rw [mark, decided.lot, decided.socket, if_pos rfl, faultCount_overrun]
  have socket (y : Socket) : y.overrun (faultMark s code) = { y with
      faults := if faultMark s code then (y.faults.add .timeout).add .result else y.faults.add .timeout
      faultCount := if faultMark s code then min (y.faultCount + 2) 15 else min (y.faultCount + 1) 15 } := by
    rw [← faultCount_overrun]
    cases faultMark s code <;> rfl
  obtain ⟨watchdog, retests⟩ := decided.timedOut_keeps testing
  rw [decided.retests] at retests
  have run := exec_watchdogExpiry high expired
  have pends := raiseEvent_pends .siteTimeout i.val (timedOut i s)
  have off : (raiseEvent .siteTimeout i (timedOut i s)).offLink = (timedOut i s).offLink := offLink_raiseEvent _ _ _
  generalize raiseEvent .siteTimeout i (timedOut i s) = raised at run pends off
  refine ⟨_, run, ?_, ?_, ?_, pends, fun below => ?_, fun atLeast => ?_⟩
  · exact (timer_of_timers (offLink_timers off) _).trans watchdog
  · show satSucc raised.counters.testTimeouts = _
    rw [offLink_counters off, timedOut, testTimeouts_finishTest, testTimeouts_noteOverrun, testTimeouts_decideResult]
    rfl
  · exact (congrArg Counters.retests (offLink_counters off)).trans retests
  · have kept : timedOut i s = finishTest i ((decideResult i code s.lot.testLimit s).modSocket i fun y =>
        y.overrun (faultMark s code)) := by
      rw [← mark]
      exact congrArg (finishTest i) (noteOverrun_below (mt reached_iff.1 below))
    obtain ⟨at_i, at_k, parts, sockets⟩ := decided.finish_kept fun y => y.overrun (faultMark s code)
    rw [← kept] at at_i at_k parts sockets
    rw [← offLink_sockets off] at at_i sockets
    rw [← offLink_parts off] at at_k parts
    refine ⟨at_i.trans ?_, at_k, parts, sockets⟩
    rw [socket]
  · have disabled := noteOverrun_reached (code := code) (by rw [decided.socket, if_pos rfl]; exact testing)
      (reached_iff.2 atLeast)
    have custody : (noteOverrun i code (decideResult i code s.lot.testLimit s)).custody =
        (decideResult i code s.lot.testLimit s).custody := by
      unfold noteOverrun
      split
      · rw [custody_noteFault, custody_noteFault]
      · rw [custody_noteFault]
    obtain ⟨at_i, queues, y, at_k, rest⟩ := decided.finish_disabled disabled custody
    have whole : finishTest i (noteOverrun i code (decideResult i code s.lot.testLimit s)) = timedOut i s := rfl
    rw [whole] at at_i queues at_k
    rw [mark, socket, ← offLink_sockets off] at at_i
    refine ⟨at_i, fun h o ho => queues h o ?_, y, (congrArg (·[k]) (offLink_parts off)).trans at_k, rest⟩
    have same : raised.head h = (timedOut i s).head h := by
      unfold State.head
      rw [offLink_heads off]
    exact same ▸ ho

end Sys2Proof.Machine
end

section
/-! PROOFS. SOCKET ENABLE and SOCKET DISABLE: O54. -/

namespace Sys2Proof.Machine

variable {s t : State}

/-! ## A plan whose orders are all cancelled (R96, R127) -/

theorem heads_holeOf (o : Order) (s : State) : (holeOf o s).heads = s.heads := by
  unfold holeOf holePocket fillTray
  split
  · dsimp only
    split
    · exact (offLink_heads (offLink_raiseEvent _ _ _) :)
    · rfl
  · rfl

/-- R127: an order that is cancelled leaves its queue, and neither queue changes otherwise. -/
theorem queue_cancelPending_eq (g h : Head) (o : Order) (s : State) : ((cancelPending h o s).head g).queue =
    if g = h then (s.head h).queue.filter fun q => !(q.tag == o.tag) else (s.head g).queue := by
  have point (s : State) : (cancelPoint h o s).heads = s.heads := by
    unfold cancelPoint
    split <;> rfl
  have hole : (holeOf o (leaveQueue h o.tag (cancelPoint h o s))).head g = (leaveQueue h o.tag (cancelPoint h o s)).head g :=
    congrArg (PerHead.get · g) (heads_holeOf o _)
  have before : (cancelPoint h o s).head = s.head := funext fun k => congrArg (PerHead.get · k) (point s)
  unfold cancelPending
  rw [queue_opportunity, queue_endPlan, hole, leaveQueue, State.head_modHead, before]
  split
  · next e => rw [if_pos e.symm]
  · next e => rw [if_neg (Ne.symm e)]

theorem queue_cancelWhere_other {g h : Head} (other : g ≠ h) (test : Order → Bool) (s : State) :
    ((cancelWhere h test s).head g).queue = (s.head g).queue := by
  unfold cancelWhere
  generalize (s.head h).queue.filter (fun o => o.isPending && test o) = l
  induction l generalizing s with
  | nil => rfl
  | cons o l ih => exact (ih _).trans ((queue_cancelPending_eq g h o s).trans (if_neg other))

/-- R96: no socket is reserved by a plan that has ended. -/
theorem plan_dropPlan (p : Nat) (j : Fin 64) (s : State) : (dropPlan p s).sockets[j].plan ≠ some p := by
  unfold dropPlan
  dsimp only
  refine (steady_plan j (Q := (· ≠ some p)) nofun).opportunityBoth ?_
  dsimp only
  rw [Fin.getElem_fin, mapVec_getElem]
  dsimp only
  split
  · nofun
  · next other => exact other

/-- R96, R127: a plan ends with the last of its orders. -/
theorem cancelPending_ends {h : Head} {o : Order} {p : Nat} (carries : o.plan = some p)
    (last : ∀ q ∈ (s.head h).queue, q.plan = some p → q.tag = o.tag) (j : Fin 64) :
    (cancelPending h o s).sockets[j].plan ≠ some p := by
  have queue := queue_cancelPending_eq h h o s
  rw [if_pos rfl] at queue
  unfold cancelPending at queue ⊢
  rw [queue_opportunity, queue_endPlan] at queue
  generalize holeOf o (leaveQueue h o.tag (cancelPoint h o s)) = v at queue
  have ended : endPlan h o.plan v = dropPlan p v := by
    unfold endPlan
    rw [carries]
    refine if_neg fun rest => ?_
    obtain ⟨q, hq, plan⟩ := List.any_eq_true.1 rest
    rw [queue] at hq
    obtain ⟨member, apart⟩ := List.mem_filter.1 hq
    simp [last q member (beq_iff_eq.1 plan)] at apart
  rw [ended]
  exact (steady_plan j (Q := (· ≠ some p)) nofun).opportunity h (plan_dropPlan p j v)

/-- R96, R127: a plan ends when orders are cancelled among which are all that the queue holds of it. -/
theorem foldl_cancelPending_ends {h : Head} {p : Nat} (j : Fin 64) : ∀ (l : List Order) (s : State),
    (∀ q ∈ (s.head h).queue, q.plan = some p → q ∈ l) → (∃ o ∈ l, o.plan = some p) →
    (l.foldl (fun s o => cancelPending h o s) s).sockets[j].plan ≠ some p
  | [], _, _, ⟨_, member, _⟩ => absurd member List.not_mem_nil
  | o :: l, s, all, ⟨w, member, carries⟩ => by
    rw [List.foldl_cons]
    by_cases later : ∃ q ∈ l, q.plan = some p
    · refine foldl_cancelPending_ends j l _ (fun q hq plan => ?_) later
      rw [queue_cancelPending_eq, if_pos rfl] at hq
      obtain ⟨queued, apart⟩ := List.mem_filter.1 hq
      refine (List.mem_cons.1 (all q queued plan)).resolve_left fun e => ?_
      simp [e] at apart
    · have only (q : Order) (hq : q ∈ o :: l) (plan : q.plan = some p) : q = o :=
        (List.mem_cons.1 hq).resolve_right fun h => later ⟨q, h, plan⟩
      have first := cancelPending_ends (h := h) (only w member carries ▸ carries)
        (fun q hq plan => congrArg Order.tag (only q (all q hq plan) plan)) j
      exact foldl_keeps (P := fun t => t.sockets[j].plan ≠ some p)
        (fun _ o => (steady_plan j (Q := (· ≠ some p)) nofun).cancelPending h o) l first

theorem cancelWhere_ends {h : Head} {test : Order → Bool} {p : Nat}
    (all : ∀ q ∈ (s.head h).queue, q.plan = some p → q.isPending = true ∧ test q = true)
    (some_order : ∃ o ∈ (s.head h).queue, o.plan = some p) (j : Fin 64) :
    (cancelWhere h test s).sockets[j].plan ≠ some p := by
  have member {q : Order} (hq : q ∈ (s.head h).queue) (plan : q.plan = some p) :
      q ∈ (s.head h).queue.filter fun o => o.isPending && test o :=
    List.mem_filter.2 ⟨hq, Bool.and_eq_true_iff.2 (all q hq plan)⟩
  obtain ⟨o, ho, plan⟩ := some_order
  exact foldl_cancelPending_ends j _ s (fun q hq plan => member hq plan) ⟨o, member ho plan, plan⟩

/-- R71, R96: a plan whose orders are pending PLACEs into the socket ends when these are cancelled. -/
theorem cancelPlacesInto_ends {i : Fin 64} {p : Nat} (queued : ∃ h, ∃ o ∈ (s.head h).queue, o.plan = some p)
    (all : ∀ h, ∀ o ∈ (s.head h).queue, o.plan = some p →
      o.isPending = true ∧ o.action = .place ∧ o.location = some (.socket i)) (j : Fin 64) :
    (cancelPlacesInto i s).sockets[j].plan ≠ some p := by
  have meets (h : Head) (q : Order) (hq : q ∈ (s.head h).queue) (plan : q.plan = some p) :
      q.isPending = true ∧ (q.action == .place && q.location == some (.socket i)) = true := by
    obtain ⟨pending, place, into⟩ := all h q hq plan
    exact ⟨pending, by simp [place, into]⟩
  obtain ⟨h, some_order⟩ := queued
  unfold cancelPlacesInto
  cases h with
  | west =>
    exact (steady_plan j (Q := (· ≠ some p)) nofun).cancelWhere .east _ (cancelWhere_ends (meets .west) some_order j)
  | east =>
    have same := queue_cancelWhere_other (g := .east) (h := .west) nofun
      (fun o => o.action == .place && o.location == some (.socket i)) s
    refine cancelWhere_ends (fun q hq => ?_) ?_ j
    · rw [same] at hq
      exact meets .east q hq
    · rw [same]
      exact some_order

/-- R71: an EMPTY socket goes OFF at once when nothing reserves it, or a plan of pending PLACEs into it alone. -/
theorem setPendingDisable_free {i : Fin 64} (cause : DisableCause) (empty : s.sockets[i].state = .empty)
    (free : s.sockets[i].plan = none ∨ ∃ p, s.sockets[i].plan = some p ∧ (∃ h, ∃ o ∈ (s.head h).queue, o.plan = some p) ∧
      ∀ h, ∀ o ∈ (s.head h).queue, o.plan = some p →
        o.isPending = true ∧ o.action = .place ∧ o.location = some (.socket i)) :
    (setPendingDisable i cause s).sockets[i] = { s.sockets[i] with state := .off, plan := none, pendingDisable := none } := by
  obtain ⟨-, off, -⟩ | ⟨same, reserved, -⟩ := setPendingDisable_of_empty cause empty
  · exact off
  · obtain none' | ⟨p, reserves, queued, all⟩ := free
    · exact absurd none' reserved
    · let c := steady_plan i (Q := (· ≠ some p)) nofun
      have ended : (disabling i cause s).sockets[i].plan ≠ some p := c.updateGroupOf i (c.reexamine
        (cancelPlacesInto_ends (s := s.modSocket i fun x => { x with pendingDisable := some cause }) queued all i))
      exact absurd (same.trans reserves) ended

/-! ## SOCKET DISABLE (R73) -/

theorem placePending_iff {i : Fin 64} : placePending s i = true ↔ ∃ p, s.sockets[i].plan = some p ∧
    ∃ h, ∃ o ∈ (s.head h).queue, o.plan = some p ∧ o.action = .place ∧ o.location = some (.socket i) ∧
      (o.state = .pending ∨ o.state = .waitingZone) := by
  have both (Q : Order → Prop) : (∃ h, ∃ o ∈ (s.head h).queue, Q o) ↔
      (∃ o ∈ s.heads.west.queue, Q o) ∨ ∃ o ∈ s.heads.east.queue, Q o :=
    ⟨fun ⟨h, found⟩ => by cases h <;> [exact .inl found; exact .inr found],
      fun found => found.elim (⟨.west, ·⟩) (⟨.east, ·⟩)⟩
  unfold placePending
  cases s.sockets[i].plan with
  | none => simp
  | some p => simp [both, Order.isPending, and_assoc]

theorem disableAtOnce_iff {i : Fin 64} : disableAtOnce s i = true ↔ s.sockets[i].state = .empty ∧
    (s.sockets[i].plan = none ∨ ∃ p, s.sockets[i].plan = some p ∧
      ∃ h, ∃ o ∈ (s.head h).queue, o.plan = some p ∧ o.action = .place ∧ o.location = some (.socket i) ∧
        (o.state = .pending ∨ o.state = .waitingZone)) := by
  unfold disableAtOnce
  rw [Bool.and_eq_true, Bool.or_eq_true, placePending_iff, beq_iff_eq, Option.isNone_iff_eq_none]

theorem ticketFor_eq (code : Byte) (subject : Subject) (s : State) : ticketFor code subject s =
    (s.completions.find? fun c => c.code == code && c.subject == subject).map Completion.ticket := rfl

theorem completionsFull_eq_false (room : s.completions.length < 4) : completionsFull s = false :=
  decide_eq_false (Nat.not_le_of_lt room)

/-- R73: a disable that does not end at once. -/
theorem disableSocket_waits {r : Request} {i : Fin 64} (inService : s.sockets[i].state ≠ .off)
    (waits : disableAtOnce s i = false) : disableSocket r i s =
    match ticketFor codeSocketDisable (.socket i) s with
    | some t => respondTicket r t s
    | none =>
      if completionsFull s then respondListFull r s
      else finish (respondTicket r (newTicket s) (requestDisable i (takeTicket codeSocketDisable (.socket i) s))) := by
  unfold disableSocket
  rw [if_neg inService, waits]
  rfl

/-- R71, R73: pending-disable set by a request on a socket that is not EMPTY. -/
theorem requestDisable_enabled {i : Fin 64} (enabled : s.sockets[i].pendingDisable = none)
    (full : s.sockets[i].state ≠ .empty) : requestDisable i s = disabling i .request s := by
  unfold requestDisable
  rw [if_neg (by rw [enabled]; decide)]
  exact setPendingDisable_of_not_empty .request full

theorem completions_disabling (i : Fin 64) (cause : DisableCause) (s : State) :
    (disabling i cause s).completions = s.completions ∧ (disabling i cause s).ticketCounter = s.ticketCounter := by
  have c := quiet_completions s.completions s.ticketCounter
  have flagged := c.cancelPlacesInto i (s := s.modSocket i fun x => { x with pendingDisable := some cause }) ⟨rfl, rfl⟩
  exact c.updateGroupOf i (c.reexamine flagged)

theorem custody_disabling (i : Fin 64) (cause : DisableCause) (s : State) : (disabling i cause s).custody = s.custody := by
  unfold disabling barring
  rw [custody_updateGroupOf, custody_reexamine, custody_cancelPlacesInto]
  exact custody_modSocket _ _ (fun _ => by rfl) _

/-! ## The requests (R72, R73) -/

theorem geometry_isSome_iff {i : Fin 64} : (s.geometry i).isSome = true ↔ ∃ g, s.siteGeometry[i] = some (some g) := by
  rw [Option.isSome_iff_exists]
  exact exists_congr fun g => Option.join_eq_some_iff

/-- R72: an OFF socket with geometry is EMPTY. -/
theorem enableSocket_placed {r : Request} {i : Fin 64} (off : s.sockets[i].state = .off)
    (enabled : s.sockets[i].pendingDisable = none) (placed : ∃ g, s.siteGeometry[i] = some (some g)) :
    enableSocket r i s = respondOk r [] (opportunityServing i (s.modSocket i fun y => { y with state := .empty })) := by
  unfold enableSocket
  rw [if_pos off, if_pos (geometry_isSome_iff.2 placed), enterEmpty_of_enabled enabled]

theorem enableSocket_unplaced {r : Request} {i : Fin 64} (off : s.sockets[i].state = .off)
    (unplaced : ∀ g, s.siteGeometry[i] ≠ some (some g)) : enableSocket r i s = respond r .state s := by
  unfold enableSocket
  rw [if_pos off, if_neg fun present => (geometry_isSome_iff.1 present).elim unplaced]

/-- R72: a socket in service is left as it is. -/
theorem enableSocket_inService {r : Request} {i : Fin 64} (inService : s.sockets[i].state ≠ .off) :
    enableSocket r i s = if s.sockets[i].pendingDisable = none then respondOk r [] s else respond r .busy s := by
  unfold enableSocket
  rw [if_neg inService]
  cases s.sockets[i].pendingDisable <;> rfl

/-- R71, R73: a socket that is disabled at once. -/
theorem disableSocket_atOnce {r : Request} {i : Fin 64} (empty : s.sockets[i].state = .empty)
    (free : s.sockets[i].plan = none ∨ ∃ p, s.sockets[i].plan = some p ∧ (∃ h, ∃ o ∈ (s.head h).queue, o.plan = some p) ∧
      ∀ h, ∀ o ∈ (s.head h).queue, o.plan = some p →
        o.action = .place ∧ o.location = some (.socket i) ∧ (o.state = .pending ∨ o.state = .waitingZone)) :
    let u := setPendingDisable i .request s
    disableSocket r i s = finish (respondOk r [] u) ∧
      u.sockets[i] = { s.sockets[i] with state := .off, plan := none, pendingDisable := none } := by
  have inService : s.sockets[i].state ≠ .off := by
    rw [empty]
    exact SocketState.noConfusion
  have atOnce : disableAtOnce s i = true := disableAtOnce_iff.2 ⟨empty, free.imp id fun ⟨p, plan, ⟨h, o, ho, carries⟩, all⟩ =>
    ⟨p, plan, h, o, ho, carries, all h o ho carries⟩⟩
  constructor
  · unfold disableSocket
    rw [if_neg inService, if_pos atOnce]
  · refine setPendingDisable_free .request empty (free.imp id ?_)
    refine fun ⟨p, plan, queued, all⟩ => ⟨p, plan, queued, fun h o ho carries => ?_⟩
    obtain ⟨place, into, pending⟩ := all h o ho carries
    exact ⟨(isPending_iff o).2 pending, place, into⟩

/-- R71, R73: pending-disable set by a request on a socket that is neither EMPTY nor flagged before. -/
theorem requestDisable_spec {i : Fin 64} (enabled : s.sockets[i].pendingDisable = none)
    (full : s.sockets[i].state ≠ .empty) :
    let u := requestDisable i s
    u.completions = s.completions ∧ u.ticketCounter = s.ticketCounter ∧
      u.sockets[i].pendingDisable = some .request ∧
      (∀ j : Fin 64, j ≠ i → s.sockets[j].state ≠ .ready → u.sockets[j].state = s.sockets[j].state) ∧
      (s.sockets[i].state ≠ .ready → u.sockets[i].state = s.sockets[i].state) ∧
      (∀ h, ∀ o ∈ (u.head h).queue, o.isPending = true → ¬ (o.action = .place ∧ o.location = some (.socket i))) ∧
      ∀ p, u.recordAt p = s.recordAt p := by
  obtain ⟨list, counter⟩ := completions_disabling i .request s
  obtain ⟨state, plan, begun, socket⟩ := socket_disabling i .request s
  rw [requestDisable_enabled enabled full]
  refine ⟨list, counter, by rw [socket], fun j other notReady => ?_, fun notReady => ?_, fun h => queue_disabling i .request h s,
    custody_recordAt (custody_disabling i .request s)⟩
  · obtain ⟨_, same⟩ := socket_disabling_other .request other notReady
    rw [same]
  · rw [socket]
    exact begun.resolve_right fun h => notReady h.1

/-- Settles O54. -/
theorem socketEnableDisable : Obligations.SocketEnableDisable := by
  intro s r heard length outside
  have enable := exec_socketEnable heard length outside
  have disable := exec_socketDisable heard length outside
  have clear := exec_socketClear heard length outside
  refine ⟨fun above c hc => ?_, ?_⟩
  · simp only [List.mem_cons, List.not_mem_nil, or_false] at hc
    obtain rfl | rfl | rfl := hc
    · rw [enable, withSocket_outside _ above]
    · rw [disable, withSocket_outside _ above]
    · rw [clear, withSocket_outside _ above]
  intro i names x fresh held
  rw [enable, disable, withSocket_names _ names, withSocket_names _ names]
  refine ⟨fun off enabled placed => by rw [enableSocket_placed off enabled placed],
    fun off unplaced => by rw [enableSocket_unplaced off unplaced],
    fun inService enabled => by rw [enableSocket_inService inService, if_pos enabled],
    fun inService flagged => by rw [enableSocket_inService inService, if_neg flagged],
    fun off => congrArg Host.Outcome.next (if_pos off), fun empty free => ?_, ?_⟩
  · obtain ⟨answer, socket⟩ := disableSocket_atOnce (r := r) empty free
    exact ⟨setPendingDisable i .request s, congrArg Host.Outcome.next answer, socket,
      fun h => queue_setPendingDisable i .request h s, custody_recordAt (custody_setPendingDisable i .request s)⟩
  · intro atOnce inService late
    have waits : disableAtOnce s i = false := Bool.eq_false_iff.2 fun h => late (disableAtOnce_iff.1 h)
    have ticket : ticketFor codeSocketDisable (.socket i) s = held.map Completion.ticket := ticketFor_eq _ _ s
    rw [disableSocket_waits inService waits, ticket]
    refine ⟨fun c found => by rw [found]; rfl, fun none' full => ?_, fun none' room notEmpty => ?_⟩
    · rw [none']
      exact congrArg Host.Outcome.next (if_pos (decide_eq_true full))
    · rw [none']
      have space := completionsFull_eq_false room
      obtain ⟨low, high, new⟩ := newTicket_spec space
      let v := takeTicket codeSocketDisable (.socket i) s
      refine ⟨requestDisable i v, newTicket s, ?_, ⟨low, high, fun c hc e => new (e ▸ List.mem_map_of_mem hc)⟩, ?_⟩
      · dsimp only [Option.map_none]
        rw [space, if_neg Bool.false_ne_true]
      · by_cases enabled : x.pendingDisable = none
        · obtain ⟨list, counter, set⟩ := requestDisable_spec (s := v) enabled notEmpty
          exact ⟨list, counter, fun flagged => absurd enabled flagged, fun _ => set⟩
        · have kept : requestDisable i v = v := if_pos (Option.isSome_iff_ne_none.2 enabled)
          rw [kept]
          exact ⟨rfl, rfl, fun _ => rfl, fun clear => absurd clear enabled⟩

end Sys2Proof.Machine
end

section
/-! PROOFS. The OUTSTANDING orders of a head go back to its queue (R126), and what that does to their sockets. -/

namespace Sys2Proof.Machine

variable {s t : State}

/-! ## The socket of an order that goes back (R126, R71) -/

/-- R126: a socket goes back as the grant of an order had moved it. -/
def Socket.sentBack (a : Action) (x : Socket) : Socket :=
  match a, x.state with
  | .pick, .emptying => { x with state := .tested }
  | .place, .filling => { x with state := .empty }
  | _, _ => x

/-- R126, R71: the same, and an EMPTY socket with pending-disable goes OFF. -/
def Socket.reverted (a : Action) (x : Socket) : Socket :=
  if a = .place ∧ x.pendingDisable ≠ none ∧ (x.sentBack a).state = .empty then
    { x.sentBack a with state := .off, pendingDisable := none }
  else x.sentBack a

theorem Socket.sentBack_pendingDisable (a : Action) (x : Socket) : (x.sentBack a).pendingDisable = x.pendingDisable := by
  unfold Socket.sentBack
  split <;> rfl

theorem Socket.sentBack_tested {x : Socket} (emptying : x.state = .emptying) :
    x.sentBack .pick = { x with state := .tested } := by
  unfold Socket.sentBack
  rw [emptying]

theorem Socket.sentBack_empty {x : Socket} (filling : x.state = .filling) :
    x.sentBack .place = { x with state := .empty } := by
  unfold Socket.sentBack
  rw [filling]

theorem Socket.sentBack_same {a : Action} {x : Socket} (pick : a = .pick → x.state ≠ .emptying)
    (place : a = .place → x.state ≠ .filling) : x.sentBack a = x := by
  unfold Socket.sentBack
  split
  · next emptying => exact absurd emptying (pick rfl)
  · next filling => exact absurd filling (place rfl)
  · rfl

/-- R126: the socket of an order goes back, before pending-disable takes its effect. -/
def sentBack (o : Order) (s : State) : State :=
  match o.location with
  | some (.socket i) => s.modSocket i (Socket.sentBack o.action)
  | _ => s

/-- R71: a PLACE into a socket with pending-disable is cancelled with every other pending one, and the socket goes OFF when
it is EMPTY. -/
def placeBarred (o : Order) (s : State) : State :=
  match o.action, o.location with
  | .place, some (.socket i) =>
    if s.sockets[i].pendingDisable.isSome then
      if (cancelPlacesInto i s).sockets[i].state = .empty then goOff i (cancelPlacesInto i s) else cancelPlacesInto i s
    else s
  | _, _ => s

theorem State.modSocket_of_same {i : Fin 64} {f : Socket → Socket} (same : f s.sockets[i] = s.sockets[i]) :
    s.modSocket i f = s := by
  have kept : s.sockets.set i s.sockets[i] = s.sockets := Vector.set_getElem_self _
  unfold State.modSocket
  rw [same]
  rw [kept]

theorem State.modSocket_congr {i : Fin 64} {f g : Socket → Socket} (same : f s.sockets[i] = g s.sockets[i]) :
    s.modSocket i f = s.modSocket i g := by
  unfold State.modSocket
  rw [same]

theorem sentBack_at {o : Order} {i : Fin 64} (at_i : o.location = some (.socket i)) (s : State) :
    sentBack o s = s.modSocket i (Socket.sentBack o.action) := by
  unfold sentBack
  rw [at_i]

theorem placeBarred_at {o : Order} {i : Fin 64} (place : o.action = .place) (at_i : o.location = some (.socket i))
    (s : State) : placeBarred o s =
      if s.sockets[i].pendingDisable.isSome then
        if (cancelPlacesInto i s).sockets[i].state = .empty then goOff i (cancelPlacesInto i s) else cancelPlacesInto i s
      else s := by
  unfold placeBarred
  rw [place, at_i]

theorem placeBarred_other {o : Order} (other : ∀ i, o.action = .place → o.location ≠ some (.socket i)) (s : State) :
    placeBarred o s = s := by
  unfold placeBarred
  split
  · next i place at_i => exact absurd at_i (other i place)
  · rfl

/-- R97: an entry into EMPTY or TESTED that a return brings about is an opportunity. -/
theorem sentBack_marks {i : Fin 64} {a : Action} {old new : SocketState}
    (moved : s.sockets[i].state = old → s.sockets[i].sentBack a = { s.sockets[i] with state := new })
    (still : s.sockets[i].state ≠ old → s.sockets[i].sentBack a = s.sockets[i]) : ∃ west east,
    (if s.sockets[i].state = old then opportunityServing i (s.modSocket i fun x => { x with state := new }) else s) =
      (s.modSocket i (Socket.sentBack a)).withMarks west east := by
  split
  · next due =>
    obtain ⟨west, east, marks⟩ := opportunityServing_marks i (s.modSocket i fun x => { x with state := new })
    refine ⟨west, east, ?_⟩
    rw [marks, State.modSocket_congr (g := Socket.sentBack a) (moved due).symm]
  · next other =>
    refine ⟨s.heads.west.passDue, s.heads.east.passDue, ?_⟩
    rw [State.modSocket_of_same (still other)]
    rfl

theorem revertSocket_eq (o : Order) (s : State) :
    ∃ west east, revertSocket o s = placeBarred o ((sentBack o s).withMarks west east) := by
  unfold revertSocket
  split
  · next i pick at_i =>
    obtain ⟨west, east, marks⟩ := sentBack_marks (s := s) (i := i) (a := .pick) (old := .emptying) (new := .tested)
      Socket.sentBack_tested (fun still => Socket.sentBack_same (fun _ => still) nofun)
    refine ⟨west, east, ?_⟩
    rw [sentBack_at at_i, pick, placeBarred_other fun i place => by rw [pick] at place; cases place]
    exact marks
  · next i place at_i =>
    obtain ⟨west, east, marks⟩ := sentBack_marks (s := s) (i := i) (a := .place) (old := .filling) (new := .empty)
      Socket.sentBack_empty (fun still => Socket.sentBack_same nofun (fun _ => still))
    refine ⟨west, east, ?_⟩
    rw [sentBack_at at_i, placeBarred_at place at_i, place, ← marks]
  · next pick place =>
    refine ⟨s.heads.west.passDue, s.heads.east.passDue, ?_⟩
    rw [placeBarred_other fun i act at_i => place i act at_i]
    unfold sentBack
    split
    · next i at_i =>
      rw [State.modSocket_of_same (Socket.sentBack_same (fun act => absurd at_i (pick i act))
        (fun act => absurd at_i (place i act)))]
      rfl
    · rfl

theorem socket_sentBack (o : Order) (j : Fin 64) (s : State) : (sentBack o s).sockets[j] =
    if o.location = some (.socket j) then s.sockets[j].sentBack o.action else s.sockets[j] := by
  unfold sentBack
  split
  · next i at_i =>
    rw [State.socket_modSocket, at_i]
    simp only [Option.some.injEq, Location.socket.injEq]
    split
    · next e => rw [e]
    · rfl
  · next other => exact (if_neg (other j)).symm

theorem drops_withMarks (west east : Bool) (s : State) : Drops s (s.withMarks west east) := by
  refine ⟨fun h => ?_, rfl, rfl, fun _ => ⟨rfl, rfl, rfl⟩⟩
  cases h <;> exact HeadDrops.same rfl rfl

theorem drops_sentBack (o : Order) (s : State) : Drops s (sentBack o s) := by
  unfold sentBack
  split
  · exact drops_modSocket _ _ _
  · exact .refl s

theorem drops_placeBarred (o : Order) (s : State) : Drops s (placeBarred o s) := by
  unfold placeBarred
  split
  · split
    · split
      · exact (drops_cancelPlacesInto _ _).trans (drops_goOff _ _)
      · exact drops_cancelPlacesInto _ _
    · exact .refl s
  · exact .refl s

theorem drops_revertSocket (o : Order) (s : State) : Drops s (revertSocket o s) := by
  obtain ⟨west, east, reverted⟩ := revertSocket_eq o s
  rw [reverted]
  exact ((drops_sentBack o s).trans (drops_withMarks west east _)).trans (drops_placeBarred o _)

/-- R126: without pending-disable a return changes the socket's state and marks an opportunity alone. -/
theorem revertSocket_enabled {o : Order} (enabled : ∀ i, o.location = some (.socket i) → s.sockets[i].pendingDisable = none) :
    ∃ west east, revertSocket o s = (sentBack o s).withMarks west east := by
  obtain ⟨west, east, reverted⟩ := revertSocket_eq o s
  refine ⟨west, east, reverted.trans ?_⟩
  unfold placeBarred
  split
  · next i _ at_i =>
    refine if_neg fun due => ?_
    have flag : (sentBack o s).sockets[i].pendingDisable = none := by
      rw [socket_sentBack, if_pos at_i, Socket.sentBack_pendingDisable, enabled i at_i]
    exact Option.isSome_iff_ne_none.1 due flag
  · rfl

theorem socket_revertSocket_enabled {o : Order}
    (enabled : ∀ i, o.location = some (.socket i) → s.sockets[i].pendingDisable = none) (j : Fin 64) :
    (revertSocket o s).sockets[j] =
      if o.location = some (.socket j) then s.sockets[j].sentBack o.action else s.sockets[j] := by
  obtain ⟨west, east, reverted⟩ := revertSocket_enabled enabled
  rw [reverted]
  exact socket_sentBack o j s

theorem socket_cancelPlacesInto (i j : Fin 64) (s : State) : ∃ plan,
    (cancelPlacesInto i s).sockets[j] = { s.sockets[j] with plan := plan } := by
  have view : (cancelPlacesInto i s).benchView = s.benchView := by
    simp only [cancelPlacesInto, benchView_cancelWhere]
  exact ⟨_, eq_of_unplanned (benchView_socket view j)⟩

/-- R71: what a returned PLACE into a socket with pending-disable leaves of that socket. -/
theorem socket_placeBarred {o : Order} {i : Fin 64} (place : o.action = .place) (at_i : o.location = some (.socket i))
    (s : State) : ∃ plan, (placeBarred o s).sockets[i] =
      if s.sockets[i].pendingDisable ≠ none ∧ s.sockets[i].state = .empty then
        { s.sockets[i] with state := .off, plan := plan, pendingDisable := none }
      else { s.sockets[i] with plan := plan } := by
  obtain ⟨plan, cancelled⟩ := socket_cancelPlacesInto i i s
  obtain ⟨left, off⟩ := socket_goOff i (cancelPlacesInto i s)
  have state : (cancelPlacesInto i s).sockets[i].state = s.sockets[i].state := by rw [cancelled]
  rw [placeBarred_at place at_i, state]
  by_cases due : s.sockets[i].pendingDisable = none
  · refine ⟨s.sockets[i].plan, ?_⟩
    rw [if_neg fun e => Option.isSome_iff_ne_none.1 e due, if_neg fun e => e.1 due]
  · rw [if_pos (Option.isSome_iff_ne_none.2 due)]
    by_cases empty : s.sockets[i].state = .empty
    · rw [if_pos empty, off, cancelled]
      exact ⟨left, (if_pos ⟨due, empty⟩).symm⟩
    · rw [if_neg empty, cancelled]
      exact ⟨plan, (if_neg fun e => empty e.2).symm⟩

/-- R71: the sockets of other orders that are not READY change in their plans at most. -/
theorem socket_placeBarred_other {o : Order} {j : Fin 64} (other : o.action = .place → o.location ≠ some (.socket j))
    (notReady : s.sockets[j].state ≠ .ready) : ∃ plan, (placeBarred o s).sockets[j] = { s.sockets[j] with plan := plan } := by
  unfold placeBarred
  split
  · next i place at_i =>
    have apart : j ≠ i := fun e => other place (e ▸ at_i)
    obtain ⟨plan, cancelled⟩ := socket_cancelPlacesInto i j s
    split
    · split
      · obtain ⟨left, off⟩ := socket_goOff_other (s := cancelPlacesInto i s) apart (by rw [cancelled]; exact notReady)
        refine ⟨left, off.trans ?_⟩
        rw [cancelled]
      · exact ⟨plan, cancelled⟩
    · exact ⟨s.sockets[j].plan, rfl⟩
  · exact ⟨s.sockets[j].plan, rfl⟩

/-- R126, R71: what the return of an order leaves of its socket, but for the plan. -/
theorem socket_revertSocket {o : Order} {i : Fin 64} (at_i : o.location = some (.socket i)) : ∃ plan,
    (revertSocket o s).sockets[i] = { s.sockets[i].reverted o.action with plan := plan } := by
  obtain ⟨west, east, reverted⟩ := revertSocket_eq o s
  have back : ((sentBack o s).withMarks west east).sockets[i] = s.sockets[i].sentBack o.action :=
    (socket_sentBack o i s).trans (if_pos at_i)
  rw [reverted]
  unfold Socket.reverted
  by_cases place : o.action = .place
  · obtain ⟨plan, barred⟩ := socket_placeBarred place at_i ((sentBack o s).withMarks west east)
    rw [back, Socket.sentBack_pendingDisable] at barred
    refine ⟨plan, barred.trans ?_⟩
    split
    · next off => rw [if_pos ⟨place, off⟩]
    · next stays => rw [if_neg fun off => stays off.2]
  · rw [placeBarred_other fun _ act => absurd act place, back, if_neg fun off => place off.1]
    exact ⟨_, rfl⟩

theorem socket_revertSocket_other {o : Order} {j : Fin 64} (other : o.location ≠ some (.socket j))
    (notReady : s.sockets[j].state ≠ .ready) : ∃ plan, (revertSocket o s).sockets[j] = { s.sockets[j] with plan := plan } := by
  obtain ⟨west, east, reverted⟩ := revertSocket_eq o s
  have back : ((sentBack o s).withMarks west east).sockets[j] = s.sockets[j] := (socket_sentBack o j s).trans (if_neg other)
  rw [reverted]
  obtain ⟨plan, barred⟩ := socket_placeBarred_other (s := (sentBack o s).withMarks west east) (o := o) (fun _ => other)
    (by rw [back]; exact notReady)
  exact ⟨plan, barred.trans (by rw [back])⟩

end Sys2Proof.Machine
end

section
/-! PROOFS. The head whose OUTSTANDING orders go back (R126, R137), and a first MISS or STUCK. -/

namespace Sys2Proof.Machine

variable {s t : State}

/-! ## Steps of which one turns a state -/

/-- A fold that meets an element which turns one property into another, while the others keep the first. -/
theorem foldl_turns {α : Type} {f : State → α → State} {before after : State → Prop} {hit : α → Prop}
    (waits : ∀ s a, before s → ¬ hit a → before (f s a)) (turns : ∀ s a, before s → hit a → after (f s a))
    (stays : ∀ s a, after s → after (f s a)) :
    ∀ (l : List α) {s : State}, before s → (∃ a ∈ l, hit a) → after (l.foldl f s)
  | [], _, _, ⟨_, member, _⟩ => absurd member List.not_mem_nil
  | a :: l, s, hs, ⟨b, member, hits⟩ => by
    by_cases now : hit a
    · exact foldl_keeps stays l (turns s a hs now)
    · obtain rfl | later := List.mem_cons.1 member
      · exact absurd hits now
      · exact foldl_turns waits turns stays l (waits s a hs now) ⟨b, later, hits⟩

/-! ## The returned orders (R126) -/

/-- R126: an OUTSTANDING order becomes PENDING, and the failed one has been tried. -/
def Order.returned (failed : Option Nat) (o : Order) : Order :=
  if o.state = .outstanding then { o with state := .pending, retry := if some o.tag = failed then 1 else o.retry } else o

theorem Order.returned_state (failed : Option Nat) (o : Order) : (o.returned failed).state ≠ .outstanding := by
  unfold Order.returned
  split
  · exact OrderState.noConfusion
  · assumption

theorem Order.returned_tag (failed : Option Nat) (o : Order) : (o.returned failed).tag = o.tag := by
  unfold Order.returned
  split <;> rfl

/-- R126: the queue has its orders back. -/
def requeued (h : Head) (failed : Option Nat) (s : State) : State :=
  s.modHead h fun x => { x with queue := x.queue.map (Order.returned failed) }

/-- R126: the sockets of the returned orders have gone back as well. -/
def givenBack (h : Head) (failed : Option Nat) (s : State) : State :=
  ((s.head h).queue.filter fun o => o.state == .outstanding).foldl (fun s o => revertSocket o s) (requeued h failed s)

theorem returnForRetry_eq (h : Head) (failed : Option Nat) (s : State) : returnForRetry h failed s =
    grantPoint h (opportunity h (recomputeHoldings h (cancelTimer (.order h) (givenBack h failed s)))) := rfl

theorem drops_givenBack (h : Head) (failed : Option Nat) (s : State) :
    Drops (requeued h failed s) (givenBack h failed s) :=
  drops_foldl (fun s o => drops_revertSocket o s) _ _

theorem sockets_returnForRetry (h : Head) (failed : Option Nat) (s : State) :
    (returnForRetry h failed s).sockets = (givenBack h failed s).sockets := by
  obtain ⟨west, east, marks⟩ := opportunity_eq h (recomputeHoldings h (cancelTimer (.order h) (givenBack h failed s)))
  rw [returnForRetry_eq, marks]
  exact (tellOther_sockets _ _ _).trans rfl

theorem queue_returnForRetry (g h : Head) (failed : Option Nat) (s : State) :
    ((returnForRetry h failed s).head g).queue = ((givenBack h failed s).head g).queue := by
  have held : ((recomputeHoldings h (cancelTimer (.order h) (givenBack h failed s))).head g).queue =
      ((givenBack h failed s).head g).queue := by
    unfold recomputeHoldings State.head
    rw [tellOther_heads]
    cases g <;> cases h <;> rfl
  exact (queue_opportunity h g _).trans held

theorem timer_returnForRetry (h : Head) (failed : Option Nat) (s : State) :
    (returnForRetry h failed s).timer (.order h) = .clear := by
  have same : (returnForRetry h failed s).timers = (cancelTimer (.order h) (givenBack h failed s)).timers :=
    (timers_opportunity h _).trans ((tellOther_timers _ _ _).trans rfl)
  exact (timer_of_timers same _).trans ((timer_cancelTimer _ _ _).trans (if_pos rfl))

/-- R137: without OUTSTANDING orders a head holds its base zone alone. -/
theorem holdingsFrom_of_none (base : Nat) {queue : List Order} (none' : ∀ o ∈ queue, o.state ≠ .outstanding) :
    holdingsFrom base queue = ⟨base, base⟩ := by
  unfold holdingsFrom
  refine List.foldlRecOn (motive := fun acc => acc = (⟨base, base⟩ : Span)) queue _ rfl fun acc same o ho => ?_
  rw [if_neg (none' o ho)]
  exact same

/-- R126, R137: what the return of its orders leaves of a head. -/
structure Returned (failed : Option Nat) (x y : HeadRecord) : Prop where
  queue : y.queue.Sublist (x.queue.map (Order.returned failed))
  state : y.state = x.state
  known : y.known = x.known
  base : y.base = x.base
  alone : ∀ b, x.state = .ready → x.base = some b → y.holdings = ⟨b, b⟩

theorem Returned.not_outstanding {failed : Option Nat} {x y : HeadRecord} (r : Returned failed x y) :
    ∀ o ∈ y.queue, o.state ≠ .outstanding := fun o ho => by
  obtain ⟨q, -, rfl⟩ := List.mem_map.1 (r.queue.subset ho)
  exact Order.returned_state failed q

theorem returned_returnForRetry (h : Head) (failed : Option Nat) (s : State) :
    Returned failed (s.head h) ((returnForRetry h failed s).head h) := by
  have back := (drops_givenBack h failed s).head h
  have after := ((drops_opportunity h _).trans (drops_grantPoint h _)).head h
    (s := recomputeHoldings h (cancelTimer (.order h) (givenBack h failed s)))
  have cancelled : (cancelTimer (.order h) (givenBack h failed s)).head h = (givenBack h failed s).head h := rfl
  rw [requeued, State.head_modHead_self] at back
  rw [head_recomputeHoldings, cancelled, ← returnForRetry_eq] at after
  generalize (givenBack h failed s).head h = m at back after
  generalize (returnForRetry h failed s).head h = y at after
  have queue := after.queue.trans back.queue
  have waiting : ∀ o ∈ m.queue, o.state ≠ .outstanding := fun o ho => by
    obtain ⟨q, -, rfl⟩ := List.mem_map.1 (back.queue.subset ho)
    exact Order.returned_state failed q
  have state : m.state = (s.head h).state := by rw [back.rest]
  have base : m.base = (s.head h).base := by rw [back.rest]
  have known : m.known = (s.head h).known := by rw [back.rest]
  refine ⟨queue, ?_, ?_, ?_, fun b ready at_b => ?_⟩
  · rw [after.rest]
    exact state
  · rw [after.rest]
    exact known
  · rw [after.rest]
    exact base
  · rw [after.rest]
    show newHoldings m = ⟨b, b⟩
    rw [newHoldings, state, base, ready, at_b]
    exact holdingsFrom_of_none b waiting

/-! ## Sockets without pending-disable (R126) -/

/-- No socket has pending-disable set. -/
def State.enabled (s : State) : Prop := ∀ i : Fin 64, s.sockets[i].pendingDisable = none

theorem enabled_revertSocket (o : Order) (enabled : s.enabled) : (revertSocket o s).enabled := fun j => by
  rw [socket_revertSocket_enabled fun i _ => enabled i]
  split
  · rw [Socket.sentBack_pendingDisable]
    exact enabled j
  · exact enabled j

theorem queue_revertSocket_enabled (o : Order) (g : Head) (enabled : s.enabled) :
    ((revertSocket o s).head g).queue = (s.head g).queue := by
  obtain ⟨west, east, reverted⟩ := revertSocket_enabled (o := o) fun i _ => enabled i
  have back : (sentBack o s).heads = s.heads := by
    unfold sentBack
    split <;> rfl
  rw [reverted]
  have marked : (((sentBack o s).withMarks west east).head g).queue = ((sentBack o s).head g).queue := by cases g <;> rfl
  rw [marked, State.head, back]
  rfl

/-- R126: without pending-disable every OUTSTANDING order goes back in its place. -/
theorem queue_returnForRetry_enabled (h : Head) (failed : Option Nat) (enabled : s.enabled) :
    ((returnForRetry h failed s).head h).queue = (s.head h).queue.map (Order.returned failed) := by
  have start : ((requeued h failed s).head h).queue = (s.head h).queue.map (Order.returned failed) := by
    rw [requeued, State.head_modHead_self]
  rw [queue_returnForRetry]
  exact (foldl_keeps (s := requeued h failed s) (P := fun v => v.enabled ∧ (v.head h).queue = (s.head h).queue.map (Order.returned failed))
    (fun v o hv => ⟨enabled_revertSocket o hv.1, (queue_revertSocket_enabled o h hv.1).trans hv.2⟩) _ ⟨enabled, start⟩).2

/-- A return that sends a socket back by none of its orders leaves it. -/
theorem socket_returnForRetry_same (h : Head) (failed : Option Nat) (enabled : s.enabled) {i : Fin 64}
    (same : ∀ a, s.sockets[i].sentBack a = s.sockets[i]) : (returnForRetry h failed s).sockets[i] = s.sockets[i] := by
  rw [sockets_returnForRetry]
  refine (foldl_keeps (s := requeued h failed s) (P := fun v => v.enabled ∧ v.sockets[i] = s.sockets[i]) (fun v o hv => ?_) _ ⟨enabled, rfl⟩).2
  refine ⟨enabled_revertSocket o hv.1, ?_⟩
  rw [socket_revertSocket_enabled fun i _ => hv.1 i, hv.2, same, ite_self]

/-- R126: a socket that the orders of one action send back is sent back by the first of them. -/
theorem socket_returnForRetry_sent (h : Head) (failed : Option Nat) (enabled : s.enabled) {i : Fin 64} {a : Action}
    {y : Socket} (sent : s.sockets[i].sentBack a = y) (waits : ∀ b, b ≠ a → s.sockets[i].sentBack b = s.sockets[i])
    (stays : ∀ b, y.sentBack b = y)
    (order : ∃ q ∈ (s.head h).queue, q.state = .outstanding ∧ q.action = a ∧ q.location = some (.socket i)) :
    (returnForRetry h failed s).sockets[i] = y := by
  obtain ⟨q, queued, outstanding, act, at_i⟩ := order
  have member : q ∈ (s.head h).queue.filter fun o => o.state == .outstanding :=
    List.mem_filter.2 ⟨queued, beq_iff_eq.2 outstanding⟩
  rw [sockets_returnForRetry]
  refine (foldl_turns (s := requeued h failed s) (before := fun v => v.enabled ∧ v.sockets[i] = s.sockets[i])
    (after := fun v => v.enabled ∧ v.sockets[i] = y) (hit := fun o => o.action = a ∧ o.location = some (.socket i))
    (fun v o hv apart => ⟨enabled_revertSocket o hv.1, ?_⟩) (fun v o hv hit => ⟨enabled_revertSocket o hv.1, ?_⟩)
    (fun v o hv => ⟨enabled_revertSocket o hv.1, ?_⟩) _ ⟨enabled, rfl⟩ ⟨q, member, act, at_i⟩).2
  · rw [socket_revertSocket_enabled fun i _ => hv.1 i, hv.2]
    split
    · next at_i => exact waits _ fun act => apart ⟨act, at_i⟩
    · rfl
  · rw [socket_revertSocket_enabled fun i _ => hv.1 i, hv.2, if_pos hit.2, hit.1, sent]
  · rw [socket_revertSocket_enabled fun i _ => hv.1 i, hv.2, stays, ite_self]

/-! ## A socket with pending-disable (R71, R126) -/

/-- R71: what a socket's service goes by. -/
def Socket.service (x : Socket) : SocketState × Option DisableCause := (x.state, x.pendingDisable)

/-- R126, R71: the same for a socket of any service, where only the orders of one action change its state or its flag. -/
theorem service_returnForRetry (h : Head) (failed : Option Nat) {i : Fin 64} {a : Action}
    {p q : SocketState × Option DisableCause} (apart : p.1 ≠ .ready ∧ q.1 ≠ .ready)
    (sent : ∀ x : Socket, x.service = p → (x.reverted a).service = q)
    (waits : ∀ (x : Socket) b, b ≠ a → x.service = p → (x.reverted b).service = p)
    (stays : ∀ (x : Socket) b, x.service = q → (x.reverted b).service = q) (start : s.sockets[i].service = p)
    (order : ∃ o ∈ (s.head h).queue, o.state = .outstanding ∧ o.action = a ∧ o.location = some (.socket i)) :
    (returnForRetry h failed s).sockets[i].service = q := by
  obtain ⟨o, queued, outstanding, act, at_i⟩ := order
  have member : o ∈ (s.head h).queue.filter fun o => o.state == .outstanding :=
    List.mem_filter.2 ⟨queued, beq_iff_eq.2 outstanding⟩
  have mine {v : State} {o : Order} (at_i : o.location = some (.socket i)) :
      (revertSocket o v).sockets[i].service = (v.sockets[i].reverted o.action).service := by
    obtain ⟨plan, reverted⟩ := socket_revertSocket (s := v) at_i
    rw [reverted]
    rfl
  have other {v : State} {o : Order} {c : SocketState × Option DisableCause} (elsewhere : o.location ≠ some (.socket i))
      (hv : v.sockets[i].service = c) (notReady : c.1 ≠ .ready) : (revertSocket o v).sockets[i].service = c := by
    obtain ⟨plan, reverted⟩ := socket_revertSocket_other (s := v) elsewhere fun ready => notReady (by rw [← hv]; exact ready)
    rw [reverted]
    exact hv
  rw [sockets_returnForRetry]
  refine foldl_turns (s := requeued h failed s) (before := fun v => v.sockets[i].service = p) (after := fun v => v.sockets[i].service = q)
    (hit := fun o => o.action = a ∧ o.location = some (.socket i)) (fun v o hv miss => ?_) (fun v o hv hit => ?_)
    (fun v o hv => ?_) _ start ⟨o, member, act, at_i⟩
  · by_cases at_i : o.location = some (.socket i)
    · rw [mine at_i]
      exact waits _ _ (fun act => miss ⟨act, at_i⟩) hv
    · exact other at_i hv apart.1
  · rw [mine hit.2, hit.1]
    exact sent _ hv
  · by_cases at_i : o.location = some (.socket i)
    · rw [mine at_i]
      exact stays _ _ hv
    · exact other at_i hv apart.2

end Sys2Proof.Machine
end

section
/-! PROOFS. A first MISS or STUCK (R126), with pending-disable and without (R71). -/

namespace Sys2Proof.Machine

variable {s t : State}

/-- R123: a MISS or STUCK that matches the oldest OUTSTANDING order of a READY head is its outcome. -/
theorem takeHeadStatus_taken {h : Head} {payload : List Byte} {o : Order} {outcome : HeadOutcome}
    (own : (HeadStatusFields.read payload).head = h.num) (read : (HeadStatusFields.read payload).outcome = some outcome)
    (fits : outcome = .miss ∧ o.action = .pick ∨ outcome = .stuck ∧ o.action = .place) (ready : (s.head h).state = .ready)
    (oldest : (s.head h).queue.find? (fun q => q.state == .outstanding) = some o)
    (tag : o.tag = (HeadStatusFields.read payload).tag) : takeHeadStatus h payload s = takeOutcome h outcome o s := by
  have matched : matchOrder h s = some o := by
    unfold matchOrder
    rw [if_pos ready]
    exact oldest
  have status : orderStatus h outcome (HeadStatusFields.read payload).tag s = takeOutcome h outcome o s := by
    unfold orderStatus
    rw [matched]
    dsimp only
    rw [if_pos, if_pos ready]
    refine ⟨tag, ?_⟩
    obtain ⟨rfl, act⟩ | ⟨rfl, act⟩ := fits <;> rw [act] <;> rfl
  unfold takeHeadStatus
  dsimp only
  rw [if_pos own, read]
  obtain ⟨rfl, -⟩ | ⟨rfl, -⟩ := fits <;> exact status

/-- R126: at a first failure every OUTSTANDING order goes back. -/
theorem takeHeadStatus_first {h : Head} {payload : List Byte} {o : Order} (own : (HeadStatusFields.read payload).head = h.num)
    (fits : (HeadStatusFields.read payload).outcome = some .miss ∧ o.action = .pick ∨
      (HeadStatusFields.read payload).outcome = some .stuck ∧ o.action = .place) (ready : (s.head h).state = .ready)
    (oldest : (s.head h).queue.find? (fun q => q.state == .outstanding) = some o)
    (tag : o.tag = (HeadStatusFields.read payload).tag) (first : o.retry = 0) :
    takeHeadStatus h payload s = returnForRetry h (some o.tag) s := by
  obtain ⟨read, act⟩ | ⟨read, act⟩ := fits
  · rw [takeHeadStatus_taken own read (.inl ⟨rfl, act⟩) ready oldest tag]
    exact if_pos first
  · rw [takeHeadStatus_taken own read (.inr ⟨rfl, act⟩) ready oldest tag]
    exact if_pos first

/-! ## The PLACEs into a socket with pending-disable (R71) -/

/-- R71: no pending PLACE into a socket is in a queue. -/
def State.noPlaceInto (i : Fin 64) (s : State) : Prop :=
  ∀ y, ∀ w ∈ (s.head y).queue, w.isPending = true → ¬ (w.action = .place ∧ w.location = some (.socket i))

theorem Drops.noPlaceInto {i : Fin 64} (d : Drops s t) (none' : s.noPlaceInto i) : t.noPlaceInto i :=
  fun y w hw => none' y w ((d.head y).queue.subset hw)

theorem pendingDisable_afterOff (i j : Fin 64) (s : State) :
    (afterOff i s).sockets[j].pendingDisable = s.sockets[j].pendingDisable := by
  have view : (reexamine (opportunityServing i s)).benchView = s.benchView := by simp
  have before := (congrArg Socket.pendingDisable (benchView_socket view j) :)
  unfold afterOff
  generalize reexamine (opportunityServing i s) = v at before
  obtain same | ⟨-, started⟩ := socket_updateGroupOf i j v
  · rw [same]
    exact before
  · rw [started]
    exact before

theorem pendingDisable_goOff_other {i j : Fin 64} (other : i ≠ j) (s : State) :
    (goOff i s).sockets[j].pendingDisable = s.sockets[j].pendingDisable := by
  rw [goOff_eq, pendingDisable_afterOff, sockets_switchedOff, State.socket_modSocket, if_neg other]

/-- R71: a return keeps pending-disable of the sockets its order does not place into. -/
theorem pendingDisable_revertSocket {o : Order} {j : Fin 64}
    (other : ¬ (o.action = .place ∧ o.location = some (.socket j))) (s : State) :
    (revertSocket o s).sockets[j].pendingDisable = s.sockets[j].pendingDisable := by
  obtain ⟨west, east, reverted⟩ := revertSocket_eq o s
  have back : ((sentBack o s).withMarks west east).sockets[j].pendingDisable = s.sockets[j].pendingDisable := by
    show (sentBack o s).sockets[j].pendingDisable = _
    rw [socket_sentBack]
    split
    · exact Socket.sentBack_pendingDisable _ _
    · rfl
  rw [reverted, ← back]
  generalize (sentBack o s).withMarks west east = v
  unfold placeBarred
  split
  · next i place at_i =>
    have apart : i ≠ j := fun e => other ⟨place, e ▸ at_i⟩
    obtain ⟨plan, cancelled⟩ := socket_cancelPlacesInto i j v
    have kept : (cancelPlacesInto i v).sockets[j].pendingDisable = v.sockets[j].pendingDisable := by rw [cancelled]
    split
    · split
      · exact (pendingDisable_goOff_other apart _).trans kept
      · exact kept
    · rfl
  · rfl

/-- R71: a returned PLACE into a socket with pending-disable is cancelled with every other pending one. -/
theorem noPlaceInto_revertSocket {o : Order} {i : Fin 64} (place : o.action = .place)
    (at_i : o.location = some (.socket i)) (due : s.sockets[i].pendingDisable ≠ none) :
    (revertSocket o s).noPlaceInto i := by
  obtain ⟨west, east, reverted⟩ := revertSocket_eq o s
  have back : ((sentBack o s).withMarks west east).sockets[i].pendingDisable = s.sockets[i].pendingDisable := by
    show (sentBack o s).sockets[i].pendingDisable = _
    rw [socket_sentBack, if_pos at_i, Socket.sentBack_pendingDisable]
  have cancelled (v : State) : (cancelPlacesInto i v).noPlaceInto i := fun y => cancelPlacesInto_queue i v y
  rw [reverted, placeBarred_at place at_i, back, if_pos (Option.isSome_iff_ne_none.2 due)]
  split
  · exact (drops_goOff i _).noPlaceInto (cancelled _)
  · exact cancelled _

theorem noPlaceInto_returnForRetry (h : Head) (failed : Option Nat) {i : Fin 64}
    (due : s.sockets[i].pendingDisable ≠ none)
    (order : ∃ o ∈ (s.head h).queue, o.state = .outstanding ∧ o.action = .place ∧ o.location = some (.socket i)) :
    (returnForRetry h failed s).noPlaceInto i := by
  obtain ⟨o, queued, outstanding, act, at_i⟩ := order
  have member : o ∈ (s.head h).queue.filter fun o => o.state == .outstanding :=
    List.mem_filter.2 ⟨queued, beq_iff_eq.2 outstanding⟩
  have back : (givenBack h failed s).noPlaceInto i :=
    foldl_turns (s := requeued h failed s) (before := fun v => v.sockets[i].pendingDisable ≠ none)
      (hit := fun o => o.action = .place ∧ o.location = some (.socket i))
      (fun v o hv miss => by rw [pendingDisable_revertSocket miss]; exact hv)
      (fun v o hv hit => noPlaceInto_revertSocket hit.1 hit.2 hv) (fun v o hv => (drops_revertSocket o v).noPlaceInto hv)
      _ due ⟨o, member, act, at_i⟩
  intro y w hw
  rw [queue_returnForRetry] at hw
  exact back y w hw

/-! ## A first failure -/

/-- R126: a first failure where no socket has pending-disable. -/
theorem firstFailure_enabled (h : Head) (failed : Option Nat) (enabled : s.enabled) (i : Fin 64) :
    let t := returnForRetry h failed s
    (s.sockets[i].state = .emptying →
      (∃ q ∈ (s.head h).queue, q.state = .outstanding ∧ q.action = .pick ∧ q.location = some (.socket i)) →
      t.sockets[i] = { s.sockets[i] with state := .tested }) ∧
    (s.sockets[i].state = .filling →
      (∃ q ∈ (s.head h).queue, q.state = .outstanding ∧ q.action = .place ∧ q.location = some (.socket i)) →
      t.sockets[i] = { s.sockets[i] with state := .empty }) ∧
    (s.sockets[i].state ≠ .emptying → s.sockets[i].state ≠ .filling → t.sockets[i] = s.sockets[i]) := by
  refine ⟨fun emptying => ?_, fun filling => ?_, fun notEmptying notFilling => ?_⟩
  · refine socket_returnForRetry_sent h failed enabled (Socket.sentBack_tested emptying) (fun b other => ?_) fun b => ?_
    · exact Socket.sentBack_same (fun e => absurd e other) fun _ => by rw [emptying]; exact SocketState.noConfusion
    · exact Socket.sentBack_same (fun _ => SocketState.noConfusion) fun _ => SocketState.noConfusion
  · refine socket_returnForRetry_sent h failed enabled (Socket.sentBack_empty filling) (fun b other => ?_) fun b => ?_
    · exact Socket.sentBack_same (fun _ => by rw [filling]; exact SocketState.noConfusion) fun e => absurd e other
    · exact Socket.sentBack_same (fun _ => SocketState.noConfusion) fun _ => SocketState.noConfusion
  · exact socket_returnForRetry_same h failed enabled fun a =>
      Socket.sentBack_same (fun _ => notEmptying) fun _ => notFilling

/-- R71, R126: a socket in FILLING with pending-disable, whose PLACE goes back, is OFF. -/
theorem firstFailure_filling (h : Head) (failed : Option Nat) {i : Fin 64} {cause : DisableCause}
    (start : s.sockets[i].service = (.filling, some cause))
    (order : ∃ o ∈ (s.head h).queue, o.state = .outstanding ∧ o.action = .place ∧ o.location = some (.socket i)) :
    (returnForRetry h failed s).sockets[i].service = (.off, none) := by
  refine service_returnForRetry h failed ⟨SocketState.noConfusion, SocketState.noConfusion⟩ (fun x hx => ?_)
    (fun x b other hx => ?_) (fun x b hx => ?_) start order
  · obtain ⟨filling, flag⟩ := Prod.mk.inj hx
    unfold Socket.reverted
    rw [Socket.sentBack_empty filling, if_pos ⟨rfl, by rw [flag]; exact Option.some_ne_none cause, rfl⟩]
    rfl
  · obtain ⟨filling, flag⟩ := Prod.mk.inj hx
    unfold Socket.reverted
    rw [if_neg fun off => other off.1,
      Socket.sentBack_same (fun _ => by rw [filling]; exact SocketState.noConfusion) fun e => absurd e other]
    exact hx
  · obtain ⟨off, flag⟩ := Prod.mk.inj hx
    unfold Socket.reverted
    rw [if_neg fun due => due.2.1 flag,
      Socket.sentBack_same (fun _ => by rw [off]; exact SocketState.noConfusion)
        fun _ => by rw [off]; exact SocketState.noConfusion]
    exact hx

/-- R71, R126: a socket in EMPTYING whose PICK goes back is TESTED, and keeps its pending-disable. -/
theorem firstFailure_emptying (h : Head) (failed : Option Nat) {i : Fin 64} {flag : Option DisableCause}
    (start : s.sockets[i].service = (.emptying, flag))
    (order : ∃ o ∈ (s.head h).queue, o.state = .outstanding ∧ o.action = .pick ∧ o.location = some (.socket i)) :
    (returnForRetry h failed s).sockets[i].service = (.tested, flag) := by
  have stays (x : Socket) (b : Action) (pick : b = .pick → x.state ≠ .emptying) (notFilling : x.state ≠ .filling)
      (full : x.state ≠ .empty) : x.reverted b = x := by
    have same := Socket.sentBack_same (a := b) pick fun _ => notFilling
    unfold Socket.reverted
    rw [same, if_neg fun off => full off.2.2]
  refine service_returnForRetry h failed ⟨SocketState.noConfusion, SocketState.noConfusion⟩ (fun x hx => ?_)
    (fun x b other hx => ?_) (fun x b hx => ?_) start order
  · obtain ⟨emptying, kept⟩ := Prod.mk.inj hx
    unfold Socket.reverted
    rw [Socket.sentBack_tested emptying, if_neg fun off => Action.noConfusion off.1, ← kept]
    rfl
  · obtain ⟨emptying, -⟩ := Prod.mk.inj hx
    rw [stays x b (fun pick => absurd pick other) (by rw [emptying]; exact SocketState.noConfusion)
      (by rw [emptying]; exact SocketState.noConfusion)]
    exact hx
  · obtain ⟨tested, -⟩ := Prod.mk.inj hx
    rw [stays x b (fun _ => by rw [tested]; exact SocketState.noConfusion) (by rw [tested]; exact SocketState.noConfusion)
      (by rw [tested]; exact SocketState.noConfusion)]
    exact hx

end Sys2Proof.Machine
end

section
/-! PROOFS. A final MISS (R128). -/

namespace Sys2Proof.Machine

variable {s t : State}

/-! ## What a head keeps through a final failure -/

/-- R116, R125, R137: the state, the known position and the base zone of a head. -/
def HeadRecord.stance (x : HeadRecord) : HeadState × Option Pos × Option Nat := (x.state, x.known, x.base)

theorem HeadDrops.stance {x y : HeadRecord} (d : HeadDrops x y) : y.stance = x.stance := by
  rw [d.rest]
  rfl

theorem NotDone.stance {o : Order} {x y : HeadRecord} (d : NotDone o x y) : y.stance = x.stance := by
  unfold HeadRecord.stance
  rw [d.state, d.known, d.base]

theorem Returned.stance {failed : Option Nat} {x y : HeadRecord} (d : Returned failed x y) : y.stance = x.stance := by
  unfold HeadRecord.stance
  rw [d.state, d.known, d.base]

theorem stance_leaveQueue (h : Head) (tag : Nat) (s : State) : ((leaveQueue h tag s).head h).stance = (s.head h).stance := by
  rw [head_leaveQueue]
  rfl

/-- What follows in a final miss after the granted orders of its plan. -/
theorem drops_finalMiss (h : Head) (o : Order) (s : State) :
    Drops (failPlanMates h o (leaveQueue h o.tag s)) (finalMiss h o s) :=
  (drops_lostFrom o _).trans ((drops_endPlan h o.plan _).trans ((drops_raiseEvent .pickMiss (pickTag s o) _).trans
    ((drops_opportunity h _).trans (drops_grantPoint h _))))

theorem stance_finalMiss (h : Head) (o : Order) (s : State) : ((finalMiss h o s).head h).stance = (s.head h).stance := by
  have mates : ((failPlanMates h o (leaveQueue h o.tag s)).head h).stance = (s.head h).stance :=
    foldl_keeps (P := fun v => (v.head h).stance = (s.head h).stance)
      (fun v q hv => ((notDone_resolveNotDone h q v).stance).trans hv) _ (stance_leaveQueue h o.tag s)
  exact ((drops_finalMiss h o s).head h).stance.trans mates

/-- R128: the failed order has left its queue. -/
theorem queue_finalMiss (h : Head) (o : Order) (s : State) : ∀ q ∈ ((finalMiss h o s).head h).queue, q.tag ≠ o.tag := by
  intro q hq
  have mates : ((failPlanMates h o (leaveQueue h o.tag s)).head h).queue.Sublist ((leaveQueue h o.tag s).head h).queue :=
    (foldl_removes (fun v q => (notDone_resolveNotDone h q v).queue) _ _).1
  have left := mates.subset (((drops_finalMiss h o s).head h).queue.subset hq)
  rw [head_leaveQueue] at left
  simpa using (List.mem_filter.1 left).2

/-! ## PICK_MISS and PLACE_STUCK (R171) -/

/-- R171: what raising PICK_MISS or PLACE_STUCK notes of it. -/
theorem event_raiseEvent {k : EventKind} (own : k = .pickMiss ∨ k = .placeStuck) (d : Nat) (s : State) :
    (raiseEvent k d s).events[k.num] = s.events[k.num].occur d := by
  have noted : (noteEvent k d s).events[k.num] = s.events[k.num].occur d := by rw [event_noteEvent, if_pos rfl]
  let c := (steady_event own (s.events[k.num].occur d)).toQuiet
  unfold raiseEvent
  dsimp only
  split
  · split
    · exact c.raiseCongestion _ (c.produceNotice k noted)
    · exact c.produceNotice k noted
  · exact noted

theorem events_releaseAt (p : Place) (s : State) : (releaseAt p s).events = s.events := by
  unfold releaseAt
  split
  · rfl
  · cases p <;> rfl

theorem event_lostFrom {k : EventKind} (own : k = .pickMiss ∨ k = .placeStuck) (o : Order) (s : State) :
    (lostFrom o s).events[k.num] = s.events[k.num] := by
  let c := steady_event own s.events[k.num]
  have released (p : Place) : (countRemoved (releaseAt p s)).events[k.num] = s.events[k.num] := by
    show (releaseAt p s).events[k.num] = _
    rw [events_releaseAt]
  unfold lostFrom
  split
  · next i _ =>
    refine c.afterOff i (c.completeDisable i (c.raiseEvent _ nofun nofun ?_))
    rw [noteFault_off .miss (by rw [State.socket_modSocket_self])]
    exact released _
  · exact c.produce _ _ _ _ (c.opportunityBoth (released (.input _)))
  · exact c.opportunityBoth (released _)
  · rfl

/-- R128, R171: a final miss notes the tag of the device it was to lift. -/
theorem event_finalMiss (h : Head) (o : Order) (s : State) : (finalMiss h o s).events[EventKind.pickMiss.num] =
    s.events[EventKind.pickMiss.num].occur (pickTag s o) := by
  have own : EventKind.pickMiss = .pickMiss ∨ EventKind.pickMiss = .placeStuck := .inl rfl
  let c := steady_event own s.events[EventKind.pickMiss.num]
  have mates := c.failPlanMates h o (c.leaveQueue h o.tag (s := s) rfl)
  have ended := c.endPlan h o.plan ((event_lostFrom own o _).trans mates)
  have raised := (event_raiseEvent own (pickTag s o) _).trans (congrArg (EventRecord.occur · (pickTag s o)) ended)
  let after := steady_event own (s.events[EventKind.pickMiss.num].occur (pickTag s o))
  exact after.grantPoint h (after.opportunity h raised)

/-! ## The place of the lost device (R29, R67, R71) -/

theorem tagAt_of_custody (e : t.custody = s.custody) {p : Place} {k : Fin 96} {r : PartRecord}
    (held : s.recordAt p = some k) (device : s.parts[k] = some r) : tagAt t p = r.tag := by
  obtain ⟨y, at_k, tag, -, -⟩ := custody_record e device
  exact (tagAt_eq ((custody_recordAt e p).trans held) at_k).trans tag

theorem pickTag_eq {o : Order} {loc : Location} {p : Place} {k : Fin 96} {r : PartRecord} (at_loc : o.location = some loc)
    (place : loc.custody = some p) (held : s.recordAt p = some k) (device : s.parts[k] = some r) : pickTag s o = r.tag := by
  rw [← tagAt_eq held device]
  unfold pickTag
  rw [at_loc]
  cases loc with
  | pocket b y j => cases place
  | socket i => cases place; rfl
  | input i => cases place; rfl
  | retest i => cases place; rfl

/-- R67: a socket left by a final miss. -/
def Socket.missed (x : Socket) : Prop := x.state = .off ∧ x.faults.miss = true ∧ x.pendingDisable = none

theorem steady_missed (i : Fin 64) : Steady fun t => t.sockets[i].missed :=
  steady_socket (Q := Socket.missed) i (fun _ kept => kept) fun x y step ⟨off, kept⟩ => by
    cases step with
    | starts waits => rw [off] at waits; exact absurd waits (by rintro (h | h) <;> cases h)
    | tested emptying => rw [off] at emptying; cases emptying
    | emptied filling => rw [off] at filling; cases filling
    | off empty => rw [off] at empty; cases empty

theorem lostFrom_socket {o : Order} {i : Fin 64} (at_i : o.location = some (.socket i)) (s : State) :
    (lostFrom o s).sockets[i].missed ∧ (lostFrom o s).pends .socketDisabled := by
  unfold lostFrom
  rw [at_i]
  dsimp only
  generalize countRemoved (releaseAt (.socket i) s) = v
  have off : (v.modSocket i fun x => { x with state := .off, pendingDisable := none }).sockets[i] =
      { v.sockets[i] with state := .off, pendingDisable := none } := State.socket_modSocket_self _ _ _
  have faulted : (noteFault i .miss (v.modSocket i fun x => { x with state := .off, pendingDisable := none })).sockets[i].missed := by
    rw [noteFault_off .miss (by rw [off]), State.socket_modSocket_self, off]
    exact ⟨rfl, rfl, rfl⟩
  generalize noteFault i .miss (v.modSocket i fun x => { x with state := .off, pendingDisable := none }) = w at faulted
  let c := steady_missed i
  let d := steady_pends .socketDisabled
  exact ⟨c.afterOff i (c.completeDisable i (c.raiseEvent _ nofun nofun faulted)),
    d.afterOff i (d.completeDisable i (raiseEvent_pends .socketDisabled i w))⟩

/-- What is kept through the last part of a final miss, PICK_MISS included, and through the return of the other orders. -/
theorem Steady.afterMiss {P : State → Prop} (c : Steady P) (raised : ∀ (d : Nat) {v : State}, P v → P (raiseEvent .pickMiss d v))
    (h : Head) (o : Order) (lost : P (lostFrom o (Machine.failPlanMates h o (Machine.leaveQueue h o.tag s)))) :
    P (Machine.returnForRetry h none (finalMiss h o s)) :=
  c.returnForRetry h none (c.grantPoint h (c.opportunity h (raised _ (c.endPlan h o.plan lost))))

/-- R67, R71: the socket a final miss leaves. -/
theorem finalMiss_socket (h : Head) {o : Order} {i : Fin 64} (at_i : o.location = some (.socket i)) (s : State) :
    (returnForRetry h none (finalMiss h o s)).sockets[i].missed ∧
      (returnForRetry h none (finalMiss h o s)).pends .socketDisabled := by
  obtain ⟨missed, pends⟩ := lostFrom_socket at_i (failPlanMates h o (leaveQueue h o.tag s))
  refine ⟨(steady_missed i).afterMiss (fun d v hv => ?_) h o missed,
    (steady_pends .socketDisabled).afterMiss (fun d v hv => pends_raiseEvent _ d hv) h o pends⟩
  rw [offLink_sockets (offLink_raiseEvent .pickMiss d v)]
  exact hv

/-- R29: the input slot a final miss leaves is CLEARING with the tag of the device. -/
theorem finalMiss_input (h : Head) {o : Order} {i : Fin 8} {k : Fin 96} {r : PartRecord}
    (at_i : o.location = some (.input i)) (held : s.recordAt (.input i) = some k) (device : s.parts[k] = some r) :
    (returnForRetry h none (finalMiss h o s)).inputs[i].taken = some r.tag := by
  have tag : tagAt (failPlanMates h o (leaveQueue h o.tag s)) (.input i) = r.tag :=
    tagAt_of_custody (by simp) held device
  refine (steady_taken i (some r.tag)).afterMiss (fun d v hv => ?_) h o ?_
  · rw [offLink_inputs (offLink_raiseEvent .pickMiss d v)]
    exact hv
  · generalize failPlanMates h o (leaveQueue h o.tag s) = v at tag
    unfold lostFrom
    rw [at_i]
    dsimp only
    rw [tag]
    exact (clearSlot_spec i r.tag _).1

end Sys2Proof.Machine
end

section
/-! PROOFS. A final STUCK (R128), and the head that stops (R125): O32. -/

namespace Sys2Proof.Machine

variable {s t : State} {P : State → Prop}

/-! ## The head (R125) -/

/-- R125: a head that becomes STOPPED, its order timer cancelled. -/
def standsStill (h : Head) (s : State) : State :=
  cancelTimer (.order h) (yieldCheck h.other (s.modHead h fun x => { x with state := .stopped, base := none }))

theorem drops_stopQueue (h : Head) (s : State) : Drops (standsStill h s) (stopQueue h s) := drops_cancelWhere _ _ _

theorem stance_stopQueue (h : Head) (s : State) :
    ((stopQueue h s).head h).stance = (.stopped, (s.head h).known, none) := by
  have start : ((standsStill h s).head h).stance = (.stopped, (s.head h).known, none) := by cases h <;> rfl
  exact ((drops_stopQueue h s).head h).stance.trans start

theorem stance_stopStuck (h : Head) (s : State) :
    ((stopStuck h s).head h).stance = (.stopped, (s.head h).known, none) := by
  have failed : ((failGranted h (stopQueue h s)).head h).stance = (.stopped, (s.head h).known, none) :=
    foldl_keeps (P := fun v => (v.head h).stance = (.stopped, (s.head h).known, none))
      (fun v q hv => ((notDone_resolveNotDone h q v).stance).trans hv) _ (stance_stopQueue h s)
  exact ((drops_raiseEvent .headStopped h.num _).head h).stance.trans failed

/-- R125, R127: its pending orders cancelled and its granted ones resolved as not done, a stopped head has no order. -/
theorem queue_stopStuck (h : Head) (s : State) : ((stopStuck h s).head h).queue = [] := by
  have raised := ((drops_raiseEvent .headStopped h.num (failGranted h (stopQueue h s))).head h).queue
  have failed : ((failGranted h (stopQueue h s)).head h).queue.Sublist ((stopQueue h s).head h).queue :=
    (foldl_removes (fun v q => (notDone_resolveNotDone h q v).queue) _ _).1
  refine List.eq_nil_iff_forall_not_mem.2 fun q hq => ?_
  have notGranted := failGranted_queue h (stopQueue h s) q (raised.subset hq)
  have notPending := cancelWhere_queue h (fun _ => true) (standsStill h s) q (failed.subset (raised.subset hq))
  rw [Bool.and_true, (isPending_iff q).2 (isPending_of_not_granted notGranted)] at notPending
  cases notPending

theorem timer_stopStuck (h : Head) (s : State) : (stopStuck h s).timer (.order h) = .clear := by
  have stopped : (stopQueue h s).timer (.order h) = .clear :=
    ((drops_stopQueue h s).timer h).1.trans ((timer_cancelTimer _ _ _).trans (if_pos rfl))
  have failed : (failGranted h (stopQueue h s)).timer (.order h) = .clear :=
    foldl_keeps (P := fun v => v.timer (.order h) = .clear)
      (fun v q hv => (timer_resolveNotDone h h q v).1.trans hv) _ stopped
  exact ((drops_raiseEvent .headStopped h.num _).timer h).1.trans failed

/-! ## The location (R55, R69, R89) -/

/-- R69 to R71: for a property that the flag itself keeps. -/
theorem Steady.noteFault (c : Steady P) (i : Fin 64) (k : FaultKind)
    (flagged : ∀ {v : State}, P v → P (v.modSocket i fun x => { x with pendingDisable := some .fault }))
    (faulted : P (s.modSocket i fun x => x.faulted k)) : P (noteFault i k s) := by
  rw [noteFault_eq]
  unfold checkThreshold
  dsimp only
  split
  · exact c.setPendingDisable i .fault (flagged faulted)
  · exact faulted

/-- A socket that its stuck PLACE has left: free, and EMPTY or OFF when it was in FILLING. -/
def leftStuck (i : Fin 64) (s : State) : State :=
  if s.sockets[i].state = .filling then enterEmpty i (s.modSocket i fun x => { x with plan := none })
  else s.modSocket i fun x => { x with plan := none }

theorem stuckAt_socket {o : Order} {i : Fin 64} (at_i : o.location = some (.socket i)) (s : State) :
    stuckAt o s = noteFault i .stuck (leftStuck i s) := by
  have same : (s.modSocket i fun x => { x with plan := none }).sockets[i].state = s.sockets[i].state := by
    rw [State.socket_modSocket_self]
  unfold stuckAt leftStuck
  rw [at_i]
  dsimp only
  rw [same]

theorem Steady.leftStuck (c : Steady P) (i : Fin 64) (free : P (s.modSocket i fun x => { x with plan := none })) :
    P (leftStuck i s) := by
  unfold Machine.leftStuck
  split
  · next filling => exact c.enterEmpty (by rw [State.socket_modSocket_self]; exact filling) free
  · exact free

theorem event_stuckAt {k : EventKind} (own : k = .pickMiss ∨ k = .placeStuck) (o : Order) (s : State) :
    (stuckAt o s).events[k.num] = s.events[k.num] := by
  let c := steady_event own s.events[k.num]
  cases at_loc : o.location with
  | none => unfold stuckAt; rw [at_loc]; exact c.holeOf o rfl
  | some loc => cases loc with
    | socket i =>
      rw [stuckAt_socket at_loc]
      exact c.noteFault i .stuck (fun hv => hv) (c.leftStuck i (s := s) rfl)
    | retest r => unfold stuckAt; rw [at_loc]; rfl
    | input i => unfold stuckAt; rw [at_loc]; exact c.holeOf o rfl
    | pocket b y j => unfold stuckAt; rw [at_loc]; exact c.holeOf o rfl

/-- R128, R171: a final stuck notes the tag of the device on the nozzle. -/
theorem event_finalStuck {h : Head} {o : Order} {tag : Nat} (device : stuckTag h o s = some tag) :
    (finalStuck h o s).events[EventKind.placeStuck.num] = s.events[EventKind.placeStuck.num].occur tag := by
  have own : EventKind.placeStuck = .pickMiss ∨ EventKind.placeStuck = .placeStuck := .inr rfl
  let c := steady_event own s.events[EventKind.placeStuck.num]
  have ended := c.endPlan h o.plan ((event_stuckAt own o (leaveQueue h o.tag s)).trans rfl)
  let after := steady_event own (s.events[EventKind.placeStuck.num].occur tag)
  refine after.grantPoint h (after.opportunity h ?_)
  rw [device]
  exact (event_raiseEvent own tag _).trans (congrArg (EventRecord.occur · tag) ended)

/-- What is kept through the last part of a final stuck, PLACE_STUCK included, and through the stop of the head. -/
theorem Steady.afterStuck (c : Steady P) (raised : ∀ (d : Nat) {v : State}, P v → P (raiseEvent .placeStuck d v)) (h : Head)
    (o : Order) (stuck : P (stuckAt o (Machine.leaveQueue h o.tag s))) : P (Machine.stopStuck h (finalStuck h o s)) := by
  refine c.stopStuck h (c.grantPoint h (c.opportunity h ?_))
  have ended := c.endPlan h o.plan stuck
  unfold raiseStuck
  split
  · exact raised _ ended
  · exact raised _ (c.same ended ⟨rfl, fun _ => rfl, rfl, rfl, rfl, rfl, rfl⟩)

/-- A property of one socket is not concerned by PLACE_STUCK. -/
theorem socket_raiseEvent {Q : Socket → Prop} {i : Fin 64} (k : EventKind) (d : Nat) (hs : Q s.sockets[i]) :
    Q (raiseEvent k d s).sockets[i] := by
  rw [offLink_sockets (offLink_raiseEvent k d s)]
  exact hs

/-- R69: the socket has its STUCK flag. -/
theorem finalStuck_faults (h : Head) {o : Order} {i : Fin 64} (at_i : o.location = some (.socket i)) (s : State) :
    (stopStuck h (finalStuck h o s)).sockets[i].faults.stuck = true := by
  let c := steady_faults i (Q := fun f => f.stuck = true)
  refine c.afterStuck (fun d v hv => socket_raiseEvent (Q := fun x => x.faults.stuck = true) .placeStuck d hv) h o ?_
  rw [stuckAt_socket at_i]
  refine c.noteFault i .stuck (fun {v} hv => ?_) ?_
  · rw [State.socket_modSocket_self]
    exact hv
  · rw [State.socket_modSocket_self]
    rfl

/-- A socket that is EMPTY or OFF stays so. -/
theorem steady_vacant (i : Fin 64) : Steady fun t => t.sockets[i].state = .empty ∨ t.sockets[i].state = .off :=
  steady_socket (Q := fun x => x.state = .empty ∨ x.state = .off) i (fun _ kept => kept) fun x y step vacant => by
    cases step with
    | starts waits => obtain e | e := waits <;> rw [e] at vacant <;> simp at vacant
    | tested emptying => rw [emptying] at vacant; simp at vacant
    | emptied filling => exact .inl rfl
    | off => exact .inr rfl

/-- An EMPTY socket without pending-disable stays so. -/
theorem steady_empty (i : Fin 64) : Steady fun t => t.sockets[i].service = (.empty, none) :=
  steady_socket (Q := fun x => x.service = (.empty, none)) i (fun _ kept => kept) fun x y step kept => by
    obtain ⟨empty, enabled⟩ := Prod.mk.inj kept
    cases step with
    | starts waits => rw [empty] at waits; simp at waits
    | tested emptying => rw [empty] at emptying; cases emptying
    | emptied filling => rw [empty] at filling; cases filling
    | off _ due => exact absurd enabled due

/-- R55: a socket in FILLING is EMPTY, or on its way out of service. -/
theorem finalStuck_vacant (h : Head) {o : Order} {i : Fin 64} (at_i : o.location = some (.socket i))
    (filling : s.sockets[i].state = .filling) :
    (stopStuck h (finalStuck h o s)).sockets[i].state = .empty ∨ (stopStuck h (finalStuck h o s)).sockets[i].state = .off := by
  refine (steady_vacant i).afterStuck
    (fun d v hv => socket_raiseEvent (Q := fun x => x.state = .empty ∨ x.state = .off) .placeStuck d hv) h o ?_
  have left : (leftStuck i (leaveQueue h o.tag s)).sockets[i].state = .empty ∨
      (leftStuck i (leaveQueue h o.tag s)).sockets[i].state = .off := by
    unfold leftStuck
    rw [if_pos (show (leaveQueue h o.tag s).sockets[i].state = .filling from filling), state_enterEmpty_cases]
    split
    · exact .inl rfl
    · exact .inr rfl
  rw [stuckAt_socket at_i]
  refine (steady_vacant i).noteFault i .stuck (fun {v} hv => ?_) ?_
  · rw [State.socket_modSocket_self]
    exact hv
  · rw [State.socket_modSocket_self]
    exact left

/-- R55, R70: with a threshold of 0, and without pending-disable, it stays EMPTY. -/
theorem finalStuck_empty (h : Head) {o : Order} {i : Fin 64} (at_i : o.location = some (.socket i))
    (filling : s.sockets[i].state = .filling) (enabled : s.sockets[i].pendingDisable = none)
    (off : s.lot.faultThreshold = 0) : (stopStuck h (finalStuck h o s)).sockets[i].state = .empty := by
  have free : ((leaveQueue h o.tag s).modSocket i fun x => { x with plan := none }).sockets[i] =
      { s.sockets[i] with plan := none } := State.socket_modSocket_self _ _ _
  obtain ⟨west, east, marks⟩ := opportunityServing_marks i
    (((leaveQueue h o.tag s).modSocket i fun x => { x with plan := none }).modSocket i fun x => { x with state := .empty })
  have left : leftStuck i (leaveQueue h o.tag s) =
      (((leaveQueue h o.tag s).modSocket i fun x => { x with plan := none }).modSocket i
        fun x => { x with state := .empty }).withMarks west east := by
    unfold leftStuck
    rw [if_pos (show (leaveQueue h o.tag s).sockets[i].state = .filling from filling),
      enterEmpty_of_enabled (by rw [free]; exact enabled), marks]
  have below : ¬ reachesThreshold i (leftStuck i (leaveQueue h o.tag s)) := fun reached => by
    rw [left] at reached
    exact reached.2.1 off
  have emptied : (leftStuck i (leaveQueue h o.tag s)).sockets[i] = { s.sockets[i] with state := .empty, plan := none } := by
    rw [left]
    exact (State.socket_modSocket_self _ i fun x => { x with state := .empty }).trans (by rw [free])
  have socket : (stuckAt o (leaveQueue h o.tag s)).sockets[i].service = (.empty, none) := by
    rw [stuckAt_socket at_i, noteFault_below .stuck below, State.socket_modSocket_self, emptied]
    exact Prod.ext rfl enabled
  have after := (steady_empty i).afterStuck
    (fun d v hv => socket_raiseEvent (Q := fun x => x.service = (.empty, none)) .placeStuck d hv) h o socket
  exact (Prod.mk.inj after).1

/-- R89: a pocket that is not filled is a hole. -/
theorem finalStuck_hole (h : Head) {o : Order} {b : Fin 16} {y : TrayId} {j : Nat}
    (at_b : o.location = some (.pocket b y j)) (s : State) :
    (s.bins[b].tray y).holes + 1 ≤ ((stopStuck h (finalStuck h o s)).bins[b].tray y).holes := by
  refine (steady_holes b y _).afterStuck (fun d v hv => ?_) h o ?_
  · rw [offLink_bins (offLink_raiseEvent .placeStuck d v)]
    exact hv
  · unfold stuckAt holeOf
    rw [at_b]
    dsimp only
    rw [tray_holePocket]
    exact Nat.le_refl _

/-! ## The obligation -/

/-- R126: a first failure in a state where no socket has pending-disable. -/
theorem firstFailure_head (h : Head) {o : Order} {b : Nat} (ready : (s.head h).state = .ready)
    (at_b : (s.head h).base = some b) :
    let t := returnForRetry h (some o.tag) s
    (t.head h).state = .ready ∧ (t.head h).known = (s.head h).known ∧ (t.head h).holdings = ⟨b, b⟩ ∧
      t.timer (.order h) = .clear ∧ ∀ p, t.recordAt p = s.recordAt p := by
  have back := returned_returnForRetry h (some o.tag) s
  exact ⟨back.state.trans ready, back.known, back.alone b ready at_b, timer_returnForRetry h _ s,
    custody_recordAt (custody_returnForRetry h _ s)⟩

theorem queue_firstFailure (h : Head) (o : Order) (enabled : s.enabled) :
    ((returnForRetry h (some o.tag) s).head h).queue = (s.head h).queue.map fun q =>
      if q.state = .outstanding then { q with state := .pending, retry := if q.tag = o.tag then 1 else q.retry } else q := by
  rw [queue_returnForRetry_enabled h _ enabled]
  refine List.map_congr_left fun q _ => ?_
  unfold Order.returned
  simp only [Option.some.injEq]

/-- R128: the head of a final miss, whose other OUTSTANDING orders go back. -/
theorem finalMiss_head (h : Head) (o : Order) (ready : (s.head h).state = .ready) :
    let t := returnForRetry h none (finalMiss h o s)
    (∀ q ∈ (t.head h).queue, q.tag ≠ o.tag ∧ q.state ≠ .outstanding) ∧ (t.head h).state = .ready ∧
      (t.head h).known = (s.head h).known ∧
      ∀ b, (s.head h).base = some b → (t.head h).base = some b ∧ (t.head h).holdings = ⟨b, b⟩ := by
  have back := returned_returnForRetry h none (finalMiss h o s)
  obtain ⟨state, known, base⟩ : ((finalMiss h o s).head h).state = (s.head h).state ∧
      ((finalMiss h o s).head h).known = (s.head h).known ∧ ((finalMiss h o s).head h).base = (s.head h).base := by
    have same := stance_finalMiss h o s
    unfold HeadRecord.stance at same
    simpa only [Prod.mk.injEq] using same
  refine ⟨fun q hq => ⟨?_, back.not_outstanding q hq⟩, back.state.trans (state.trans ready), back.known.trans known,
    fun b at_b => ⟨back.base.trans (base.trans at_b), back.alone b (state.trans ready) (base.trans at_b)⟩⟩
  obtain ⟨w, queued, rfl⟩ := List.mem_map.1 (back.queue.subset hq)
  rw [Order.returned_tag]
  exact queue_finalMiss h o s w queued

/-- R128, R171: PICK_MISS is pending, and has the tag of the device when it was not pending before. -/
theorem finalMiss_event (h : Head) {o : Order} {tag : Nat} (device : pickTag s o = tag) :
    let t := returnForRetry h none (finalMiss h o s)
    t.events[EventKind.pickMiss.num].pending = true ∧
      (s.events[EventKind.pickMiss.num].pending = false → t.events[EventKind.pickMiss.num].detail = some tag) := by
  intro t
  have noted : t.events[EventKind.pickMiss.num] = s.events[EventKind.pickMiss.num].occur tag :=
    (steady_event (.inl rfl) _).returnForRetry h none (device ▸ event_finalMiss h o s)
  rw [noted]
  exact ⟨rfl, fun clear => by rw [EventRecord.occur, clear]; rfl⟩

/-- R31, R128: the device of a final miss has left custody. -/
theorem finalMiss_custody (h : Head) {o : Order} {loc : Location} {p : Place} {k : Fin 96} (at_loc : o.location = some loc)
    (place : loc.custody = some p) (held : s.recordAt p = some k) :
    let t := returnForRetry h none (finalMiss h o s)
    t.recordAt p = none ∧ t.parts[k] = none ∧ t.counters.removed = min (s.counters.removed + 1) 4294967295 := by
  have back := custody_returnForRetry h none (finalMiss h o s)
  obtain ⟨record, part, removed⟩ := finalMiss_lost (h := h) at_loc place held
  exact ⟨(custody_recordAt back p).trans record, custody_free back part, (custody_removed back).trans removed⟩

/-- R125, R128: the head of a final stuck. -/
theorem finalStuck_head (h : Head) (o : Order) (s : State) :
    let t := stopStuck h (finalStuck h o s)
    (t.head h).state = .stopped ∧ (t.head h).base = none ∧ (t.head h).known = (s.head h).known := by
  intro t
  have stance : (t.head h).stance = _ := stance_stopStuck h (finalStuck h o s)
  unfold HeadRecord.stance at stance
  simp only [Prod.mk.injEq] at stance
  exact ⟨stance.1, stance.2.2, stance.2.1.trans (HeadRests.finalStuck h o s).known⟩

/-- R128, R171: PLACE_STUCK is pending, and has the tag of the device when it was not pending before. -/
theorem finalStuck_event {h : Head} {o : Order} {tag : Nat} (device : stuckTag h o s = some tag) :
    let t := stopStuck h (finalStuck h o s)
    t.events[EventKind.placeStuck.num].pending = true ∧
      (s.events[EventKind.placeStuck.num].pending = false → t.events[EventKind.placeStuck.num].detail = some tag) := by
  intro t
  have noted : t.events[EventKind.placeStuck.num] = s.events[EventKind.placeStuck.num].occur tag :=
    (steady_event (.inr rfl) _).stopStuck h (event_finalStuck device)
  rw [noted]
  exact ⟨rfl, fun clear => by rw [EventRecord.occur, clear]; rfl⟩

theorem stuckTag_eq {h : Head} {o : Order} {n : Fin 4} {k : Fin 96} {r : PartRecord} (nozzle : o.nozzle = some n)
    (held : s.recordAt (.nozzle h n) = some k) (device : s.parts[k] = some r) : stuckTag h o s = some r.tag := by
  unfold stuckTag
  rw [nozzle, Option.bind_some, held, Option.bind_some, device]
  rfl

theorem Location.eq_of_custody_socket {loc : Location} {i : Fin 64} (place : loc.custody = some (.socket i)) :
    loc = .socket i := by
  cases loc <;> cases place
  rfl

theorem Location.eq_of_custody_input {loc : Location} {i : Fin 8} (place : loc.custody = some (.input i)) :
    loc = .input i := by
  cases loc <;> cases place
  rfl

/-- Settles O32. -/
theorem firstFailureReturnsOrders : Obligations.FirstFailureReturnsOrders := by
  refine ⟨?_, ?_, ?_, ?_⟩
  · intro s h payload o b x t own fits ready at_b oldest tag first enabled
    have returned : t = returnForRetry h (some o.tag) s := takeHeadStatus_first own fits ready oldest tag first
    obtain ⟨state, known, holdings, timer, custody⟩ := firstFailure_head h (o := o) ready at_b
    rw [returned]
    exact ⟨queue_firstFailure h o enabled, state, known, holdings, timer, custody,
      firstFailure_enabled h (some o.tag) enabled⟩
  · intro s h payload o q b i cause x t own fits ready at_b oldest tag first queued outstanding place at_i due
    have returned : t = returnForRetry h (some o.tag) s := takeHeadStatus_first own fits ready oldest tag first
    have order : ∃ q ∈ (s.head h).queue, q.state = .outstanding ∧ q.action = .place ∧ q.location = some (.socket i) :=
      ⟨q, queued, outstanding, place, at_i⟩
    rw [returned]
    refine ⟨noPlaceInto_returnForRetry h _ (by rw [due]; exact Option.some_ne_none cause) order, fun filling => ?_,
      fun emptying pick => ?_, (returned_returnForRetry h _ s).not_outstanding, firstFailure_head h ready at_b⟩
    · exact Prod.mk.inj (firstFailure_filling h (some o.tag) (Prod.ext filling due) order)
    · exact Prod.mk.inj (firstFailure_emptying h (some o.tag) (Prod.ext emptying due) pick)
  · intro s h payload o loc p k r x t own read pick ready oldest tag retried at_loc place held device
    have taken : t = takeOutcome h .miss o s := takeHeadStatus_taken own read (.inl ⟨rfl, pick⟩) ready oldest tag
    obtain ⟨queue, state, known, base⟩ := finalMiss_head h o ready
    obtain ⟨pending, detail⟩ := finalMiss_event h (pickTag_eq at_loc place held device)
    obtain ⟨record, part, removed⟩ := finalMiss_custody h at_loc place held
    rw [taken.trans (if_neg retried)]
    refine ⟨queue, state, known, timer_returnForRetry h none _, pending, detail, record, part, removed, base,
      fun i at_p => ?_, fun i at_p => ?_⟩
    · have at_i : o.location = some (.socket i) := by
        rw [at_p] at place
        rw [at_loc, Location.eq_of_custody_socket place]
      obtain ⟨⟨off, flag, enabled⟩, pends⟩ := finalMiss_socket h at_i s
      exact ⟨off, flag, enabled, pends⟩
    · have at_i : o.location = some (.input i) := by
        rw [at_p] at place
        rw [at_loc, Location.eq_of_custody_input place]
      exact finalMiss_input h at_i (at_p ▸ held) device
  · intro s h payload o n k r x t own read place ready oldest tag retried nozzle held device
    have taken : t = takeOutcome h .stuck o s := takeHeadStatus_taken own read (.inr ⟨rfl, place⟩) ready oldest tag
    obtain ⟨state, base, known⟩ := finalStuck_head h o s
    obtain ⟨pending, detail⟩ := finalStuck_event (stuckTag_eq nozzle held device)
    have custody := (custody_stopStuck h (finalStuck h o s)).trans (custody_finalStuck h o s)
    rw [taken.trans (if_neg retried)]
    exact ⟨state, base, queue_stopStuck h _, timer_stopStuck h _, known, custody_recordAt custody, pending,
      raiseEvent_pends .headStopped h.num _, detail,
      fun i at_i => ⟨finalStuck_faults h at_i s, finalStuck_vacant h at_i, finalStuck_empty h at_i⟩,
      fun b y j at_b => finalStuck_hole h at_b s⟩

end Sys2Proof.Machine
end

section
/-! PROOFS. TRAY READY and TRAY WITHDRAW: O56. -/

namespace Sys2Proof.Machine

variable {s : State} {r : Request} {b : Fin 16} {y : TrayId} {g : TrayGeometry}

/-! ## The checks of a tray request (R156, R157) -/

theorem TrayId.ofNum_num (y : TrayId) : TrayId.ofNum y.num = some y := by cases y <;> rfl

theorem TrayId.ofNum_none {n : Nat} (outside : 2 ≤ n) : TrayId.ofNum n = none := by
  rw [TrayId.ofNum, if_neg (by omega), if_neg (by omega)]

theorem withTray_outside (act : Fin 16 → TrayId → State → State)
    (outside : 16 ≤ fieldAt r.fields 0 1 ∨ 2 ≤ fieldAt r.fields 1 1) : withTray r act s = respondRange r 0 s := by
  unfold withTray
  split
  · next bin tray =>
    rcases outside with outside | outside
    · exact absurd (bin.symm.trans (dif_neg (Nat.not_lt_of_le outside))) (by simp)
    · exact absurd (tray.symm.trans (TrayId.ofNum_none outside)) (by simp)
  · rfl

theorem withTray_names (act : Fin 16 → TrayId → State → State) (bin : fieldAt r.fields 0 1 = b.val)
    (tray : fieldAt r.fields 1 1 = y.num) : withTray r act s = act b y s := by
  unfold withTray
  rw [bin, tray, finOf_val, TrayId.ofNum_num]

theorem takeRequest_open {n : Nat} (act : State → State) (length : r.fields.length = n) (outside : s.lotState ≠ .bypass) :
    takeRequest r (r.fields.length == n) s.lotState.open act s = act s := by
  unfold takeRequest
  rw [if_pos (beq_iff_eq.2 length), if_pos (open_of_outside outside)]

theorem exec_trayReady (heard : s.hears r = true) (length : r.fields.length = 17) (outside : s.lotState ≠ .bypass) :
    exec (.trayReady r) s = .next (withTray r (declareTray r) s) :=
  congrArg Host.Outcome.next ((requestArrives_heard trayReadyRequest heard).trans (takeRequest_open _ length outside))

theorem exec_trayWithdraw (heard : s.hears r = true) (length : r.fields.length = 2) (outside : s.lotState ≠ .bypass) :
    exec (.trayWithdraw r) s = .next (withTray r (withdrawTray r) s) :=
  congrArg Host.Outcome.next ((requestArrives_heard trayWithdrawRequest heard).trans (takeRequest_open _ length outside))

/-! ## A tray declared (R88, R90) -/

/-- R90: the record of a tray just declared. -/
def TrayRecord.declared (g : TrayGeometry) : TrayRecord := ⟨.ready, some g, 0, 0, 0⟩

def TrayRecord.free (x : TrayRecord) : Prop := x.state = .absent ∨ x.state = .full

theorem readTray_none {fields : List Byte} (order : 2 ≤ fieldAt fields 16 1) : readTray fields = none := by
  unfold readTray
  rw [if_neg (by omega), if_neg (by omega)]

theorem readTray_some {fields : List Byte} (order : fieldAt fields 16 1 ≤ 1) : readTray fields =
    some ⟨fieldAt fields 2 4, fieldAt fields 6 4, fieldAt fields 10 1, fieldAt fields 11 1, fieldAt fields 12 2,
      fieldAt fields 14 2, if fieldAt fields 16 1 = 0 then .row else .serpentine⟩ := by
  unfold readTray
  by_cases row : fieldAt fields 16 1 = 0
  · rw [if_pos row, if_pos row]
  · rw [if_neg row, if_pos (by omega), if_neg row]

theorem declareTray_taken (taken : ¬ (s.bins[b].tray y).free) : declareTray r b y s = respond r .state s := if_neg taken

theorem declareTray_unordered (free : (s.bins[b].tray y).free) (order : readTray r.fields = none) :
    declareTray r b y s = respondRange r 0 s := by
  refine (if_pos free).trans ?_
  rw [order]

theorem declareTray_refused {i : Nat} (free : (s.bins[b].tray y).free) (order : readTray r.fields = some g)
    (fails : trayFailure s g = some i) : declareTray r b y s = respondRange r i s := by
  refine (if_pos free).trans ?_
  rw [order]
  dsimp only
  rw [fails]

theorem declareTray_accepted (free : (s.bins[b].tray y).free) (order : readTray r.fields = some g)
    (good : trayFailure s g = none) : declareTray r b y s =
      respondOk r [] (activateTray b y (s.modTray b y fun _ => .declared g)) := by
  refine (if_pos free).trans ?_
  rw [order]
  dsimp only
  rw [good]
  rfl

theorem Bin.setTray_setTray (x : Bin) (y : TrayId) (p q : TrayRecord) : (x.setTray y p).setTray y q = x.setTray y q := by
  cases y <;> rfl

theorem Bin.active_setTray (x : Bin) (y : TrayId) (p : TrayRecord) : (x.setTray y p).active = x.active := by
  cases y <;> rfl

/-- A change in one bin, and what it leaves unchanged. -/
theorem only_modBin (f : Bin → Bin) : s.modBin b f = { s with bins := (s.modBin b f).bins } ∧
    (∀ c : Fin 16, c ≠ b → (s.modBin b f).bins[c] = s.bins[c]) ∧ (s.modBin b f).bins[b] = f s.bins[b] :=
  ⟨rfl, fun c apart => (s.bin_modBin b c f).trans (if_neg apart.symm), (s.bin_modBin b b f).trans (if_pos rfl)⟩

/-- R90: a bin with an active tray keeps it. -/
theorem activateTray_waits (p : TrayRecord) (active : s.bins[b].active ≠ none) :
    activateTray b y (s.modTray b y fun _ => p) = s.modBin b fun x => x.setTray y p := by
  refine if_neg fun none => active ?_
  rwa [State.modTray, State.bin_modBin, if_pos rfl, Bin.active_setTray] at none

/-- R90: a bin that has none takes the tray, for both heads to plan on. -/
theorem activateTray_takes (p : TrayRecord) (vacant : s.bins[b].active = none) :
    activateTray b y (s.modTray b y fun _ => p) = opportunityBoth (s.modBin b fun x =>
      { x.setTray y { p with state := .active } with active := some y, blocked := false }) := by
  refine (if_pos ?_).trans (congrArg opportunityBoth ?_)
  · rw [State.modTray, State.bin_modBin, if_pos rfl, Bin.active_setTray, vacant]
  · simp only [State.modTray, State.modBin_modBin, Bin.tray_setTray_self, Bin.setTray_setTray]

/-! ## A tray withdrawn (R91, R92) -/

theorem withdrawTray_resting (resting : (s.bins[b].tray y).state = .ready ∨ (s.bins[b].tray y).state = .full) :
    withdrawTray r b y s = respondOk r [] (removeTray b y s) := by
  unfold withdrawTray
  rcases resting with e | e <;> (dsimp only; rw [e])

theorem withdrawTray_busy (busy : (s.bins[b].tray y).state = .closing ∨
    (s.bins[b].tray y).state = .active ∧ (s.bins[b].tray y).outstanding ≠ 0) : withdrawTray r b y s = respond r .busy s := by
  unfold withdrawTray
  dsimp only
  rcases busy with e | ⟨e, awaited⟩
  · rw [e]
  · rw [e]
    exact if_neg awaited

theorem withdrawTray_absent (absent : (s.bins[b].tray y).state = .absent) : withdrawTray r b y s = respond r .state s := by
  unfold withdrawTray
  dsimp only
  rw [absent]

theorem withdrawTray_active (active : (s.bins[b].tray y).state = .active) (settled : (s.bins[b].tray y).outstanding = 0) :
    withdrawTray r b y s = respondOk r [] (moveActive b y (removeTray b y s)) := by
  unfold withdrawTray
  dsimp only
  rw [active]
  exact if_pos settled

theorem tray_other_removeTray : (removeTray b y s).bins[b].tray y.other = s.bins[b].tray y.other := by
  rw [removeTray, State.modTray, State.bin_modBin, if_pos rfl, Bin.tray_setTray_other]

/-- R88: no tray takes over. -/
theorem moveActive_none (still : (s.bins[b].tray y.other).state ≠ .ready) : moveActive b y (removeTray b y s) =
    s.modBin b fun x => { x.setTray y .initial with active := none } := by
  unfold moveActive
  rw [tray_other_removeTray, if_neg still, removeTray, State.modTray, State.modBin_modBin]

/-- R88, R92: the other tray takes over, and its bin is no longer blocked. -/
theorem moveActive_other (ready : (s.bins[b].tray y.other).state = .ready) : moveActive b y (removeTray b y s) =
    opportunityBoth (s.modBin b fun x => { (x.setTray y .initial).setTray y.other { x.tray y.other with state := .active } with
      active := some y.other, blocked := false }) := by
  unfold moveActive
  rw [tray_other_removeTray, if_pos ready]
  rw [removeTray, State.modTray, State.modTray, State.modBin_modBin, State.modBin_modBin]
  simp only [Bin.tray_setTray_other]

/-! ## The two requests -/

/-- Settles O56. -/
theorem trayRequestsFollowTrayState : Obligations.TrayRequestsFollowTrayState := by
  intro s r heard outside
  refine ⟨fun beyond => ⟨fun length => ?_, fun length => ?_⟩,
    fun b y bin tray => ⟨fun length => ?declare, fun length => ?withdraw⟩⟩
  · rw [exec_trayReady heard length outside, withTray_outside _ beyond]
  · rw [exec_trayWithdraw heard length outside, withTray_outside _ beyond]
  case declare =>
    rw [exec_trayReady heard length outside, withTray_names _ bin tray]
    refine ⟨fun absent full => ?_, fun free => ⟨fun order => ?_, fun order i fails => ?_, fun order good active => ?_,
      fun order good vacant => ?_⟩⟩
    · rw [declareTray_taken (not_or.2 ⟨absent, full⟩)]
    · rw [declareTray_unordered free (readTray_none order)]
    · rw [declareTray_refused free (readTray_some order) fails]
    · rw [declareTray_accepted free (readTray_some order) good, activateTray_waits _ active]
      obtain ⟨rest, others, changed⟩ := only_modBin (s := s) (b := b) fun x => x.setTray y (.declared _)
      exact ⟨_, rfl, ⟨rest, others⟩, changed⟩
    · rw [declareTray_accepted free (readTray_some order) good, activateTray_takes _ vacant]
      obtain ⟨rest, others, changed⟩ := only_modBin (s := s) (b := b) fun x =>
        { x.setTray y { TrayRecord.declared _ with state := .active } with active := some y, blocked := false }
      exact ⟨_, rfl, ⟨rest, others⟩, changed⟩
  case withdraw =>
    rw [exec_trayWithdraw heard length outside, withTray_names _ bin tray]
    refine ⟨fun absent => ?_, fun busy => ?_, fun resting => ?_, fun active settled => ⟨fun still => ?_, fun ready => ?_⟩⟩
    · rw [withdrawTray_absent absent]
    · rw [withdrawTray_busy busy]
    · rw [withdrawTray_resting resting]
      obtain ⟨rest, others, changed⟩ := only_modBin (s := s) (b := b) fun x => x.setTray y .initial
      exact ⟨_, rfl, ⟨rest, others⟩, changed⟩
    · rw [withdrawTray_active active settled, moveActive_none still]
      obtain ⟨rest, others, changed⟩ := only_modBin (s := s) (b := b) fun x => { x.setTray y .initial with active := none }
      exact ⟨_, rfl, ⟨rest, others⟩, changed⟩
    · rw [withdrawTray_active active settled, moveActive_other ready]
      obtain ⟨rest, others, changed⟩ := only_modBin (s := s) (b := b) fun x =>
        { (x.setTray y .initial).setTray y.other { x.tray y.other with state := .active } with
          active := some y.other, blocked := false }
      exact ⟨_, rfl, ⟨rest, others⟩, changed⟩

end Sys2Proof.Machine
end

section
/-! PROOFS. What the laws of the rail, the queues and the trays read of a state: the operations of the blocks that leave it as
it is, and those that change it by cancelling pending orders alone. -/

namespace Sys2Proof.Machine

variable {s t : State}

/-! ## The view of the laws -/

/-- What the laws read of a head. -/
def HeadRecord.lawView (x : HeadRecord) : HeadRecord :=
  { x with
    known := none, ticket := none, nozzles := Vector.replicate 4 .initial, yieldDue := false, pointer := 0, passDue := false }

/-- What the laws of the rail, the queues and the trays read of a state. -/
structure LawView where
  heads : PerHead HeadRecord
  bins : Vector Bin 16
  lotState : LotState
  deck : Vector (Option Pos) 18
  order : PerHead Timer
  recover : PerHead Timer

def State.lawView (s : State) : LawView :=
  { heads := ⟨s.heads.west.lawView, s.heads.east.lawView⟩
    bins := mapVec (fun b => { b with blocked := false }) s.bins
    lotState := s.lotState
    deck := s.deck
    order := s.timers.order
    recover := s.timers.recover }

/-- A property that reads the view alone. -/
structure ReadsView (P : State → Prop) : Prop where
  same : ∀ {s t}, P s → t.lawView = s.lawView → P t

theorem head_of_lawView (e : t.lawView = s.lawView) (h : Head) : (t.head h).lawView = (s.head h).lawView := by
  have heads := congrArg LawView.heads e
  cases h
  · exact congrArg PerHead.west heads
  · exact congrArg PerHead.east heads

theorem queue_of_lawView (same : t.lawView = s.lawView) (h : Head) : (t.head h).queue = (s.head h).queue :=
  (congrArg HeadRecord.queue (head_of_lawView same h) :)

theorem lotState_of_lawView (e : t.lawView = s.lawView) : t.lotState = s.lotState := (congrArg LawView.lotState e :)

theorem deck_of_lawView (e : t.lawView = s.lawView) : t.deck = s.deck := (congrArg LawView.deck e :)

theorem order_of_lawView (e : t.lawView = s.lawView) (h : Head) : t.timer (.order h) = s.timer (.order h) :=
  congrArg (PerHead.get · h) (congrArg LawView.order e :)

theorem recover_of_lawView (e : t.lawView = s.lawView) (h : Head) : t.timer (.recover h) = s.timer (.recover h) :=
  congrArg (PerHead.get · h) (congrArg LawView.recover e :)

theorem bin_of_lawView (e : t.lawView = s.lawView) (b : Fin 16) :
    { t.bins[b] with blocked := false } = { s.bins[b] with blocked := false } := by
  have bins := congrArg (fun v : LawView => v.bins[b]) e
  simpa only [State.lawView, Fin.getElem_fin, mapVec_getElem] using bins

/-! ## Changes outside the view -/

theorem lawView_of_offLink (e : t.offLink = s.offLink) : t.lawView = s.lawView := by
  unfold State.lawView
  rw [offLink_heads e, offLink_bins e, offLink_lotState e, offLink_deck e, offLink_timers e]

theorem lawView_modHead (h : Head) (f : HeadRecord → HeadRecord) (keeps : ∀ x, (f x).lawView = x.lawView) (s : State) :
    (s.modHead h f).lawView = s.lawView := by
  cases h <;> simp only [State.lawView, State.modHead, State.setHead, State.head, PerHead.get, PerHead.set, keeps]

theorem lawView_modNozzle (h : Head) (n : Fin 4) (f : Nozzle → Nozzle) (s : State) :
    (s.modNozzle h n f).lawView = s.lawView :=
  lawView_modHead h (fun x => { x with nozzles := x.nozzles.set n (f x.nozzles[n]) }) (fun _ => rfl) s

theorem lawView_modCounters (f : Counters → Counters) (s : State) : (s.modCounters f).lawView = s.lawView := rfl

theorem lawView_setTimer (id : TimerId) (x : Timer) (off : ∀ h, id ≠ .order h ∧ id ≠ .recover h) (s : State) :
    (s.setTimer id x).lawView = s.lawView := by
  cases id with
  | order h => exact absurd rfl (off h).1
  | recover h => exact absurd rfl (off h).2
  | _ => rfl

theorem lawView_raiseEvent (k : EventKind) (d : Nat) (s : State) : (raiseEvent k d s).lawView = s.lawView :=
  lawView_of_offLink (offLink_raiseEvent k d s)

theorem lawView_produce (p : Port) (d k : Byte) (payload : List Byte) (s : State) :
    (produce p d k payload s).lawView = s.lawView := lawView_of_offLink (offLink_produce p d k payload s)

theorem lawView_complete (code : Byte) (x : Subject) (f : FinalCode) (s : State) :
    (complete code x f s).lawView = s.lawView := by
  obtain ⟨completions, wanted, same⟩ := offLink_complete code x f s
  exact (lawView_of_offLink same).trans rfl

theorem lawView_opportunity (h : Head) (s : State) : (opportunity h s).lawView = s.lawView := by
  obtain ⟨west, east, marks⟩ := opportunity_eq h s
  rw [marks]
  rfl

theorem lawView_opportunityBoth (s : State) : (opportunityBoth s).lawView = s.lawView :=
  (lawView_opportunity _ _).trans (lawView_opportunity _ s)

theorem lawView_opportunityServing (i : Fin 64) (s : State) : (opportunityServing i s).lawView = s.lawView := by
  obtain ⟨west, east, marks⟩ := opportunityServing_marks i s
  rw [marks]
  rfl

theorem lawView_endPlan (h : Head) (plan : Option Nat) (s : State) : (endPlan h plan s).lawView = s.lawView := by
  unfold endPlan
  split
  · rfl
  · split
    · rfl
    · exact lawView_opportunityBoth _

/-! ## Places -/

theorem lawView_setRecordAt (p : Place) (r : Option (Fin 96)) (s : State) : (s.setRecordAt p r).lawView = s.lawView := by
  cases p with
  | nozzle h n => exact lawView_modNozzle h n _ s
  | _ => rfl

theorem lawView_moveRecord (a b : Place) (s : State) : (moveRecord a b s).lawView = s.lawView := by
  unfold moveRecord
  split
  · rfl
  · exact (lawView_setRecordAt _ _ _).trans (lawView_setRecordAt _ _ s)

theorem lawView_releaseAt (p : Place) (s : State) : (releaseAt p s).lawView = s.lawView := by
  unfold releaseAt
  split
  · rfl
  · exact lawView_setRecordAt _ _ s

theorem lawView_removeFromNozzle (h : Head) (n : Fin 4) (s : State) : (removeFromNozzle h n s).lawView = s.lawView := by
  unfold removeFromNozzle
  split
  · exact lawView_releaseAt _ s
  · rfl

theorem lawView_clearSlot (i : Fin 8) (tag : Nat) (s : State) : (clearSlot i tag s).lawView = s.lawView :=
  (lawView_produce _ _ _ _ _).trans (lawView_opportunityBoth _)

/-! ## Sockets and groups -/

theorem lawView_foldl {α : Type} {f : State → α → State} (keeps : ∀ s a, (f s a).lawView = s.lawView) (l : List α)
    (s : State) : (l.foldl f s).lawView = s.lawView := by
  induction l generalizing s with
  | nil => rfl
  | cons a l ih => exact (ih (f s a)).trans (keeps s a)

theorem lawView_startGroup (g : Fin 16) (s : State) : (startGroup g s).lawView = s.lawView := by
  have sent := lawView_produce .downstream (s.nodeAddress 1) kindSiteStart
    (byte g :: (readyMembers s g).map fun (i : Fin 64) => byte i.val) s
  exact (lawView_foldl (f := beginTest) (fun _ _ => rfl) (readyMembers s g) _).trans sent

theorem lawView_fillUpdate (g : Fin 16) (s : State) : (fillUpdate g s).lawView = s.lawView := by
  unfold fillUpdate
  split
  · split <;> rfl
  · rfl

theorem lawView_groupUpdate (g : Fin 16) (s : State) : (groupUpdate g s).lawView = s.lawView := by
  unfold groupUpdate
  split
  · exact lawView_startGroup g s
  · exact lawView_fillUpdate g s

theorem lawView_updateGroupOf (i : Fin 64) (s : State) : (updateGroupOf i s).lawView = s.lawView := by
  unfold updateGroupOf
  split
  · exact lawView_groupUpdate _ s
  · rfl

theorem lawView_updateGroups (s : State) : (updateGroups s).lawView = s.lawView :=
  lawView_foldl (fun s g => lawView_groupUpdate g s) _ s

theorem lawView_enterTested (i : Fin 64) (s : State) : (enterTested i s).lawView = s.lawView :=
  lawView_opportunityServing i _

theorem lawView_becomeReady (i : Fin 64) (s : State) : (becomeReady i s).lawView = s.lawView := lawView_updateGroupOf i _

theorem lawView_clearPartFaults (i : Fin 64) (s : State) : (clearPartFaults i s).lawView = s.lawView := by
  unfold clearPartFaults
  split <;> rfl

theorem lawView_beginSoak (i : Fin 64) (s : State) : (beginSoak i s).lawView = s.lawView := by
  unfold beginSoak
  dsimp only
  split
  · exact (lawView_becomeReady i _).trans (lawView_clearPartFaults i s)
  · exact (lawView_clearPartFaults i s)

theorem lawView_decideResult (i : Fin 64) (code : Byte) (time : Nat) (s : State) :
    (decideResult i code time s).lawView = s.lawView := by
  have attempt (s : State) : (recordAttempt i code time s).lawView = s.lawView := by
    unfold recordAttempt
    dsimp only
    split <;> rfl
  have decided (s : State) : (setDisposition i code s).lawView = s.lawView := by
    unfold setDisposition
    split
    · rfl
    · dsimp only
      split <;> split
      · exact lawView_raiseEvent _ _ _
      · rfl
      · exact lawView_raiseEvent _ _ _
      · rfl
  exact (decided _).trans (attempt _)

theorem lawView_finishTest (i : Fin 64) (s : State) : (finishTest i s).lawView = s.lawView :=
  (lawView_updateGroupOf i _).trans (lawView_enterTested i s)

/-! ## Shuttle reports -/

theorem lawView_takeIn (i : Fin 8) (tag : Nat) (s : State) : (takeIn i tag s).lawView = s.lawView := by
  unfold takeIn
  split
  · exact lawView_raiseEvent _ _ s
  · unfold register
    split
    · rfl
    · exact lawView_opportunityBoth _

theorem lawView_takeShuttleReport (payload : List Byte) (s : State) : (takeShuttleReport payload s).lawView = s.lawView := by
  unfold takeShuttleReport
  dsimp only
  split
  · exact lawView_raiseEvent _ _ s
  · next i _ =>
    have emptied : (emptySlot i s).lawView = s.lawView := lawView_opportunityBoth _
    split
    · unfold reportHeld
      split
      · split
        · rfl
        · exact lawView_raiseEvent _ _ s
      · split
        · rfl
        · exact lawView_raiseEvent _ _ s
    · unfold reportVacant
      split
      · split
        · rfl
        · exact lawView_takeIn _ _ s
      · split
        · exact emptied
        · split
          · rfl
          · exact (lawView_takeIn _ _ _).trans emptied

end Sys2Proof.Machine
end

section
/-! PROOFS. An induction over the operations of the socket, disposition and order units for a property that reads the view of
the laws: what the cancelling of pending orders keeps, they keep. -/

namespace Sys2Proof.Machine

/-- A property that reads the view alone and that the cancelling of pending orders keeps. -/
structure Sheds (P : State → Prop) : Prop extends ReadsView P where
  cancelWhere : ∀ h (test : Order → Bool) {s}, P s → P (cancelWhere h test s)

variable {P : State → Prop} {s : State}

namespace Sheds

theorem cancelPlacesInto (c : Sheds P) (i : Fin 64) (hs : P s) : P (cancelPlacesInto i s) :=
  c.cancelWhere _ _ (c.cancelWhere _ _ hs)

/-! ## Conversions (R80 to R83) -/

theorem convert (c : Sheds P) (k : Fin 96) (hs : P s) : P (convert k s) := by
  have cancelled (plan : Option Nat) {s : State} (hs : P s) : P (cancelCarrying k plan s) := by
    unfold cancelCarrying
    split
    · exact hs
    · exact c.cancelWhere _ _ (c.cancelWhere _ _ hs)
  have carried {s : State} (hs : P s) : P (carriedOpportunity k s) := by
    unfold carriedOpportunity
    split
    · split
      · exact hs
      · exact c.same hs (lawView_opportunity _ s)
    · exact hs
  unfold Machine.convert
  split
  · split
    · refine carried (cancelled _ ?_)
      split
      · exact c.same hs (lawView_raiseEvent _ _ _)
      · exact c.same hs rfl
    · exact hs
  · exact hs

theorem convertAll (c : Sheds P) (hs : P s) : P (convertAll s) := foldl_keeps (fun _ k hs => c.convert k hs) _ hs

theorem reexamine (c : Sheds P) (hs : P s) : P (reexamine s) := by
  refine foldl_keeps (fun s k hs => ?_) _ hs
  split
  · split
    · exact c.convert k hs
    · exact hs
  · exact hs

/-! ## Sockets that leave service (R71) -/

theorem afterOff (c : Sheds P) (i : Fin 64) (hs : P s) : P (afterOff i s) :=
  c.same (c.reexamine (c.same hs (lawView_opportunityServing i s))) (lawView_updateGroupOf i _)

theorem goOff (c : Sheds P) (i : Fin 64) (hs : P s) : P (goOff i s) := by
  have off : P (completeDisable i (s.modSocket i fun x => { x with state := .off, pendingDisable := none })) :=
    c.same hs (lawView_complete _ _ _ _)
  unfold Machine.goOff
  dsimp only
  refine c.afterOff i ?_
  split
  · exact c.same off (lawView_raiseEvent _ _ _)
  · exact off

theorem enterEmpty (c : Sheds P) (i : Fin 64) (hs : P s) : P (enterEmpty i s) := by
  have emptied := c.same hs (lawView_opportunityServing i (s.modSocket i fun x => { x with state := .empty }))
  unfold Machine.enterEmpty
  dsimp only
  split
  · exact c.goOff i emptied
  · exact emptied

theorem setPendingDisable (c : Sheds P) (i : Fin 64) (cause : DisableCause) (hs : P s) :
    P (setPendingDisable i cause s) := by
  have flagged := c.same (c.reexamine (c.cancelPlacesInto i
    (c.same (t := s.modSocket i fun x => { x with pendingDisable := some cause }) hs rfl))) (lawView_updateGroupOf i _)
  unfold Machine.setPendingDisable
  dsimp only
  split
  · exact c.goOff i flagged
  · exact flagged

theorem noteFault (c : Sheds P) (i : Fin 64) (kind : FaultKind) (hs : P s) : P (noteFault i kind s) := by
  unfold Machine.noteFault checkThreshold
  dsimp only
  split
  · exact c.setPendingDisable i _ (c.same hs rfl)
  · exact c.same hs rfl

theorem purgedPlace (c : Sheds P) (p : Place) (hs : P s) : P (purgedPlace p s) := by
  cases p with
  | socket i =>
    have emptied : P (Machine.enterEmpty i (if s.sockets[i].state = .soaking then cancelTimer (.soak i) s else s)) := by
      refine c.enterEmpty i ?_
      split
      · exact c.same hs rfl
      · exact hs
    show P (purgedSocket i s)
    unfold purgedSocket
    dsimp only
    split
    · split
      · exact c.same emptied (lawView_fillUpdate _ _)
      · exact emptied
    · exact emptied
  | nozzle h n => exact hs
  | input i => exact c.same hs (lawView_opportunityBoth s)
  | retest i => exact c.same hs (lawView_opportunityBoth s)

theorem dropUnfitted (c : Sheds P) (i : Fin 64) (hs : P s) : P (dropUnfitted s i) := by
  unfold Machine.dropUnfitted
  split
  · exact c.afterOff i (c.same hs rfl)
  · exact hs

/-! ## Results (R63, R65) -/

theorem takeResult (c : Sheds P) (i : Fin 64) (code : Byte) (time : Nat) (hs : P s) : P (takeResult i code time s) := by
  have decided := c.same hs (lawView_decideResult i code time s)
  unfold Machine.takeResult
  dsimp only
  refine c.same ?_ (lawView_finishTest i _)
  split
  · exact c.noteFault i _ decided
  · exact c.same decided rfl

theorem takeTimeout (c : Sheds P) (i : Fin 64) (hs : P s) : P (takeTimeout i s) := by
  have noted := c.noteFault i .timeout (c.same hs (lawView_decideResult i s.lot.timeoutCode s.lot.testLimit s))
  unfold Machine.takeTimeout
  dsimp only
  refine c.same ?_ ((lawView_modCounters _ _).trans ((lawView_raiseEvent _ _ _).trans (lawView_finishTest i _)))
  split
  · exact c.noteFault i _ noted
  · exact noted

/-! ## Orders (R124, R126, R128) -/

/-- R126: an order that goes back to a queue. -/
theorem revertSocket (c : Sheds P) (o : Order) (hs : P s) : P (revertSocket o s) := by
  unfold Machine.revertSocket
  split
  · split
    · exact c.same hs (lawView_enterTested _ s)
    · exact hs
  · next i _ _ =>
    have emptied : P (if s.sockets[i].state = .filling then
        opportunityServing i (s.modSocket i fun x => { x with state := .empty }) else s) := by
      split
      · exact c.same hs (lawView_opportunityServing i _)
      · exact hs
    dsimp only
    generalize (if s.sockets[i].state = .filling then
      opportunityServing i (s.modSocket i fun x => { x with state := .empty }) else s) = v at emptied
    split
    · split
      · exact c.goOff i (c.cancelPlacesInto i emptied)
      · exact c.cancelPlacesInto i emptied
    · exact emptied
  · exact hs

/-- R128: the place of a device that is lost. -/
theorem lostFrom (c : Sheds P) (o : Order) (hs : P s) : P (lostFrom o s) := by
  have released (p : Place) : P (countRemoved (releaseAt p s)) := c.same hs (lawView_releaseAt p s)
  unfold Machine.lostFrom
  split
  · next i _ =>
    have noted := c.noteFault i .miss (c.same
      (t := (countRemoved (releaseAt (.socket i) s)).modSocket i fun x => { x with state := .off, pendingDisable := none })
      (released (.socket i)) rfl)
    exact c.afterOff i (c.same noted ((lawView_complete _ _ _ _).trans (lawView_raiseEvent _ _ _)))
  · exact c.same (released _) (lawView_clearSlot _ _ _)
  · exact c.same (released _) (lawView_opportunityBoth _)
  · exact hs

/-- R124: the effect of an order resolved as done, but for a pocket. -/
theorem doneEffect (c : Sheds P) (h : Head) {o : Order} (off : ∀ b y j, o.location ≠ some (.pocket b y j)) (hs : P s) :
    P (doneEffect h o s) := by
  have moved (a b : Place) : P (moveRecord a b s) := c.same hs (lawView_moveRecord a b s)
  unfold Machine.doneEffect
  split
  · unfold socketPicked
    split
    · exact c.same (moved _ _) rfl
    · exact c.enterEmpty _ (moved _ _)
  · exact c.same (moved _ _) (lawView_clearSlot _ _ _)
  · exact c.same (moved _ _) (lawView_opportunityBoth _)
  · split
    · exact c.same (moved _ _) (lawView_beginSoak _ _)
    · exact c.enterEmpty _ (c.same hs (lawView_clearPartFaults _ s))
  · exact c.same (moved _ _) (lawView_opportunityBoth _)
  · next at_pocket _ => exact absurd at_pocket (off _ _ _)
  · exact hs

/-- R127: the effect of an order resolved as not done, but for a pocket. -/
theorem notDoneEffect (c : Sheds P) {o : Order} (off : ∀ b y j, o.location ≠ some (.pocket b y j)) (hs : P s) :
    P (notDoneEffect o s) := by
  unfold Machine.notDoneEffect
  split
  · split
    · exact c.same hs (lawView_enterTested _ s)
    · exact hs
  · split
    · exact c.enterEmpty _ hs
    · exact hs
  · unfold holeOf
    split
    · next at_pocket => exact absurd at_pocket (off _ _ _)
    · exact hs

/-- R128: the location of a final stuck, but for a pocket. -/
theorem stuckAt (c : Sheds P) {o : Order} (off : ∀ b y j, o.location ≠ some (.pocket b y j)) (hs : P s) :
    P (stuckAt o s) := by
  unfold Machine.stuckAt
  split
  · dsimp only
    refine c.noteFault _ _ ?_
    split
    · exact c.enterEmpty _ (c.same hs rfl)
    · exact c.same hs rfl
  · exact c.same hs rfl
  · unfold holeOf
    split
    · next at_pocket => exact absurd at_pocket (off _ _ _)
    · exact hs

theorem raiseStuck (c : Sheds P) (tag : Option Nat) (hs : P s) : P (raiseStuck tag s) := by
  unfold Machine.raiseStuck
  split
  · exact c.same hs (lawView_raiseEvent _ _ s)
  · exact c.same hs (lawView_raiseEvent _ _ _)

theorem compareNozzles (c : Sheds P) (h : Head) (presence : Byte) (hs : P s) : P (compareNozzles h presence s) := by
  have one (s : State) (n : Fin 4) : (compareNozzle h presence s n).lawView = s.lawView := by
    unfold compareNozzle
    split
    · split
      · exact lawView_modNozzle _ _ _ s
      · rfl
    · exact (lawView_modNozzle _ _ _ _).trans (lawView_removeFromNozzle h n s)
  have all := c.same hs (lawView_foldl one (List.finRange 4) s)
  unfold Machine.compareNozzles
  dsimp only
  split
  · exact c.same all (lawView_raiseEvent _ _ _)
  · exact all

end Sheds

end Sys2Proof.Machine
end

section
/-! PROOFS. An induction over the end of a command for a property that reads the view of the laws: what a grant, an order that
is made to wait, and a yield PARK with its grant keep, `finish` keeps. -/

namespace Sys2Proof.Machine

variable {P : State → Prop} {s : State} {h : Head}

/-! ## Waiting orders (R113, R119, R142) -/

/-- R113, R119: a queue in which only the front pending order is WAITING_ZONE. -/
def Order.demoted (front : Option Nat) (o : Order) : Order :=
  if o.state = .waitingZone ∧ front ≠ some o.tag then { o with state := .pending } else o

theorem demote_eq (x : HeadRecord) :
    demote x = { x with queue := x.queue.map (Order.demoted ((frontPending x).map Order.tag)) } := rfl

/-- R143: the head that waits no longer has no yield due. -/
def HeadRecord.synced (x : HeadRecord) : HeadRecord :=
  { demote x with yieldDue := if waits (demote x) then x.yieldDue else false }

theorem heads_syncYield (h : Head) (s : State) : (syncYield h s).heads = (s.modHead h HeadRecord.synced).heads := by
  have head := State.head_modHead_self s h demote
  unfold syncYield
  dsimp only
  rw [head]
  unfold State.modHead HeadRecord.synced
  split
  · cases h <;> rfl
  · cases h <;> rfl

theorem head_syncYield (h g : Head) (s : State) :
    (syncYield h s).head g = if h = g then (s.head h).synced else s.head g :=
  (congrArg (PerHead.get · g) (heads_syncYield h s)).trans (State.head_modHead s h g _)

theorem lawView_syncYield (h : Head) (s : State) : (syncYield h s).lawView = (s.modHead h demote).lawView := by
  unfold syncYield
  dsimp only
  split
  · rfl
  · exact (lawView_modHead h (fun x => { x with yieldDue := false }) (fun _ => rfl) _).trans
      (lawView_setTimer (.yield h) .clear (fun _ => ⟨nofun, nofun⟩) _)

/-! ## A yield PARK (R143) -/

/-- R143: the PARK that a head is sent. -/
def yieldOrder (x : HeadRecord) : Order := { newOrder .park none none none none .yield with tag := nextTag x }

/-- R143: a head whose PARK has joined its queue, at the grant point that this is. -/
def parked (h : Head) (s : State) : State :=
  closeGrant h (raiseEvent .yieldPark h.num (syncYield h (insertPark h s)))

theorem heads_parked (h : Head) (s : State) : (parked h s).heads = (syncYield h (insertPark h s)).heads := by
  have raised := offLink_heads (offLink_raiseEvent .yieldPark h.num (syncYield h (insertPark h s)))
  exact raised

theorem head_insertPark (h : Head) (s : State) : (insertPark h s).head h =
    { s.head h with
      queue := insertFront (yieldOrder (s.head h)) (s.head h).queue, tagCounter := nextTag (s.head h) } :=
  State.head_modHead_self s h fun x => { x with queue := insertFront (yieldOrder x) x.queue, tagCounter := nextTag x }

theorem head_insertPark_other (h : Head) (s : State) : (insertPark h s).head h.other = s.head h.other :=
  State.head_modHead_other s h fun x => { x with queue := insertFront (yieldOrder x) x.queue, tagCounter := nextTag x }

theorem head_parked (h : Head) (s : State) : (parked h s).head h = ((insertPark h s).head h).synced :=
  (congrArg (PerHead.get · h) (heads_parked h s)).trans ((head_syncYield h h _).trans (if_pos rfl))

theorem head_parked_other (h : Head) (s : State) : (parked h s).head h.other = s.head h.other :=
  (congrArg (PerHead.get · h.other) (heads_parked h s)).trans
    ((head_syncYield h h.other _).trans ((if_neg (ne_other h)).trans (head_insertPark_other h s)))

theorem lawView_parked (h : Head) (s : State) : (parked h s).lawView = ((insertPark h s).modHead h demote).lawView :=
  (lawView_raiseEvent .yieldPark h.num _).trans (lawView_syncYield h _)

theorem demoted_of_not_waiting {o : Order} {front : Option Nat} (moves : o.state ≠ .waitingZone) : o.demoted front = o :=
  if_neg fun both => moves both.1

theorem demoted_outstanding (o : Order) (front : Option Nat) : (o.demoted front).state = .outstanding ↔ o.state = .outstanding := by
  unfold Order.demoted
  split
  · next both => simp [both.1]
  · rfl

/-- R143: the PARK stands in front of every pending order. -/
theorem frontPending_parked (h : Head) (s : State) :
    frontPending ((parked h s).head h) = some (yieldOrder (s.head h)) := by
  let d := Order.demoted ((frontPending ((insertPark h s).head h)).map Order.tag)
  refine (frontPending_some _ _).2 ⟨((s.head h).queue.filter Order.isGranted).map d,
    ((s.head h).queue.filter fun q => !q.isGranted).map d, ?_, fun q mem => ?_, by rintro (e | e) <;> cases e⟩
  · have own : d (yieldOrder (s.head h)) = yieldOrder (s.head h) := demoted_of_not_waiting nofun
    rw [head_parked, ← own, ← List.map_cons, ← List.map_append]
    show List.map d ((insertPark h s).head h).queue = _
    rw [head_insertPark]
    rfl
  · obtain ⟨p, granted, rfl⟩ := List.mem_map.1 mem
    have state := (isGranted_iff p).1 (List.mem_filter.1 granted).2
    rw [show d p = p from demoted_of_not_waiting (by rintro e; rw [e] at state; rcases state with e | e <;> cases e)]
    exact state

theorem parkPossible_iff (h : Head) (s : State) : parkPossible h s = true ↔
    s.lotState.active = true ∧ (s.head h).state = .ready ∧ (∀ q ∈ (s.head h).queue, q.state ≠ .outstanding) ∧
      ∃ p, (s.head h).known = some p ∧ inwardOfPark h p (s.parkPos h) = true ∧
        acceptsClaim h (spanOf p (s.parkPos h)) s = true := by
  unfold parkPossible
  dsimp only
  rw [Bool.and_eq_true, Bool.and_eq_true, Bool.and_eq_true, outstandingCount_eq_zero, beq_iff_eq, and_assoc, and_assoc]
  cases (s.head h).known with
  | none => simp
  | some p => simp

/-- R140: what an acceptance test reads. -/
theorem acceptsClaim_heads {t : State} {c : Span} (own : (t.head h).holdings = (s.head h).holdings)
    (other : (t.head h.other).holdings = (s.head h.other).holdings) : acceptsClaim h c t = acceptsClaim h c s := by
  cases h with
  | west => exact congrArg₂ (fun (w e : Span) => clearance (w.join c) e) own other
  | east => exact congrArg₂ (fun (e w : Span) => clearance w (e.join c)) own other

theorem outstanding_parked {h : Head} (idle : ∀ q ∈ (s.head h).queue, q.state ≠ .outstanding) :
    ∀ q ∈ ((parked h s).head h).queue, q.state ≠ .outstanding := by
  intro q mem
  rw [head_parked] at mem
  obtain ⟨p, inside, rfl⟩ := List.mem_map.1 mem
  rw [head_insertPark] at inside
  rw [ne_eq]
  change ¬ (Order.demoted _ p).state = _
  rw [demoted_outstanding]
  intro out
  rcases List.mem_append.1 inside with mem | mem
  · exact idle p (List.mem_filter.1 mem).1 out
  · rcases List.mem_cons.1 mem with rfl | mem
    · cases out
    · exact idle p (List.mem_filter.1 mem).1 out

/-- R143: the PARK of a yield is granted at the grant point that its insertion is. -/
theorem grantable_parked (possible : parkPossible h s = true) :
    ∃ r : Resolved, grantable h (parked h s) = some [(yieldOrder (s.head h), r)] := by
  obtain ⟨active, ready, idle, p, known, -, accepts⟩ := (parkPossible_iff h s).1 possible
  have view := lawView_parked h s
  have head := head_parked h s
  rw [head_insertPark] at head
  have state : ((parked h s).head h).state = .ready := by rw [head]; exact ready
  have position : ((parked h s).head h).known = some p := by rw [head]; exact known
  have holdings : ((parked h s).head h).holdings = (s.head h).holdings := by rw [head]; rfl
  have single : pairPlace ((parked h s).head h) (yieldOrder (s.head h)) = none := (pairPlace_none _ _).2 (.inl nofun)
  have target := lastTarget_known (outstanding_parked idle)
  have park : (parked h s).parkPos h = s.parkPos h := by
    have deck : (parked h s).deck = s.deck :=
      deck_of_lawView (s := (insertPark h s).modHead h demote) view
    cases h <;> simp only [State.parkPos, deck]
  have asks : mayAsk h (yieldOrder (s.head h)) (parked h s) = true := by
    refine (mayAsk_single single).2 ⟨state, (active_iff _).1 ?_, ?_, fun _ _ _ nozzle => absurd rfl nozzle⟩
    · rw [lotState_of_lawView view]
      exact active
    · have none' := beq_iff_eq.1 ((outstandingCount_eq_zero _).2 (outstanding_parked idle))
      unfold outstandingCount at none'
      omega
  rw [position] at target
  have claim : claimSpan (claimOf h (yieldOrder (s.head h)) (parked h s)) = spanOf p (s.parkPos h) := by
    rw [claimOf_single single, target, ← park, ← headReference_park (s := parked h s) (o := yieldOrder (s.head h)) h (.inl rfl)]
    rfl
  have accepted : acceptsClaim h (claimSpan (claimOf h (yieldOrder (s.head h)) (parked h s))) (parked h s) = true := by
    rw [claim, acceptsClaim_heads holdings (congrArg HeadRecord.holdings (head_parked_other h s)), accepts]
  rw [grantable_front (frontPending_parked h s), asks, accepted, claimOf_single single]
  exact ⟨_, rfl⟩

/-! ## Properties that the end of a command keeps -/

/-- A property that reads the view alone and that grants, waiting and yields keep. -/
structure Grants (P : State → Prop) : Prop extends ReadsView P where
  demote : ∀ h {s}, P s → P (s.modHead h demote)
  wait : ∀ h o {s}, P s → frontPending (s.head h) = some o → o.state = .pending →
    P (modOrder h o.tag (fun o => { o with state := .waitingZone }) s)
  grant : ∀ h claim {s}, P s → grantable h s = some claim → P (grantClaim h claim s)
  park : ∀ h {s} r, P s → parkPossible h s = true → grantable h (parked h s) = some [(yieldOrder (s.head h), r)] →
    P (grantClaim h [(yieldOrder (s.head h), r)] (parked h s))

namespace Grants

theorem syncYield (c : Grants P) (h : Head) (hs : P s) : P (syncYield h s) :=
  c.same (c.demote h hs) (lawView_syncYield h s)

theorem markWaiting (c : Grants P) (h : Head) (hs : P s) : P (markWaiting h s) := by
  unfold Machine.markWaiting
  split
  · exact hs
  · next o front =>
    split
    · next waiting => exact c.same (c.wait h o hs front waiting.1) (lawView_setTimer (.yield h) _ (fun _ => ⟨nofun, nofun⟩) _)
    · exact hs

theorem considerFront (c : Grants P) (h : Head) : ∀ (k : Nat) {s}, P s → P (considerFront h k s)
  | 0, _, hs => hs
  | k + 1, s, hs => by
    unfold Machine.considerFront
    split
    · next claim granted => exact c.considerFront h k (c.syncYield h (c.grant h claim hs granted))
    · exact c.markWaiting h hs

theorem takeGrantPoint (c : Grants P) (h : Head) (hs : P s) : P (takeGrantPoint h s) :=
  c.considerFront h 3 (c.same (t := closeGrant h s) hs rfl)

theorem takeYieldCheck (c : Grants P) (h : Head) (hs : P s) : P (takeYieldCheck h s) := by
  unfold Machine.takeYieldCheck
  dsimp only
  generalize unchecked : ({ s with points := { s.points with yieldCheck := s.points.yieldCheck.set h false } } : State) = t
  have ht : P t := c.same hs (by rw [← unchecked]; rfl)
  split
  · next falls =>
    have possible := ((Bool.and_eq_true _ _).mp falls).2
    let u := t.modHead h fun x => { x with yieldDue := false }
    have hu : P u := c.same ht (lawView_modHead h (fun x => { x with yieldDue := false }) (fun _ => rfl) t)
    have still : parkPossible h.other u = true := by
      rw [← possible]
      cases h <;> rfl
    obtain ⟨r, granted⟩ := grantable_parked still
    have taken : makeYieldPark h t = Machine.considerFront h.other 3 (parked h.other u) := rfl
    rw [taken, considerFront_some granted]
    exact c.considerFront _ 2 (c.syncYield _ (c.park _ r hu still granted))
  · exact ht

theorem settleLoop (c : Grants P) : ∀ (k : Nat) {s}, P s → P (settleLoop k s)
  | 0, _, hs => hs
  | k + 1, s, hs => by
    have taken (m : Move) {s : State} (hs : P s) : P (takeMove m s) := by
      cases m with
      | grant h => exact c.takeGrantPoint h hs
      | yieldCheck h => exact c.takeYieldCheck h hs
    unfold Machine.settleLoop
    split
    · exact hs
    · exact c.settleLoop k (taken _ hs)
    · exact c.settleLoop k (taken _ (c.same hs rfl))

theorem settle (c : Grants P) (hs : P s) : P (settle s) :=
  c.same (c.settleLoop 16 (c.syncYield .east (c.syncYield .west hs))) rfl

theorem endEvent (c : Grants P) (hs : P s) : P (endEvent s) := by
  unfold Machine.endEvent checkDrain
  split
  · exact c.same (c.settle hs) (lawView_complete _ _ _ _)
  · exact c.settle hs

theorem atOnceLoop (c : Grants P) : ∀ (k : Nat) {s}, P s → P (atOnceLoop k s)
  | 0, _, hs => hs
  | k + 1, s, hs => by
    have fallen (h : Head) {s : State} (hs : P s) : P (yieldAtOnce h s) :=
      c.endEvent (c.same hs ((lawView_modHead h (fun x => { x with yieldDue := true }) (fun _ => rfl)
        (cancelTimer (.yield h) s)).trans (lawView_setTimer (.yield h) .clear (fun _ => ⟨nofun, nofun⟩) s)))
    unfold Machine.atOnceLoop
    split
    · exact hs
    · exact c.atOnceLoop k (fallen _ hs)
    · exact c.atOnceLoop k (fallen _ (c.same hs rfl))

theorem takeAtOnce (c : Grants P) (hs : P s) : P (takeAtOnce s) := c.atOnceLoop 8 hs

/-- The end of a command keeps the property. -/
theorem finish (c : Grants P) (hs : P s) : P (finish s) := c.takeAtOnce (c.endEvent hs)

end Grants

end Sys2Proof.Machine
end

section
/-! PROOFS. An induction over the planning passes for a property that reads the view of the laws: what a new pending order
keeps, with the pocket given for it, the passes keep. -/

namespace Sys2Proof.Machine

variable {P : State → Prop} {s t : State} {h : Head}

/-! ## New orders (R94, R95, R114) -/

theorem lawView_enqueue (o : Order) (same : t.lawView = s.lawView) : (enqueue h o t).lawView = (enqueue h o s).lawView := by
  let join (x : HeadRecord) : HeadRecord := { x with queue := x.queue ++ [{ o with tag := nextTag x }], tagCounter := nextTag x }
  let view (v : LawView) : LawView := { v with heads := v.heads.set h (join (v.heads.get h)) }
  have joined (u : State) : (enqueue h o u).lawView = view u.lawView := by cases h <;> rfl
  rw [joined, joined, same]

theorem lawView_reserved (h : Head) (p : Nat) (k : Option (Fin 96)) (n : Fin 4) (s : State) :
    (reserveNozzle p h n (reservePart p k s)).lawView = s.lawView := by
  cases k <;> exact lawView_modNozzle h n (fun x => { x with plan := some p }) _

theorem lawView_orderPick (p : Nat) (loc : Location) (k : Option (Fin 96)) (n : Fin 4) (same : t.lawView = s.lawView) :
    (orderPick h p loc k n t).lawView = (enqueue h (newOrder .pick (some n) (some loc) k (some p) .planner) s).lawView :=
  lawView_enqueue _ ((lawView_reserved h p k n t).trans same)

theorem lawView_orderPlace (p : Nat) (loc : Location) (k : Fin 96) (n : Fin 4) (same : t.lawView = s.lawView) :
    (orderPlace h p loc k n t).lawView =
      (enqueue h (newOrder .place (some n) (some loc) (some k) (some p) .planner) s).lawView :=
  lawView_enqueue _ ((lawView_reserved h p (some k) n t).trans same)

theorem lawView_movePointer (h : Head) (p : Nat) (s : State) : (movePointer h p s).lawView = s.lawView :=
  lawView_modHead h (fun x => { x with pointer := (p + 1) % s.serviceList.length }) (fun _ => rfl) s

theorem lawView_stowPlan (loc : Location) (k : Fin 96) (n : Fin 4) (s : State) : (stowPlan h loc k n s).lawView =
    (enqueue h (newOrder .place (some n) (some loc) (some k) (some s.planCount) .planner) s).lawView := by
  refine lawView_orderPlace (s := s) _ _ _ _ ?_
  split <;> rfl

/-- R98: the view tells how many orders of a head are pending. -/
theorem pendingCount_of_lawView (same : t.lawView = s.lawView) (h : Head) :
    pendingCount (t.head h) = pendingCount (s.head h) :=
  (congrArg pendingCount (head_of_lawView same h) :)

theorem pendingCount_enqueue {o : Order} (pending : o.state = .pending) (s : State) :
    pendingCount ((enqueue h o s).head h) = pendingCount (s.head h) + 1 := by
  have head := State.head_modHead_self s h fun x =>
    { x with queue := x.queue ++ [{ o with tag := nextTag x }], tagCounter := nextTag x }
  have counts : Order.isPending { o with tag := nextTag (s.head h) } = true := (isPending_iff _).2 (.inl pending)
  show pendingCount ((s.modHead h _).head h) = _
  rw [head]
  simp [pendingCount, List.filter_append, counts]

theorem pendingCount_le (fewer : Drops s t) : pendingCount (t.head h) ≤ pendingCount (s.head h) :=
  ((fewer.head h).queue.filter _).length_le

/-! ## Properties that the passes keep -/

/-- What every order of the planner is when it joins a queue. -/
structure Order.Planned (o : Order) : Prop where
  pending : o.state = .pending
  action : o.action ≠ .park

/-- A property that reads the view alone and that cancelled orders and new pending ones keep. -/
structure Plans (P : State → Prop) : Prop extends Sheds P where
  join : ∀ h {o s}, P s → o.Planned → (∀ b y j, o.location ≠ some (.pocket b y j)) → pendingCount (s.head h) ≤ 2 →
    P (enqueue h o s)
  stow : ∀ h t {o b y s}, P s → o.Planned → stowTray s t = some (b, y) →
    o.location = some (.pocket b y (s.bins[b].tray y).allocated) → pendingCount (s.head h) ≤ 1 →
    P (enqueue h o (askPocket t s).1)

namespace Plans

theorem pick (c : Plans P) {p : Option Nat} {loc : Location} {k : Option (Fin 96)} {n : Option (Fin 4)} (hs : P s)
    (off : ∀ b y j, loc ≠ .pocket b y j) (room : pendingCount (s.head h) ≤ 1) :
    P (enqueue h (newOrder .pick n (some loc) k p .planner) s) :=
  c.join h hs ⟨rfl, Action.noConfusion⟩ (fun b y j at_pocket => off b y j (Option.some.inj at_pocket)) (by omega)

theorem place (c : Plans P) {p : Option Nat} {loc : Location} {k : Option (Fin 96)} {n : Option (Fin 4)} (hs : P s)
    (off : ∀ b y j, loc ≠ .pocket b y j) (room : pendingCount (s.head h) ≤ 2) :
    P (enqueue h (newOrder .place n (some loc) k p .planner) s) :=
  c.join h hs ⟨rfl, Action.noConfusion⟩ (fun b y j at_pocket => off b y j (Option.some.inj at_pocket)) room

theorem unload (c : Plans P) (hs : P s) (room : pendingCount (s.head h) ≤ 1) (ht : tryUnload h s = some t) : P t := by
  have opened (k : PlanKind) (p : Nat) (i : Fin 64) (pos : Nat) :
      (reserveSocket p i (movePointer h pos (openPlan h k s))).lawView = s.lawView :=
    (lawView_movePointer h pos (openPlan h k s)).trans rfl
  unfold tryUnload at ht
  split at ht
  · cases ht
  · split at ht
    · cases ht
    · dsimp only at ht
      split at ht <;> cases ht
      · refine c.same ?_ (lawView_orderPick _ _ _ _ (opened _ _ _ _))
        exact c.pick hs (fun _ _ _ => nofun) room
      · refine c.same ?_ (lawView_orderPlace _ _ _ _ (lawView_orderPick _ _ _ _ (opened _ _ _ _)))
        refine c.place (c.pick hs (fun _ _ _ => nofun) room) (fun _ _ _ => nofun) ?_
        rw [pendingCount_enqueue rfl]
        omega

theorem load (c : Plans P) (hs : P s) (room : pendingCount (s.head h) ≤ 1) (ht : tryLoad h s = some t) : P t := by
  unfold tryLoad at ht
  split at ht
  · cases ht
  · split at ht
    · cases ht
    · split at ht <;> cases ht
      refine c.same ?_ (lawView_orderPlace (s := s) _ _ _ _ (lawView_movePointer _ _ _))
      exact c.place hs (fun _ _ _ => nofun) (by omega)

theorem fetch (c : Plans P) (hs : P s) (room : pendingCount (s.head h) ≤ 1) (ht : tryFetch h s = some t) : P t := by
  unfold tryFetch at ht
  split at ht
  · dsimp only at ht
    split at ht
    · cases ht
      refine c.same ?_ (lawView_orderPick (s := s) _ _ _ _ rfl)
      exact c.pick hs (fun _ _ _ => nofun) room
    · split at ht
      · cases ht
      · split at ht <;> cases ht
        refine c.same ?_ (lawView_orderPick (s := s) _ _ _ _ rfl)
        exact c.pick hs (fun _ _ _ => nofun) room
  · cases ht

/-- R92: whether a bin is blocked is outside the view. -/
theorem lawView_blocked (b : Fin 16) (s : State) : (s.modBin b fun x => { x with blocked := true }).lawView = s.lawView := by
  refine congrArg (fun bins => { s.lawView with bins := bins }) (Vector.ext fun i inside => ?_)
  simp only [mapVec_getElem, State.modBin, Vector.getElem_set]
  split
  · next own => subst own; rfl
  · rfl

theorem lawView_askPocket_none {b : Fin 16} (nothing : stowTray s b = none) : (askPocket b s).1.lawView = s.lawView := by
  rw [askPocket_none nothing]
  dsimp only
  split
  · exact lawView_blocked b s
  · exact (lawView_raiseEvent _ _ _).trans (lawView_blocked b s)

theorem stowFirst (c : Plans P) : ∀ (cs : List (Fin 4 × Fin 96 × PartRecord)) {s}, P s → pendingCount (s.head h) ≤ 1 →
    P (stowFirst h cs s).1 ∧ ((stowFirst h cs s).2 = false → (stowFirst h cs s).1.lawView = s.lawView)
  | [], _, hs, _ => ⟨hs, fun _ => rfl⟩
  | x :: cs, s, hs, room => by
    unfold Machine.stowFirst
    split
    · exact c.stowFirst cs hs room
    · next b _ =>
      rcases found : stowTray s b with - | ⟨d, y⟩
      · have asked := askPocket_none found
        have view := lawView_askPocket_none found
        have given : askPocket b s = ((askPocket b s).1, none) := Prod.ext rfl (by rw [asked])
        rw [given]
        obtain ⟨kept, idle⟩ := c.stowFirst cs (c.same hs view) (by rw [pendingCount_of_lawView view]; exact room)
        exact ⟨kept, fun none => (idle none).trans view⟩
      · have given : askPocket b s = ((askPocket b s).1, some (.pocket d y (s.bins[d].tray y).allocated)) :=
          Prod.ext rfl (by rw [askPocket_some found])
        rw [given]
        exact ⟨c.same (c.stow h b hs ⟨rfl, Action.noConfusion⟩ found rfl room) (lawView_stowPlan _ _ _ _), nofun⟩

theorem stowRetest (c : Plans P) (hs : P s) (room : pendingCount (s.head h) ≤ 1) :
    P (stowRetest h s).1 ∧ ((stowRetest h s).2 = false → pendingCount ((stowRetest h s).1.head h) ≤ 1) := by
  unfold Machine.stowRetest
  split
  · split
    · exact ⟨hs, fun _ => room⟩
    · next n k r _ =>
      split
      · refine ⟨c.same ?_ (lawView_stowPlan _ _ _ _), nofun⟩
        exact c.place hs (fun _ _ _ => nofun) (by omega)
      · have full : P (overflow k r.tag s) := c.same (c.convert k hs) (lawView_raiseEvent _ _ _)
        have shed : pendingCount ((overflow k r.tag s).head h) ≤ 1 :=
          (pendingCount_le ((drops_convert k s).trans (drops_raiseEvent _ _ _))).trans room
        dsimp only
        split
        · next r' _ =>
          obtain ⟨first, idle⟩ := c.stowFirst [(n, k, r')] full shed
          exact ⟨first, fun none => by rw [pendingCount_of_lawView (idle none)]; exact shed⟩
        · exact ⟨full, fun _ => shed⟩
  · exact ⟨hs, fun _ => room⟩

theorem lawView_checkStarved (h : Head) (s : State) : (checkStarved h s).lawView = s.lawView := by
  unfold checkStarved
  split
  · rfl
  · split
    · rfl
    · split
      · rfl
      · exact lawView_raiseEvent _ _ s

theorem tryStow (c : Plans P) (hs : P s) (room : pendingCount (s.head h) ≤ 1) :
    P (tryStow h s).1 ∧ ((tryStow h s).2 = false → pendingCount ((tryStow h s).1.head h) ≤ 1) := by
  obtain ⟨first, idle⟩ := c.stowFirst (carried s h) hs room
  unfold Machine.tryStow
  split
  · next given => rw [given] at first; exact ⟨first, nofun⟩
  · next u given =>
    rw [given] at first idle
    exact c.stowRetest first (by rw [pendingCount_of_lawView (idle rfl)]; exact room)

theorem onePass (c : Plans P) (hs : P s) (room : pendingCount (s.head h) ≤ 1) : P (onePass h s).1 := by
  have looked := lawView_checkStarved h s
  obtain ⟨stowed, still⟩ := c.tryStow (c.same hs looked) (h := h) (by rw [pendingCount_of_lawView looked]; exact room)
  unfold Machine.onePass
  split
  · next yields => exact c.unload hs room yields
  · split
    · next yields => exact c.load hs room yields
    · split
      · next yields => rw [yields] at stowed; exact stowed
      · next u idle =>
        rw [idle] at stowed still
        split
        · next yields => exact c.fetch stowed (still rfl) yields
        · exact stowed

theorem passes (c : Plans P) (h : Head) : ∀ (k : Nat) {s}, P s → P (passes h k s)
  | 0, _, hs => hs
  | k + 1, s, hs => by
    unfold Machine.passes
    split
    · next meets =>
      have room : pendingCount (s.head h) ≤ 1 := by
        simp only [passCondition, Bool.and_eq_true, decide_eq_true_eq] at meets
        omega
      have passed := c.onePass hs room
      split
      · next yields => rw [yields] at passed; exact c.passes h k passed
      · next idle => rw [idle] at passed; exact passed
    · exact hs

end Plans

end Sys2Proof.Machine
end

section
/-! PROOFS. An induction over every command for the laws of the rail, the queues and the trays: a property that reads the view
of the laws and that the operations on orders, trays and heads keep is kept by every command and every step, `OrderLaw.exec`
and `OrderLaw.step`. -/

namespace Sys2Proof.Machine

variable {P : State → Prop} {s t : State} {h : Head}

/-- A property of the view of the laws that the operations on orders, trays and heads keep. -/
structure OrderLaw (P : State → Prop) : Prop extends Plans P, Grants P where
  power : ∀ a q n, P { State.reset with ownAddress := a, pending := q, draws := n }
  soft : ∀ {s}, P s → P (softReset s)
  lot : ∀ l {s}, P s → (l.working = true →
    s.lotState.working = true ∨ s.deck[(16 : Fin 18)].isSome = true ∧ s.deck[(17 : Fin 18)].isSome = true) → P (changeLot l s)
  ticked : ∀ {s}, P s → P (endTick s)
  deck : ∀ v {s}, P s → s.lotState.working = false →
    (∀ p, v[(16 : Fin 18)] = some p → s.deck[(16 : Fin 18)] = some p ∨ zoneOf p.x ≤ 6) →
    (∀ p, v[(17 : Fin 18)] = some p → s.deck[(17 : Fin 18)] = some p ∨ 9 ≤ zoneOf p.x ∧ zoneOf p.x ≤ 15) →
    P { s with deck := v }
  status : ∀ h payload {s}, P s → P (takeHeadStatus h payload s)
  stop : ∀ h {s}, P s → (s.timer (.order h)).due = true → P (stopTimeout h (cancelTimer (.order h) s))
  offline : ∀ h {s}, P s → (s.timer (.recover h)).due = true → P (recoverTimeout h (cancelTimer (.recover h) s))
  recovering : ∀ h mode {s}, P s → (s.head h).state ≠ .ready → P (beginRecovery h mode s)
  ends : ∀ {s}, P s → s.lotState.working = true → (∀ h, (s.head h).queue = []) → P (changeLot .idle (parkHeads s))
  declare : ∀ b y g {s}, P s → (s.bins[b].tray y).free → trayFailure s g = none →
    P (activateTray b y (s.modTray b y fun _ => .declared g))
  withdraw : ∀ b y {s}, P s → (s.bins[b].tray y).state = .ready ∨ (s.bins[b].tray y).state = .full → P (removeTray b y s)
  withdrawActive : ∀ b y {s}, P s → (s.bins[b].tray y).state = .active → (s.bins[b].tray y).outstanding = 0 →
    P (moveActive b y (removeTray b y s))

namespace OrderLaw

theorem link (c : OrderLaw P) (e : t.offLink = s.offLink) (hs : P s) : P t := c.same hs (lawView_of_offLink e)

theorem answered (c : OrderLaw P) (r : Request) (code : ResultCode) (n : Nat) (fs : List Byte) (hs : P s) :
    P (respondWith r code n fs s) := c.link (offLink_respondWith _ _ _ _ _) hs

theorem takeRequest (c : OrderLaw P) (r : Request) (a b : Bool) {act : State → State} (hs : P s)
    (ha : b = true → P (act s)) : P (takeRequest r a b act s) := by
  unfold Machine.takeRequest
  split
  · split
    · next accepted => exact ha accepted
    · exact c.answered _ _ _ _ hs
  · exact c.answered _ _ _ _ hs

theorem listFull (c : OrderLaw P) (r : Request) (hs : P s) : P (respondListFull r s) :=
  c.answered _ _ _ _ (c.same hs rfl)

/-! ## Lot requests -/

theorem enterActive (c : OrderLaw P) (l : LotState) (hs : P s) (deck : l.working = true →
    s.lotState.working = true ∨ s.deck[(16 : Fin 18)].isSome = true ∧ s.deck[(17 : Fin 18)].isSome = true) :
    P (enterActive l s) := by
  have opened (s : State) : (openPoints s).lawView = s.lawView := rfl
  exact c.same (c.lot l hs deck) ((opened _).trans ((lawView_opportunityBoth _).trans (lawView_updateGroups _)))

theorem lawView_zeroPointers (s : State) : (zeroPointers s).lawView = s.lawView :=
  (lawView_modHead .east (fun x => { x with pointer := 0 }) (fun _ => rfl) _).trans
    (lawView_modHead .west (fun x => { x with pointer := 0 }) (fun _ => rfl) s)

theorem lawView_clearForLot (s : State) : (clearForLot s).lawView = s.lawView := by
  refine (lawView_zeroPointers _).trans (congrArg (fun bins => { s.lawView with bins := bins }) (Vector.ext fun i inside => ?_))
  simp only [mapVec_getElem]

theorem isSome_of_allWritten {α : Type} {n : Nat} {v : Vector (Option α) n} (all : allWritten v = true) (i : Fin n) :
    v[i].isSome = true :=
  List.all_eq_true.1 all _ (Vector.mem_toList_iff.2 (Vector.getElem_mem i.isLt))

/-- R158: a lot that starts has a written deck. -/
theorem deckWritten (unhindered : startObstacle s = none) (i : Fin 18) : s.deck[i].isSome = true := by
  unfold startObstacle at unhindered
  split at unhindered
  · cases unhindered
  · split at unhindered
    · cases unhindered
    · split at unhindered
      · cases unhindered
      · next written => exact isSome_of_allWritten (by simpa using written) i

theorem lotStart (c : OrderLaw P) (r : Request) (hs : P s) : P (lotStartRequest r s) := by
  refine c.takeRequest r _ _ hs fun _ => ?_
  split
  · exact c.answered _ _ _ _ hs
  · next unhindered =>
    have cleared := c.same hs (lawView_clearForLot s)
    exact c.finish (c.answered _ _ _ _ (c.enterActive _ cleared fun _ =>
      .inr ⟨deckWritten unhindered 16, deckWritten unhindered 17⟩))

theorem lotPause (c : OrderLaw P) (r : Request) (hs : P s) : P (lotPauseRequest r s) := by
  refine c.takeRequest r _ _ hs fun working => ?_
  split
  · exact c.answered _ _ _ _ hs
  · exact c.answered _ _ _ _ (c.lot _ (c.same (t := { s with remembered := some s.lotState }) hs rfl) fun _ => .inl working)

theorem lotResume (c : OrderLaw P) (r : Request) (hs : P s) : P (lotResumeRequest r s) := by
  refine c.takeRequest r _ _ hs fun paused => ?_
  have working : s.lotState.working = true := by rw [beq_iff_eq.1 paused]; rfl
  exact c.finish (c.answered _ _ _ _ (c.enterActive _ (c.same (t := { s with remembered := none }) hs rfl) fun _ =>
    .inl working))

theorem drainTicket (c : OrderLaw P) (r : Request) (hs : P s) : P (drainTicket r s) :=
  c.answered _ _ _ _ (c.same hs rfl)

theorem lotDrain (c : OrderLaw P) (r : Request) (hs : P s) : P (lotDrainRequest r s) := by
  refine c.takeRequest r _ _ hs fun _ => ?_
  split
  · next run =>
    unfold drainFromRun
    split
    · exact c.listFull r hs
    · have working : (convertAll s).lotState.working = true := by rw [(drops_convertAll s).lotState, run]; rfl
      have settled := c.settle (c.enterActive .drain (c.convertAll hs) fun _ => .inl working)
      dsimp only
      split
      · exact c.answered _ _ _ _ settled
      · exact c.takeAtOnce (c.drainTicket r settled)
  · unfold drainAgain
    split
    · exact c.answered _ _ _ _ hs
    · split
      · exact c.answered _ _ _ _ hs
      · split
        · exact c.listFull r hs
        · exact c.drainTicket r hs

theorem lawView_returnSlot (s : State) (i : Fin 8) : (returnSlot s i).lawView = s.lawView := by
  unfold returnSlot
  dsimp only
  split
  · exact lawView_releaseAt (.input i) s
  · rfl

/-- R38: the devices that leave custody at the end of a lot leave the view as it is. -/
theorem lawView_emptyCustody (s : State) : (emptyCustody s).lawView = s.lawView := by
  have emptied (h : Head) (s : State) : (removeFromNozzles h s).lawView = s.lawView :=
    lawView_foldl (fun s n => lawView_removeFromNozzle h n s) _ s
  exact (emptied _ _).trans ((emptied _ _).trans (lawView_foldl lawView_returnSlot _ s))

/-- R160: a drained lot has no order queued. -/
theorem queues_of_drained (drained : drainCondition s = true) (h : Head) : (s.head h).queue = [] := by
  unfold drainCondition at drained
  simp only [Bool.and_eq_true, List.isEmpty_iff] at drained
  obtain ⟨⟨-, west⟩, east⟩ := drained
  cases h <;> assumption

theorem lotEnd (c : OrderLaw P) (r : Request) (hs : P s) : P (lotEndRequest r s) := by
  refine c.takeRequest r _ _ hs fun ends => c.answered _ _ _ _ ?_
  obtain ⟨drain, drained⟩ := Bool.and_eq_true_iff.1 ends
  have view := lawView_emptyCustody s
  refine c.ends (c.same hs view) ?_ fun h => ?_
  · rw [lotState_of_lawView view, beq_iff_eq.1 drain]
    rfl
  · rw [queue_of_lawView view, queues_of_drained drained]

theorem bypassEnter (c : OrderLaw P) (r : Request) (hs : P s) : P (bypassEnterRequest r s) :=
  c.takeRequest r _ _ hs fun _ => c.answered _ _ _ _ (c.lot _ hs nofun)

theorem bypassExit (c : OrderLaw P) (r : Request) (hs : P s) : P (bypassExitRequest r s) :=
  c.takeRequest r _ _ hs fun _ => c.answered _ _ _ _ (c.lot _ hs nofun)

theorem reset (c : OrderLaw P) (r : Request) (hs : P s) : P (resetRequest r s) :=
  c.takeRequest r _ _ hs fun _ => foldl_keeps (fun _ x hs => c.link (offLink_produceCompletion x _ _) hs) _
    (c.answered _ _ _ _ (c.soft hs))

/-! ## Tables, status and events -/

/-- R43, R45: the entries an accepted DECK write puts have passed their tests. -/
theorem putFrom_checked {α : Type} {n : Nat} {f : Nat → List Byte → Option α} : ∀ {es : List (List Byte)} {start : Nat}
    {xs : List α} {v : Vector (Option α) n}, readEntries f start es = .ok xs → ∀ {i : Fin n} {x : α},
    (putFrom v start (xs.map some))[i] = some x → v[i] = some x ∨ ∃ bs, f i bs = some x
  | [], start, xs, v, read, i, x, holds => by
    cases read
    exact .inl holds
  | e :: es, start, xs, v, read, i, x, holds => by
    cases first : f start e with
    | none => simp [readEntries, first] at read
    | some y =>
      cases rest : readEntries f (start + 1) es with
      | error k => simp [readEntries, first, rest] at read
      | ok ys =>
        simp only [readEntries, first, rest, Except.ok.injEq] at read
        subst read
        rcases putFrom_checked rest holds with before | passed
        · simp only [Fin.getElem_fin, Vector.getElem_setIfInBounds] at before
          split at before
          · next own => exact .inr ⟨e, by rw [← own, first]; exact before⟩
          · exact .inl before
        · exact .inr passed

theorem checkDeck_west {bs : List Byte} {p : Pos} (passed : checkDeck s 16 bs = some p) : zoneOf p.x ≤ 6 := by
  unfold checkDeck at passed
  split at passed
  · cases passed
  · rw [if_neg (by decide), if_pos rfl] at passed
    split at passed <;> cases passed
    assumption

theorem checkDeck_east {bs : List Byte} {p : Pos} (passed : checkDeck s 17 bs = some p) :
    9 ≤ zoneOf p.x ∧ zoneOf p.x ≤ 15 := by
  unfold checkDeck at passed
  split at passed
  · cases passed
  · rw [if_neg (by decide), if_neg (by decide)] at passed
    split at passed <;> cases passed
    assumption

/-- R45: an accepted write changes its table, and one of SITE_GEOMETRY the sockets it takes out of service as well. -/
theorem writeTable (c : OrderLaw P) {table : TableId} {n : Nat} {es : List (List Byte)} {u : State} (hs : P s)
    (rests : (s.lotState.working && table.isProtected) = false) (written : writeTable table n es s = .ok u) : P u := by
  cases table
  case node =>
    simp only [Machine.writeTable] at written
    split at written <;> cases written
    exact c.same hs rfl
  case serviceList => cases written; exact hs
  case siteGeometry =>
    simp only [Machine.writeTable] at written
    obtain ⟨xs, -, rfl⟩ := DeckLaw.map_ok_inv written
    exact foldl_keeps (fun _ i hs => c.dropUnfitted i hs) _ (c.same hs rfl)
  case deck =>
    simp only [Machine.writeTable] at written
    obtain ⟨xs, read, rfl⟩ := DeckLaw.map_ok_inv written
    exact c.deck _ hs (by simpa [TableId.isProtected] using rests)
      (fun p holds => (putFrom_checked read holds).imp_right fun ⟨_, passed⟩ => checkDeck_west passed)
      (fun p holds => (putFrom_checked read holds).imp_right fun ⟨_, passed⟩ => checkDeck_east passed)
  all_goals
    simp only [Machine.writeTable] at written
    obtain ⟨xs, -, rfl⟩ := DeckLaw.map_ok_inv written
    exact c.same hs rfl

theorem writeServiceList (c : OrderLaw P) (r : Request) (m : Nat) (bs : List Byte) (hs : P s) :
    P (writeServiceList r m bs s) := by
  have listed {u : State} (hu : P u) : P (answerServiceList r u) := c.answered _ _ _ _ (c.same hu rfl)
  unfold Machine.writeServiceList
  split
  · exact listed hs
  · extract_lets fresh start
    split
    · exact c.answered _ _ _ _ hs
    · split
      · exact c.answered _ _ _ _ hs
      · refine c.same (listed ?_) (lawView_opportunityBoth _)
        split
        · next ks _ _ => exact c.same (s := { s with serviceList := ks }) (c.same hs rfl) (lawView_zeroPointers _)
        · exact c.same hs rfl

theorem writeRequest (c : OrderLaw P) (r : Request) (hs : P s) : P (writeRequest r s) := by
  unfold Machine.writeRequest
  extract_lets mode
  split
  · exact c.answered _ _ _ _ hs
  · split
    · exact c.answered _ _ _ _ hs
    · exact c.writeServiceList _ _ _ hs
  · split
    · exact c.answered _ _ _ _ hs
    · split
      · exact c.answered _ _ _ _ (c.same hs (lawView_raiseEvent _ _ s))
      · next rests =>
        extract_lets start entries
        split
        · exact c.answered _ _ _ _ hs
        · split
          · exact c.answered _ _ _ _ hs
          · next written =>
            have wrote := c.writeTable hs (Bool.not_eq_true _ ▸ rests) written
            exact c.answered _ _ _ _ (c.same wrote rfl)

theorem tableRead (c : OrderLaw P) (r : Request) (hs : P s) : P (tableReadRequest r s) := by
  refine c.takeRequest r _ _ hs fun _ => ?_
  unfold readRequest
  dsimp only
  split
  · exact c.answered _ _ _ _ hs
  · split
    · exact c.answered _ _ _ _ hs
    · split
      · exact c.answered _ _ _ _ hs
      · split <;> exact c.answered _ _ _ _ hs

theorem cursorReset (c : OrderLaw P) (r : Request) (hs : P s) : P (cursorResetRequest r s) := by
  refine c.takeRequest r _ _ hs fun _ => ?_
  unfold cursorRequest
  split
  · exact c.answered _ _ _ _ hs
  · exact c.answered _ _ _ _ (c.same hs rfl)

theorem statusRead (c : OrderLaw P) (r : Request) (hs : P s) : P (statusReadRequest r s) := by
  refine c.takeRequest r _ _ hs fun _ => ?_
  unfold statusRequest
  dsimp only
  split
  · exact c.answered _ _ _ _ hs
  · split <;> exact c.answered _ _ _ _ hs

theorem eventAck (c : OrderLaw P) (r : Request) (hs : P s) : P (eventAckRequest r s) := by
  refine c.takeRequest r _ _ hs fun _ => ?_
  unfold ackEvents
  split
  · exact c.answered _ _ _ _ hs
  · exact c.answered _ _ _ _ (c.same hs rfl)

theorem eventMask (c : OrderLaw P) (r : Request) (hs : P s) : P (eventMaskRequest r s) := by
  refine c.takeRequest r _ _ hs fun _ => ?_
  unfold maskEvents
  split
  · exact c.answered _ _ _ _ hs
  · refine foldl_keeps (fun s k hs => ?_) _ (c.answered _ _ _ _ (c.same hs rfl))
    unfold announce
    dsimp only
    split <;> exact c.link (by simp) hs

/-! ## Requests on the deck -/

theorem withSocket (c : OrderLaw P) (r : Request) {act : Fin 64 → State → State} (hs : P s) (ha : ∀ i, P (act i s)) :
    P (withSocket r act s) := by
  unfold Machine.withSocket
  split
  · exact c.answered _ _ _ _ hs
  · exact ha _

theorem socketEnable (c : OrderLaw P) (r : Request) (hs : P s) : P (socketEnableRequest r s) := by
  refine c.takeRequest r _ _ hs fun _ => c.withSocket r hs fun i => ?_
  unfold enableSocket
  split
  · split
    · exact c.answered _ _ _ _ (c.enterEmpty i hs)
    · exact c.answered _ _ _ _ hs
  · split <;> exact c.answered _ _ _ _ hs

theorem socketDisable (c : OrderLaw P) (r : Request) (hs : P s) : P (socketDisableRequest r s) := by
  refine c.takeRequest r _ _ hs fun _ => c.withSocket r hs fun i => ?_
  unfold disableSocket
  split
  · exact c.answered _ _ _ _ hs
  · split
    · exact c.finish (c.answered _ _ _ _ (c.setPendingDisable _ _ hs))
    · split
      · exact c.answered _ _ _ _ hs
      · split
        · exact c.listFull r hs
        · have ticketed := c.same (t := takeTicket codeSocketDisable (.socket i) s) hs rfl
          refine c.finish (c.answered _ _ _ _ ?_)
          unfold requestDisable
          split
          · exact ticketed
          · exact c.setPendingDisable _ _ ticketed

theorem socketClear (c : OrderLaw P) (r : Request) (hs : P s) : P (socketClearRequest r s) :=
  c.takeRequest r _ _ hs fun _ => c.withSocket r hs fun i =>
    c.answered _ _ _ _ (c.same (t := s.modSocket i fun x => { x with faults := .none, faultCount := 0 }) hs rfl)

theorem withTray (c : OrderLaw P) (r : Request) {act : Fin 16 → TrayId → State → State} (hs : P s)
    (ha : ∀ b y, P (act b y s)) : P (withTray r act s) := by
  unfold Machine.withTray
  split
  · exact ha _ _
  · exact c.answered _ _ _ _ hs

theorem trayReady (c : OrderLaw P) (r : Request) (hs : P s) : P (trayReadyRequest r s) := by
  refine c.takeRequest r _ _ hs fun _ => c.withTray r hs fun b y => ?_
  unfold declareTray
  dsimp only
  split
  · next free =>
    split
    · exact c.answered _ _ _ _ hs
    · split
      · exact c.answered _ _ _ _ hs
      · next fits => exact c.answered _ _ _ _ (c.declare b y _ hs free fits)
  · exact c.answered _ _ _ _ hs

theorem trayWithdraw (c : OrderLaw P) (r : Request) (hs : P s) : P (trayWithdrawRequest r s) := by
  refine c.takeRequest r _ _ hs fun _ => c.withTray r hs fun b y => ?_
  unfold withdrawTray
  dsimp only
  split
  · exact c.answered _ _ _ _ hs
  · next ready => exact c.answered _ _ _ _ (c.withdraw b y hs (.inl ready))
  · next full => exact c.answered _ _ _ _ (c.withdraw b y hs (.inr full))
  · next active =>
    split
    · next settled => exact c.answered _ _ _ _ (c.withdrawActive b y hs active settled)
    · exact c.answered _ _ _ _ hs
  · exact c.answered _ _ _ _ hs

theorem headRecover (c : OrderLaw P) (r : Request) (hs : P s) : P (headRecoverRequest r s) := by
  refine c.takeRequest r _ _ hs fun _ => ?_
  unfold recoverChecked
  split
  · exact c.answered _ _ _ _ hs
  · next h _ =>
    split
    · exact c.answered _ _ _ _ hs
    · unfold recoverHead
      split
      · exact c.answered _ _ _ _ hs
      · exact c.answered _ _ _ _ hs
      · next rests _ =>
        split
        · exact c.listFull r hs
        · exact c.finish (c.answered _ _ _ _ (c.recovering h _ hs rests))

theorem partPurge (c : OrderLaw P) (r : Request) (hs : P s) : P (partPurgeRequest r s) := by
  refine c.takeRequest r _ _ hs fun _ => ?_
  unfold purgeSelected
  split
  · exact c.answered _ _ _ _ hs
  · split
    · exact c.answered _ _ _ _ hs
    · split
      · exact c.answered _ _ _ _ hs
      · unfold purgeRecord
        split
        · exact c.answered _ _ _ _ hs
        · split
          · exact c.answered _ _ _ _ hs
          · exact c.finish (c.answered _ _ _ _ (c.purgedPlace _
              (c.same hs ((lawView_modCounters _ _).trans (lawView_releaseAt _ s)))))

theorem locate (c : OrderLaw P) (r : Request) (hs : P s) : P (locateHandler r s) := by
  refine c.takeRequest r _ _ hs fun _ => ?_
  unfold locateRequest
  split
  · exact c.answered _ _ _ _ hs
  · split
    · exact c.answered _ _ _ _ hs
    · split <;> exact c.answered _ _ _ _ hs

/-! ## Expiries -/

/-- R150: what the owner of an expired timer does. -/
theorem expiry (c : OrderLaw P) (id : TimerId) (hs : P s) (due : (s.timer id).due = true) :
    P (ownerActs id (cancelTimer id s)) := by
  cases id with
  | soak i => exact c.same (c.same (t := cancelTimer (.soak i) s) hs rfl) (lawView_becomeReady i _)
  | watchdog i => exact c.takeTimeout i (c.same (t := cancelTimer (.watchdog i) s) hs rfl)
  | fill g =>
    exact c.same (c.same (t := cancelTimer (.fill g) s) hs rfl) ((lawView_raiseEvent _ _ _).trans
      ((lawView_modCounters _ _).trans (lawView_startGroup g _)))
  | order h => exact c.stop h hs due
  | yield h =>
    exact c.same (c.same (t := cancelTimer (.yield h) s) hs rfl)
      (lawView_modHead h (fun x => { x with yieldDue := true }) (fun _ => rfl) _)
  | recover h => exact c.offline h hs due

theorem takeExpiry (c : OrderLaw P) (id : TimerId) (hs : P s) : P (takeExpiry id s) := by
  unfold Machine.takeExpiry
  split
  · next due => exact c.finish (c.expiry id hs (Bool.and_eq_true_iff.1 due).2)
  · exact hs

theorem takeDueLoop (c : OrderLaw P) : ∀ (k : Nat) {s}, P s → P (takeDueLoop k s)
  | 0, _, hs => hs
  | k + 1, s, hs => by
    unfold Machine.takeDueLoop
    split
    · exact hs
    · exact c.takeDueLoop k (c.takeExpiry _ hs)
    · exact c.takeDueLoop k (c.takeExpiry _ (c.same hs rfl))

theorem takeDue (c : OrderLaw P) (hs : P s) : P (takeDue s) := by
  unfold Machine.takeDue
  split
  · exact hs
  · exact c.takeDueLoop _ hs

/-! ## Arrivals -/

theorem deliver (c : OrderLaw P) (o : Owner) (f : Frame) (hs : P s) : P (deliver o f s).1 := by
  cases o with
  | site =>
    show P (siteDelivery f s).1
    unfold siteDelivery
    split
    · exact c.same hs (lawView_raiseEvent _ _ s)
    · split
      · dsimp only
        exact c.takeResult _ _ _ hs
      · exact c.same hs (lawView_raiseEvent _ _ s)
  | head h => exact c.status _ _ hs
  | shuttle => exact c.same hs (lawView_takeShuttleReport _ s)

theorem requestByCode (c : OrderLaw P) (code : Byte) (r : Request) (hs : P s) : P (requestByCode code r s) := by
  have either {q : Prop} [Decidable q] {a b : State} (ha : P a) (hb : P b) : P (if q then a else b) := by
    split <;> assumption
  unfold Machine.requestByCode
  refine either (c.lotStart r hs) (either (c.lotPause r hs) (either (c.lotResume r hs) ?_))
  refine either (c.lotDrain r hs) (either (c.lotEnd r hs) (either (c.bypassEnter r hs) ?_))
  refine either (c.bypassExit r hs) (either (c.reset r hs) (either (c.takeRequest r _ _ hs fun _ => c.writeRequest r hs) ?_))
  refine either (c.tableRead r hs) (either (c.cursorReset r hs) (either (c.statusRead r hs) ?_))
  refine either (c.eventAck r hs) (either (c.eventMask r hs) (either (c.socketEnable r hs) ?_))
  refine either (c.socketDisable r hs) (either (c.socketClear r hs) (either (c.trayReady r hs) ?_))
  refine either (c.trayWithdraw r hs) (either (c.headRecover r hs) (either (c.partPurge r hs) ?_))
  exact either (c.locate r hs) (c.answered _ _ _ _ hs)

theorem arrive (c : OrderLaw P) (p : Port) (bytes : List Byte) (hs : P s) : P (arrive p bytes s) := by
  have failed : P (failFrame p s) := c.link (offLink_failFrame _ _) hs
  unfold Machine.arrive
  split
  · exact hs
  · split
    · exact failed
    · split
      · unfold classify
        split
        · unfold consume
          split
          · split
            · exact hs
            · split
              · exact c.requestByCode _ _ hs
              · exact failed
          · split
            · exact hs
            · split
              · exact c.finish (c.deliver _ _ hs)
              · exact failed
        · split
          · exact c.link (offLink_forward _ _ _) hs
          · unfold carry
            split
            · exact c.link (offLink_offer _ _ _) hs
            · split
              · exact c.link (offLink_offer _ _ _) (c.finish (c.deliver _ _ hs))
              · exact failed
      · exact failed

theorem requestArrives (c : OrderLaw P) (r : Request) {act : Request → State → State}
    (ha : ∀ {s}, P s → P (act r s)) (hs : P s) : P (requestArrives r act (Machine.takeDue s)) := by
  have due := c.takeDue hs
  unfold Machine.requestArrives
  split
  · exact due
  · split
    · exact due
    · split
      · exact c.link (offLink_raiseEvent _ _ _) due
      · exact ha due

/-! ## Every command and every step -/

theorem planningPass (c : OrderLaw P) (h : Head) (hs : P s) : P (planningPass h s) := by
  unfold Machine.planningPass
  split
  · exact hs
  · exact c.finish (c.passes h _ (c.same hs (lawView_modHead h (fun x => { x with passDue := false }) (fun _ => rfl) s)))

/-- A law that holds before a command holds after it. -/
theorem exec (c : OrderLaw P) (i : Instr) (hs : P s) : ∀ t, exec i s = .next t → P t := by
  intro t ht
  cases i <;> cases ht
  case powerOn => exact c.power _ _ _
  case resetNAssertion => exact c.same hs rfl
  case tick =>
    split
    · exact hs
    · exact c.ticked (c.takeDue hs)
  case planningPass h => exact c.planningPass h (c.takeDue hs)
  case frameArrival => exact c.arrive _ _ (c.takeDue hs)
  case siteReport => exact c.arrive _ _ (c.takeDue hs)
  case headStatus => exact c.arrive _ _ (c.takeDue hs)
  case shuttleReport => exact c.arrive _ _ (c.takeDue hs)
  case transmissionEnd => exact c.link (offLink_endTransmission _ _) (c.takeDue hs)
  case soakExpiry => exact c.takeExpiry _ hs
  case watchdogExpiry => exact c.takeExpiry _ hs
  case fillWaitExpiry => exact c.takeExpiry _ hs
  case orderTimerExpiry => exact c.takeExpiry _ hs
  case yieldTimerExpiry => exact c.takeExpiry _ hs
  case recoverTimerExpiry => exact c.takeExpiry _ hs
  case lotStart r => exact c.requestArrives r (c.lotStart r) hs
  case lotPause r => exact c.requestArrives r (c.lotPause r) hs
  case lotResume r => exact c.requestArrives r (c.lotResume r) hs
  case lotDrain r => exact c.requestArrives r (c.lotDrain r) hs
  case lotEnd r => exact c.requestArrives r (c.lotEnd r) hs
  case bypassEnter r => exact c.requestArrives r (c.bypassEnter r) hs
  case bypassExit r => exact c.requestArrives r (c.bypassExit r) hs
  case reset r => exact c.requestArrives r (c.reset r) hs
  case tableWrite r => exact c.requestArrives r (fun hs => c.takeRequest r _ _ hs fun _ => c.writeRequest r hs) hs
  case tableRead r => exact c.requestArrives r (c.tableRead r) hs
  case cursorReset r => exact c.requestArrives r (c.cursorReset r) hs
  case statusRead r => exact c.requestArrives r (c.statusRead r) hs
  case eventAck r => exact c.requestArrives r (c.eventAck r) hs
  case eventMask r => exact c.requestArrives r (c.eventMask r) hs
  case socketEnable r => exact c.requestArrives r (c.socketEnable r) hs
  case socketDisable r => exact c.requestArrives r (c.socketDisable r) hs
  case socketClear r => exact c.requestArrives r (c.socketClear r) hs
  case trayReady r => exact c.requestArrives r (c.trayReady r) hs
  case trayWithdraw r => exact c.requestArrives r (c.trayWithdraw r) hs
  case headRecover r => exact c.requestArrives r (c.headRecover r) hs
  case partPurge r => exact c.requestArrives r (c.partPurge r) hs
  case locate r => exact c.requestArrives r (c.locate r) hs

/-- A law that holds before a step holds after it. -/
theorem step (c : OrderLaw P) (hs : P s) : ∀ t, step s = .next t → P t := by
  intro t ht
  unfold Machine.step at ht
  split at ht
  · cases ht
    unfold refclkCycle
    split
    · exact hs
    · have due := c.takeDue hs
      unfold countCycle
      split
      · exact c.same due rfl
      · split
        · exact c.same due rfl
        · exact c.ticked due
  · next rest _ => exact c.exec _ (c.same (t := { s with pending := rest }) hs rfl) t ht

end OrderLaw

end Sys2Proof.Machine
end

section
/-! PROOFS. The clearance law of the rail: what keeps it, operation by operation (R136 to R141). -/

namespace Sys2Proof.Machine

variable {s t u : State} {h : Head} {j k : Head → Prop}

/-! ## Clearance (R136) -/

/-- R136: a run of zones lies within another. -/
structure Span.Inside (a b : Span) : Prop where
  lo : b.lo ≤ a.lo
  hi : a.hi ≤ b.hi

theorem Span.Inside.refl (a : Span) : a.Inside a := ⟨Nat.le_refl _, Nat.le_refl _⟩

theorem Span.Inside.trans {a b c : Span} (first : a.Inside b) (next : b.Inside c) : a.Inside c :=
  ⟨next.lo.trans first.lo, first.hi.trans next.hi⟩

theorem Span.inside_join_left (a b : Span) : a.Inside (a.join b) := ⟨Nat.min_le_left _ _, Nat.le_max_left _ _⟩

theorem Span.inside_join_right (a b : Span) : b.Inside (a.join b) := ⟨Nat.min_le_right _ _, Nat.le_max_right _ _⟩

theorem Span.Inside.join {a b c : Span} (first : a.Inside c) (next : b.Inside c) : (a.join b).Inside c :=
  ⟨Nat.le_min.2 ⟨first.lo, next.lo⟩, Nat.max_le.2 ⟨first.hi, next.hi⟩⟩

theorem railClear_iff : s.railClear ↔ (s.head .west).holdings.hi + 1 < (s.head .east).holdings.lo := decide_eq_true_iff

/-- R136: holdings that shrink stay clear. -/
theorem railClear_of_inside (clear : s.railClear) (shrinks : ∀ h, (t.head h).holdings.Inside (s.head h).holdings) :
    t.railClear := by
  rw [railClear_iff] at *
  obtain ⟨-, west⟩ := shrinks .west
  obtain ⟨east, -⟩ := shrinks .east
  omega

theorem railClear_of_head (clear : s.railClear) (own : (t.head h).holdings.Inside (s.head h).holdings)
    (other : (t.head h.other).holdings = (s.head h.other).holdings) : t.railClear := by
  refine railClear_of_inside clear fun g => ?_
  have same : (t.head h.other).holdings.Inside (s.head h.other).holdings := by rw [other]; exact .refl _
  cases h <;> cases g <;> assumption

/-- R140: a head's new holdings that pass the test against the other head's. -/
theorem railClear_of_apart (other : (t.head h.other).holdings = (s.head h.other).holdings)
    (apart : match h with
      | .west => (t.head .west).holdings.hi + 1 < (s.head .east).holdings.lo
      | .east => (s.head .west).holdings.hi + 1 < (t.head .east).holdings.lo) : t.railClear := by
  rw [railClear_iff]
  cases h with
  | west => exact (other : (t.head .east).holdings = _) ▸ apart
  | east => exact (other : (t.head .west).holdings = _) ▸ apart

/-- R138: a widened head stays clear of the other. -/
theorem widened_apart (clear : s.railClear) : match h with
    | .west => (widened .west s).hi + 1 < (s.head .east).holdings.lo
    | .east => (s.head .west).holdings.hi + 1 < (widened .east s).lo := by
  rw [railClear_iff] at clear
  cases h <;> (simp only [widened]; omega)

/-- R139: a clipped zone is clear of the other head, when the West head has room at all. -/
theorem clippedZone_apart (z : Nat) (room : h = .west → 2 ≤ (s.head .east).holdings.lo) : match h with
    | .west => clippedZone .west z s + 1 < (s.head .east).holdings.lo
    | .east => (s.head .west).holdings.hi + 1 < clippedZone .east z s := by
  cases h with
  | west =>
    have room := room rfl
    simp only [clippedZone]
    omega
  | east =>
    simp only [clippedZone]
    omega

theorem room_of_railClear (clear : s.railClear) : 2 ≤ (s.head .east).holdings.lo := by
  rw [railClear_iff] at clear
  omega

/-! ## The holdings of a head (R137) -/

/-- R137: an order's span lies within a run of zones, and its target within its span. -/
def Order.fits (o : Order) (a : Span) : Prop :=
  ∃ r, o.resolved = some r ∧ r.span.Inside a ∧ r.span.lo ≤ zoneOf r.target.x ∧ zoneOf r.target.x ≤ r.span.hi

theorem Order.fits_mono {o : Order} {a b : Span} (fits : o.fits a) (wider : a.Inside b) : o.fits b := by
  obtain ⟨r, resolved, inside, target⟩ := fits
  exact ⟨r, resolved, inside.trans wider, target⟩

/-- One order's part in the holdings. -/
def Order.extends (acc : Span) (o : Order) : Span :=
  if o.state = .outstanding then ((o.resolved.map fun r => acc.join r.span).getD acc) else acc

theorem holdingsFrom_eq (b : Nat) (queue : List Order) : holdingsFrom b queue = queue.foldl Order.extends ⟨b, b⟩ := rfl

theorem Order.inside_extends (acc : Span) (o : Order) : acc.Inside (o.extends acc) := by
  unfold Order.extends
  split
  · cases o.resolved with
    | none => exact .refl _
    | some r => exact acc.inside_join_left r.span
  · exact .refl _

theorem Order.span_inside_extends (acc : Span) {o : Order} {r : Resolved} (out : o.state = .outstanding)
    (resolved : o.resolved = some r) : r.span.Inside (o.extends acc) := by
  rw [Order.extends, if_pos out, resolved]
  exact acc.inside_join_right r.span

theorem Order.extends_inside {acc a : Span} {o : Order} (first : acc.Inside a)
    (fits : o.state = .outstanding → ∀ r, o.resolved = some r → r.span.Inside a) : (o.extends acc).Inside a := by
  unfold Order.extends
  split
  · next out =>
    cases resolved : o.resolved with
    | none => exact first
    | some r => exact first.join (fits out r resolved)
  · exact first

/-- R137: holdings are the least run with the base zone and the spans of the OUTSTANDING orders. -/
theorem inside_holdings (queue : List Order) (acc : Span) : acc.Inside (queue.foldl Order.extends acc) := by
  induction queue generalizing acc with
  | nil => exact .refl _
  | cons o queue ih => exact (o.inside_extends acc).trans (ih _)

theorem span_inside_holdings {queue : List Order} {o : Order} {r : Resolved} (mem : o ∈ queue)
    (out : o.state = .outstanding) (resolved : o.resolved = some r) (acc : Span) :
    r.span.Inside (queue.foldl Order.extends acc) := by
  induction queue generalizing acc with
  | nil => exact absurd mem List.not_mem_nil
  | cons q queue ih =>
    rcases List.mem_cons.1 mem with rfl | later
    · exact (o.span_inside_extends acc out resolved).trans (inside_holdings _ _)
    · exact ih later _

theorem holdings_inside {queue : List Order} {a : Span} {acc : Span} (first : acc.Inside a)
    (fits : ∀ o ∈ queue, o.state = .outstanding → ∀ r, o.resolved = some r → r.span.Inside a) :
    (queue.foldl Order.extends acc).Inside a := by
  induction queue generalizing acc with
  | nil => exact first
  | cons o queue ih =>
    exact ih (o.extends_inside first (fits o List.mem_cons_self)) fun q mem => fits q (List.mem_cons_of_mem _ mem)

/-! ## What the holdings of a head stand for (R122, R137, R138) -/

/-- R122, R137, R138: `State.headHolds`, for a head that is not READY without its law of OUTSTANDING orders while it has not
been cleared of them (`c`). -/
structure HeadRecord.Held (x : HeadRecord) (c : Prop) (order recover : Timer) : Prop where
  base : x.state = .ready → ∃ b, x.base = some b ∧ x.holdings.lo ≤ b ∧ b ≤ x.holdings.hi
  known : x.state = .ready → ∀ o ∈ x.queue, o.state ≠ .unknown
  fits : x.state = .ready → ∀ o ∈ x.queue, o.state = .outstanding → o.fits x.holdings
  rests : x.state ≠ .ready → x.base = none ∧ order = .clear
  cleared : x.state ≠ .ready → c → ∀ o ∈ x.queue, o.state ≠ .outstanding
  recovers : x.state ≠ .recovering → recover = .clear

/-- R136, R137, R138: the laws of the rail, with the heads that have been cleared of OUTSTANDING orders when not READY. -/
structure Rail (j : Head → Prop) (s : State) : Prop where
  clear : s.railClear
  held : ∀ h, (s.head h).Held (j h) (s.timer (.order h)) (s.timer (.recover h))
  parks : s.parksLawful

theorem headHolds_iff : s.headHolds h ↔ (s.head h).Held True (s.timer (.order h)) (s.timer (.recover h)) := by
  constructor
  · rintro ⟨ready, rests, recovers⟩
    refine ⟨fun r => (ready r).1, fun r => (ready r).2.1, fun r o mem out => ?_, fun r => ⟨(rests r).1, (rests r).2.2⟩,
      fun r _ => (rests r).2.1, recovers⟩
    obtain ⟨x, resolved, lo, target, target', hi⟩ := (ready r).2.2 o mem out
    exact ⟨x, resolved, ⟨lo, hi⟩, target, target'⟩
  · rintro ⟨base, known, fits, rests, cleared, recovers⟩
    refine ⟨fun r => ⟨base r, known r, fun o mem out => ?_⟩, fun r => ⟨(rests r).1, cleared r trivial, (rests r).2⟩, recovers⟩
    obtain ⟨x, resolved, ⟨lo, hi⟩, target, target'⟩ := fits r o mem out
    exact ⟨x, resolved, lo, target, target', hi⟩

theorem railLawful_iff : s.railLawful ↔ Rail (fun _ => True) s :=
  ⟨fun ⟨clear, holds, parks⟩ => ⟨clear, fun h => headHolds_iff.1 (holds h), parks⟩,
    fun ⟨clear, held, parks⟩ => ⟨clear, fun h => headHolds_iff.2 (held h), parks⟩⟩

theorem HeadRecord.Held.weaken {x : HeadRecord} {c d : Prop} {order recover : Timer} (l : x.Held c order recover)
    (less : d → c) : x.Held d order recover :=
  { l with cleared := fun r hd => l.cleared r (less hd) }

/-- An order that is neither OUTSTANDING nor UNKNOWN, or that stands for one of the queue. -/
def Order.standsIn (o : Order) (queue : List Order) : Prop :=
  o.state ≠ .outstanding ∧ o.state ≠ .unknown ∨ ∃ q ∈ queue, q.state = o.state ∧ q.resolved = o.resolved

theorem Order.standsIn_of_mem {o : Order} {queue : List Order} (mem : o ∈ queue) : o.standsIn queue := .inr ⟨o, mem, rfl, rfl⟩

/-- A head whose queue has no more granted orders than before. -/
theorem HeadRecord.Held.requeue {x y : HeadRecord} {c : Prop} {order recover : Timer} (l : x.Held c order recover)
    (state : y.state = x.state) (holdings : y.holdings = x.holdings) (base : y.base = x.base)
    (queue : ∀ o ∈ y.queue, o.standsIn x.queue) : y.Held c order recover := by
  constructor
  · rw [state, holdings, base]
    exact l.base
  · intro ready o mem unknown
    rcases queue o mem with calm | ⟨q, mem, same, -⟩
    · exact calm.2 unknown
    · exact l.known (state ▸ ready) q mem (same.trans unknown)
  · intro ready o mem out
    rcases queue o mem with calm | ⟨q, mem, same, resolved⟩
    · exact absurd out calm.1
    · obtain ⟨r, given, rest⟩ := l.fits (state ▸ ready) q mem (same.trans out)
      exact ⟨r, resolved ▸ given, holdings ▸ rest⟩
  · rw [state, base]
    exact l.rests
  · intro rests cleared o mem out
    rcases queue o mem with calm | ⟨q, mem, same, -⟩
    · exact calm.1 out
    · exact l.cleared (state ▸ rests) cleared q mem (same.trans out)
  · rw [state]
    exact l.recovers

theorem HeadRecord.Held.drops {x y : HeadRecord} {c : Prop} {order recover : Timer} (l : x.Held c order recover)
    (d : HeadDrops x y) : y.Held c order recover :=
  l.requeue (by rw [d.rest]) (by rw [d.rest]) (by rw [d.rest]) fun _ mem => Order.standsIn_of_mem (d.queue.subset mem)

/-! ## The other head, the deck and the lot -/

/-- Between two states nothing but a head and its timers has changed that the rail goes by, and the other head has lost
pending orders at most. -/
structure Beside (h : Head) (s t : State) : Prop where
  head : HeadDrops (s.head h.other) (t.head h.other)
  lotState : t.lotState = s.lotState
  deck : t.deck = s.deck
  order : t.timer (.order h.other) = s.timer (.order h.other)
  recover : t.timer (.recover h.other) = s.timer (.recover h.other)

theorem Beside.of_drops (d : Drops s t) (h : Head) : Beside h s t :=
  ⟨d.head h.other, d.lotState, d.deck, (d.timer h.other).1, (d.timer h.other).2.2⟩

theorem Beside.trans (a : Beside h s t) (b : Beside h t u) : Beside h s u :=
  ⟨a.head.trans b.head, b.lotState.trans a.lotState, b.deck.trans a.deck, b.order.trans a.order, b.recover.trans a.recover⟩

theorem beside_modHead (h : Head) (f : HeadRecord → HeadRecord) (s : State) : Beside h s (s.modHead h f) :=
  ⟨by rw [State.head_modHead_other]; exact .refl _, rfl, rfl, rfl, rfl⟩

theorem beside_setTimer (h : Head) {id : TimerId} (own : id = .order h ∨ id = .recover h ∨ id = .yield h) (x : Timer)
    (s : State) : Beside h s (s.setTimer id x) := by
  have apart : id ≠ .order h.other ∧ id ≠ .recover h.other := by
    rcases own with rfl | rfl | rfl <;> cases h <;> exact ⟨nofun, nofun⟩
  have rest : (s.setTimer id x).heads = s.heads ∧ (s.setTimer id x).lotState = s.lotState ∧
      (s.setTimer id x).deck = s.deck := by
    rcases own with rfl | rfl | rfl <;> exact ⟨rfl, rfl, rfl⟩
  refine ⟨?_, rest.2.1, rest.2.2, ?_, ?_⟩
  · rw [State.head, State.head, rest.1]
    exact .refl _
  · rw [State.timer_setTimer, if_neg apart.1]
  · rw [State.timer_setTimer, if_neg apart.2]

theorem drops_tellOther (h : Head) (old : Span) (s : State) : Drops s (tellOther h old s) :=
  .of_eq (tellOther_heads _ _ _) (tellOther_lotState _ _ _) (tellOther_deck _ _ _) (tellOther_timers _ _ _)

theorem Beside.parks (b : Beside h s t) (parks : s.parksLawful) : t.parksLawful := by
  unfold State.parksLawful at parks ⊢
  rw [b.deck, b.lotState]
  exact parks

theorem Beside.holdings (b : Beside h s t) : (t.head h.other).holdings = (s.head h.other).holdings := by rw [b.head.rest]

/-- The laws of the rail after a change of one head. -/
theorem Rail.change (l : Rail j s) (b : Beside h s t) (less : k h.other → j h.other) (clear : t.railClear)
    (held : (t.head h).Held (k h) (t.timer (.order h)) (t.timer (.recover h))) : Rail k t := by
  have other : (t.head h.other).Held (k h.other) (t.timer (.order h.other)) (t.timer (.recover h.other)) := by
    rw [b.order, b.recover]
    exact ((l.held h.other).drops b.head).weaken less
  refine ⟨clear, fun g => ?_, b.parks l.parks⟩
  cases h <;> cases g <;> assumption

theorem Rail.drops (l : Rail j s) (d : Drops s t) : Rail j t := by
  have holdings (h : Head) : (t.head h).holdings = (s.head h).holdings := holdings_of_drops d h
  refine ⟨railClear_of_inside l.clear fun h => holdings h ▸ .refl _, fun h => ?_,
    (Beside.of_drops d .west).parks l.parks⟩
  rw [(d.timer h).1, (d.timer h).2.2]
  exact (l.held h).drops (d.head h)

/-- A change of a head's queue that leaves it no more granted orders than before. -/
theorem Rail.requeue (l : Rail j s) {f : HeadRecord → HeadRecord}
    (state : (f (s.head h)).state = (s.head h).state) (holdings : (f (s.head h)).holdings = (s.head h).holdings)
    (base : (f (s.head h)).base = (s.head h).base) (queue : ∀ o ∈ (f (s.head h)).queue, o.standsIn (s.head h).queue) :
    Rail j (s.modHead h f) := by
  have own := State.head_modHead_self s h f
  refine l.change (beside_modHead h f s) id (railClear_of_head l.clear ?_ (beside_modHead h f s).holdings) ?_
  · rw [own, holdings]
    exact .refl _
  · rw [own]
    exact (l.held h).requeue state holdings base queue

/-- A property of the rail reads the view alone. -/
theorem rail_readsView (j : Head → Prop) : ReadsView (Rail j) := by
  refine ⟨fun {s t} l same => ?_⟩
  have view (h : Head) := head_of_lawView same h
  have state (h : Head) : (t.head h).state = (s.head h).state := (congrArg HeadRecord.state (view h) :)
  have holdings (h : Head) : (t.head h).holdings = (s.head h).holdings := (congrArg HeadRecord.holdings (view h) :)
  have base (h : Head) : (t.head h).base = (s.head h).base := (congrArg HeadRecord.base (view h) :)
  refine ⟨railClear_of_inside l.clear fun h => holdings h ▸ .refl _, fun h => ?_, ?_⟩
  · rw [order_of_lawView same, recover_of_lawView same]
    refine (l.held h).requeue (state h) (holdings h) (base h) fun o mem => ?_
    rw [queue_of_lawView same] at mem
    exact Order.standsIn_of_mem mem
  · have parks := l.parks
    unfold State.parksLawful at parks ⊢
    rw [deck_of_lawView same, lotState_of_lawView same]
    exact parks

/-! ## The steps of an order that is resolved (R124, R127) -/

theorem Rail.leaveQueue (l : Rail j s) (h : Head) (tag : Nat) : Rail j (leaveQueue h tag s) :=
  l.requeue rfl rfl rfl fun _ mem => Order.standsIn_of_mem (List.mem_filter.1 mem).1

theorem newHoldings_inside {x : HeadRecord} {c : Prop} {order recover : Timer} (l : x.Held c order recover) :
    (newHoldings x).Inside x.holdings := by
  by_cases ready : x.state = .ready
  · obtain ⟨b, base, lo, hi⟩ := l.base ready
    unfold newHoldings
    rw [ready, base]
    refine holdings_inside ⟨lo, hi⟩ fun o mem out r resolved => ?_
    obtain ⟨r', resolved', inside, -⟩ := l.fits ready o mem out
    cases resolved.symm.trans resolved'
    exact inside
  · rw [newHoldings_of_not_ready ready]
    exact .refl _

/-- R137: a recomputation leaves what the orders and the base zone need. -/
theorem HeadRecord.Held.recompute {x : HeadRecord} {c : Prop} {order recover : Timer} (l : x.Held c order recover) :
    ({ x with holdings := newHoldings x } : HeadRecord).Held c order recover := by
  refine ⟨fun ready => ?_, l.known, fun ready o mem out => ?_, l.rests, l.cleared, l.recovers⟩
  · obtain ⟨b, base, -⟩ := l.base ready
    obtain ⟨lo, hi⟩ := inside_holdings x.queue ⟨b, b⟩
    refine ⟨b, base, ?_⟩
    dsimp only
    rw [newHoldings, show x.state = .ready from ready, base]
    exact ⟨lo, hi⟩
  · obtain ⟨b, base, -⟩ := l.base ready
    obtain ⟨r, resolved, -, target⟩ := l.fits ready o mem out
    refine ⟨r, resolved, ?_, target⟩
    dsimp only
    rw [newHoldings, show x.state = .ready from ready, base]
    exact span_inside_holdings mem out resolved ⟨b, b⟩

theorem beside_recomputeHoldings (h : Head) (s : State) : Beside h s (recomputeHoldings h s) :=
  (beside_modHead h _ s).trans (.of_drops (drops_tellOther h _ _) h)

theorem timer_recomputeHoldings (h : Head) (s : State) (id : TimerId) : (recomputeHoldings h s).timer id = s.timer id :=
  timer_of_timers (tellOther_timers _ _ _) id

theorem Rail.recompute (l : Rail j s) (h : Head) : Rail j (recomputeHoldings h s) := by
  have beside := beside_recomputeHoldings h s
  refine l.change beside id (railClear_of_head l.clear ?_ beside.holdings) ?_
  · rw [head_recomputeHoldings]
    exact newHoldings_inside (l.held h)
  · rw [head_recomputeHoldings, timer_recomputeHoldings, timer_recomputeHoldings]
    exact (l.held h).recompute

theorem Rail.setBase (l : Rail j s) {z : Nat}
    (inside : (s.head h).state = .ready → (s.head h).holdings.lo ≤ z ∧ z ≤ (s.head h).holdings.hi) :
    Rail j (setBase h z s) := by
  have beside : Beside h s (Machine.setBase h z s) := beside_modHead h _ s
  have own := head_setBase h z s
  by_cases ready : (s.head h).state = .ready
  · rw [if_pos ready] at own
    refine l.change beside id (railClear_of_head l.clear ?_ beside.holdings) ?_
    · rw [own]
      exact .refl _
    · rw [own]
      exact { l.held h with
        base := fun _ => ⟨z, rfl, inside ready⟩
        rests := fun rests => absurd ready rests }
  · rw [if_neg ready] at own
    refine l.change beside id (railClear_of_head l.clear ?_ beside.holdings) ?_
    · rw [own]
      exact .refl _
    · rw [own]
      exact l.held h

/-- R122: an order timer that runs for a READY head alone. -/
theorem Rail.setOrder (l : Rail j s) {x : Timer} (off : (s.head h).state ≠ .ready → x = .clear) :
    Rail j (s.setTimer (.order h) x) := by
  have beside : Beside h s (s.setTimer (.order h) x) := beside_setTimer h (.inl rfl) x s
  refine l.change beside id (railClear_of_head l.clear (.refl _) beside.holdings) ?_
  have order : (s.setTimer (.order h) x).timer (.order h) = x := by rw [State.timer_setTimer, if_pos rfl]
  have recover : (s.setTimer (.order h) x).timer (.recover h) = s.timer (.recover h) := by
    rw [State.timer_setTimer, if_neg nofun]
  rw [order, recover]
  exact { l.held h with rests := fun rests => ⟨((l.held h).rests rests).1, off rests⟩ }

theorem Rail.cancelOrder (l : Rail j s) (h : Head) : Rail j (cancelTimer (.order h) s) := l.setOrder fun _ => rfl

theorem mem_of_oldestIn {st : OrderState} {x : HeadRecord} {o : Order} (oldest : oldestIn st x = some o) :
    o ∈ x.queue ∧ o.state = st := by
  unfold oldestIn at oldest
  have found := List.find?_some oldest
  exact ⟨List.mem_of_find?_eq_some oldest, beq_iff_eq.1 found⟩

theorem Rail.retime (l : Rail j s) (h : Head) (cleared : j h) : Rail j (retime h s) := by
  unfold Machine.retime
  split
  · next o oldest =>
    refine l.setOrder fun rests => ?_
    obtain ⟨mem, out⟩ := mem_of_oldestIn oldest
    exact absurd out ((l.held h).cleared rests cleared o mem)
  · exact l.cancelOrder h

/-- R124: an order resolved as done, OUTSTANDING at a READY head. -/
theorem Rail.resolveDone (l : Rail j s) {o : Order} (cleared : j h)
    (out : (s.head h).state = .ready → o ∈ (s.head h).queue ∧ o.state = .outstanding) : Rail j (resolveDone h o s) := by
  have arrived : Rail j (doneArrived h o s) :=
    (rail_readsView j).same (l.leaveQueue h o.tag)
      (lawView_modHead h (fun x => { x with known := some ((o.resolved.map Resolved.target).getD ⟨0, 0⟩) }) (fun _ => rfl) _)
  have effect := drops_doneEffect h o (doneArrived h o s)
  have own : (doneEffect h o (doneArrived h o s)).head h = { s.head h with
      queue := ((doneEffect h o (doneArrived h o s)).head h).queue
      known := ((doneEffect h o (doneArrived h o s)).head h).known
      nozzles := ((doneEffect h o (doneArrived h o s)).head h).nozzles
      passDue := ((doneEffect h o (doneArrived h o s)).head h).passDue } := by
    conv_lhs => rw [(effect.head h).rest, head_doneArrived]
    rw [(effect.head h).rest, head_doneArrived]
  have zoned := (arrived.drops effect).setBase (h := h) (z := zoneOf ((o.resolved.map Resolved.target).getD ⟨0, 0⟩).x)
    fun ready => by
      rw [own] at ready ⊢
      obtain ⟨mem, state⟩ := out ready
      obtain ⟨r, resolved, ⟨lo, hi⟩, target, target'⟩ := (l.held h).fits ready o mem state
      rw [resolved]
      exact ⟨lo.trans target, target'.trans hi⟩
  exact (((zoned.recompute h).retime h cleared).drops (drops_endPlan h o.plan _)).drops
    ((drops_opportunity h _).trans (drops_grantPoint h _))

/-- R127: an order resolved as not done. -/
theorem Rail.resolveNotDone (l : Rail j s) (h : Head) (o : Order) : Rail j (resolveNotDone h o s) := by
  have effect := ((l.leaveQueue h o.tag).drops (drops_notDoneEffect o _)).recompute h
  exact effect.drops ((drops_endPlan h o.plan _).trans ((drops_opportunity h _).trans (drops_grantPoint h _)))

end Sys2Proof.Machine
end

section
/-! PROOFS. The clearance law of the rail through statuses, stops, grants and the end of a lot (R121, R124 to R144). -/

namespace Sys2Proof.Machine

variable {s t u : State} {h : Head} {j : Head → Prop}

/-! ## Statuses for an order (R124 to R129) -/

/-- R126: an order returned for retry is pending, or as it was. -/
theorem Order.returned_standsIn (failed : Option Nat) {o : Order} {queue : List Order} (mem : o ∈ queue) :
    (o.returned failed).standsIn queue := by
  unfold Order.returned
  split
  · exact .inl ⟨nofun, nofun⟩
  · exact Order.standsIn_of_mem mem

theorem Rail.returnForRetry (l : Rail j s) (h : Head) (failed : Option Nat) : Rail j (returnForRetry h failed s) := by
  have requeued : Rail j (requeued h failed s) := l.requeue rfl rfl rfl fun o mem => by
    obtain ⟨q, inside, rfl⟩ := List.mem_map.1 mem
    exact Order.returned_standsIn failed inside
  rw [returnForRetry_eq]
  exact (((requeued.drops (drops_givenBack h failed s)).cancelOrder h).recompute h).drops
    ((drops_opportunity h _).trans (drops_grantPoint h _))

theorem Rail.finalMiss (l : Rail j s) (h : Head) (o : Order) : Rail j (finalMiss h o s) := by
  have mates : Rail j (failPlanMates h o (Machine.leaveQueue h o.tag s)) :=
    foldl_keeps (fun _ q l => l.resolveNotDone h q) _ (l.leaveQueue h o.tag)
  have lost := (mates.drops (drops_lostFrom o _)).drops (drops_endPlan h o.plan _)
  exact lost.drops ((drops_raiseEvent .pickMiss _ _).trans ((drops_opportunity h _).trans (drops_grantPoint h _)))

theorem Rail.finalStuck (l : Rail j s) (h : Head) (o : Order) : Rail j (finalStuck h o s) := by
  have stuck := ((l.leaveQueue h o.tag).drops (drops_stuckAt o _)).drops (drops_endPlan h o.plan _)
  exact stuck.drops ((drops_raiseStuck _ _).trans ((drops_opportunity h _).trans (drops_grantPoint h _)))

theorem Rail.failGranted (l : Rail j s) (h : Head) : Rail j (failGranted h s) :=
  foldl_keeps (fun _ q l => l.resolveNotDone h q) _ l

/-! ## Stops (R125, R138) -/

/-- Every head but one is cleared of OUTSTANDING orders when it is not READY. -/
def allBut (h : Head) : Head → Prop := fun g => g ≠ h

theorem drops_yieldCheck (h : Head) (s : State) : Drops s (yieldCheck h s) := .of_eq rfl rfl rfl rfl

/-- R125, R138: a head that stops keeps its holdings; its OUTSTANDING orders are still to be dealt with. -/
theorem Rail.stopQueue (l : Rail (fun _ => True) s) (ready : (s.head h).state = .ready) : Rail (allBut h) (stopQueue h s) := by
  have own : (standsStill h s).head h = { s.head h with state := .stopped, base := none } :=
    State.head_modHead_self s h fun x => { x with state := .stopped, base := none }
  have beside : Beside h s (standsStill h s) :=
    ((beside_modHead h (fun x => { x with state := .stopped, base := none }) s).trans
      (.of_drops (drops_yieldCheck h.other _) h)).trans (beside_setTimer h (.inl rfl) .clear _)
  have order : (standsStill h s).timer (.order h) = .clear := (timer_cancelTimer _ _ _).trans (if_pos rfl)
  have recover : (standsStill h s).timer (.recover h) = s.timer (.recover h) :=
    (timer_cancelTimer _ _ _).trans (if_neg nofun)
  refine Rail.drops (l.change beside (fun _ => trivial) (railClear_of_head l.clear ?_ beside.holdings) ?_) (drops_stopQueue h s)
  · rw [own]
    exact .refl _
  · rw [own, order, recover, (l.held h).recovers (by rw [ready]; nofun)]
    exact ⟨nofun, nofun, nofun, fun _ => ⟨rfl, rfl⟩, fun _ apart => absurd rfl apart, fun _ => rfl⟩

/-- A stopped head that has lost its OUTSTANDING orders. -/
theorem Rail.cleared (l : Rail (allBut h) s) (none' : ∀ o ∈ (s.head h).queue, o.state ≠ .outstanding) :
    Rail (fun _ => True) s := by
  refine { l with held := fun g => { l.held g with cleared := fun rests _ => ?_ } }
  by_cases own : g = h
  · rw [own]
    exact none'
  · exact (l.held g).cleared rests own

/-- R125: the OUTSTANDING orders of a stopped head are UNKNOWN. -/
theorem Rail.makeUnknown (l : Rail (allBut h) s) (rests : (s.head h).state ≠ .ready) :
    Rail (fun _ => True) (makeUnknown h s) := by
  have own : (Machine.makeUnknown h s).head h = { s.head h with queue := (s.head h).queue.map Order.late } :=
    State.head_modHead_self s h _
  have none' : ∀ o ∈ (s.head h).queue.map Order.late, o.state ≠ .outstanding := fun o mem => by
    obtain ⟨q, -, rfl⟩ := List.mem_map.1 mem
    exact (late_state q).1
  have beside : Beside h s (Machine.makeUnknown h s) := beside_modHead h _ s
  refine l.change beside (fun _ => (ne_other h).symm) (railClear_of_head l.clear ?_ beside.holdings) ?_
  · rw [own]
    exact .refl _
  · rw [own]
    exact ⟨fun ready => absurd ready rests, fun ready => absurd ready rests, fun ready => absurd ready rests,
      (l.held h).rests, fun _ _ => none', (l.held h).recovers⟩

theorem state_stopQueue (h : Head) (s : State) : ((stopQueue h s).head h).state = .stopped :=
  congrArg Prod.fst (stance_stopQueue h s)

/-- R125: a head stops at a JAM or at the expiry of its order timer. -/
theorem Rail.stops (l : Rail (fun _ => True) s) (ready : (s.head h).state = .ready) :
    Rail (fun _ => True) (Machine.makeUnknown h (Machine.stopQueue h s)) :=
  (l.stopQueue ready).makeUnknown (by rw [state_stopQueue]; nofun)

theorem Rail.stopTimeout (l : Rail (fun _ => True) s) (ready : (s.head h).state = .ready) :
    Rail (fun _ => True) (stopTimeout h s) :=
  (l.stops ready).drops ((drops_raiseEvent _ _ _).trans (drops_raiseEvent _ _ _))

theorem lawView_setKnown (h : Head) (p : Pos) (s : State) : (setKnown h p s).lawView = s.lawView :=
  lawView_modHead h (fun x => { x with known := some p }) (fun _ => rfl) s

theorem Rail.stopJam (l : Rail (fun _ => True) s) (p : Pos) (ready : (s.head h).state = .ready) :
    Rail (fun _ => True) (stopJam h p s) :=
  ((rail_readsView _).same (l.stops ready) (lawView_setKnown h p _)).drops (drops_raiseEvent _ _ _)

/-- R125, R128: a head that stops at a second STUCK has no order left. -/
theorem Rail.stopStuck (l : Rail (fun _ => True) s) (ready : (s.head h).state = .ready) :
    Rail (fun _ => True) (stopStuck h s) := by
  have failed : Rail (allBut h) (Machine.stopStuck h s) := ((l.stopQueue ready).failGranted h).drops (drops_raiseEvent _ _ _)
  exact failed.cleared fun o mem => by rw [queue_stopStuck] at mem; cases mem

/-- R127, R128: a final failure leaves its head's state. -/
theorem state_finalStuck (h : Head) (o : Order) (s : State) : ((finalStuck h o s).head h).state = (s.head h).state := by
  have after : Drops (Machine.leaveQueue h o.tag s) (finalStuck h o s) :=
    ((drops_stuckAt o _).trans ((drops_endPlan h o.plan _).trans (drops_raiseStuck _ _))).trans
      ((drops_opportunity h _).trans (drops_grantPoint h _))
  rw [(after.head h).rest, head_leaveQueue]

/-- R124, R126, R128: DONE, MISS or STUCK taken for an OUTSTANDING order. -/
theorem Rail.takeOutcome (l : Rail (fun _ => True) s) {o : Order} (outcome : HeadOutcome) (mem : o ∈ (s.head h).queue)
    (out : o.state = .outstanding) (ready : (s.head h).state = .ready) : Rail (fun _ => True) (takeOutcome h outcome o s) := by
  unfold Machine.takeOutcome
  split
  · exact l.resolveDone trivial fun _ => ⟨mem, out⟩
  · split
    · exact l.returnForRetry h _
    · exact (l.finalMiss h o).returnForRetry h _
  · split
    · exact l.returnForRetry h _
    · exact (l.finalStuck h o).stopStuck ((state_finalStuck h o s).trans ready)
  · exact l

/-- R129: a late status. -/
theorem Rail.takeLate (l : Rail (fun _ => True) s) (outcome : HeadOutcome) (o : Order) (rests : (s.head h).state ≠ .ready) :
    Rail (fun _ => True) (takeLate h outcome o s) := by
  unfold Machine.takeLate
  split
  · exact l.resolveDone trivial fun ready => absurd ready rests
  · split
    · exact (l.resolveNotDone h o).failGranted h
    · exact (l.finalMiss h o).failGranted h
  · split
    · exact (l.resolveNotDone h o).failGranted h
    · exact (l.finalStuck h o).failGranted h
  · exact l

theorem Rail.orderStatus (l : Rail (fun _ => True) s) (h : Head) (outcome : HeadOutcome) (tag : Nat) :
    Rail (fun _ => True) (orderStatus h outcome tag s) := by
  unfold Machine.orderStatus
  split
  · next o matched =>
    obtain ⟨mem, state⟩ := mem_of_oldestIn matched
    split
    · split
      · next ready => exact l.takeOutcome outcome mem (by rw [state, if_pos ready]) ready
      · next rests => exact l.takeLate outcome o rests
    · exact l.drops (drops_raiseEvent _ _ _)
  · exact l.drops (drops_raiseEvent _ _ _)

/-! ## READY (R131, R133, R139) -/

theorem beside_resolveNotDone (h : Head) (o : Order) (s : State) : Beside h s (resolveNotDone h o s) :=
  ((beside_modHead h _ s).trans (.of_drops (drops_notDoneEffect o _) h)).trans
    ((beside_recomputeHoldings h _).trans
      (.of_drops ((drops_endPlan h o.plan _).trans ((drops_opportunity h _).trans (drops_grantPoint h _))) h))

theorem beside_retime (h : Head) (s : State) : Beside h s (retime h s) := by
  unfold retime
  split <;> exact beside_setTimer h (.inl rfl) _ s

theorem beside_resolveDone (h : Head) (o : Order) (s : State) : Beside h s (resolveDone h o s) :=
  (((beside_modHead h _ s).trans (beside_modHead h _ _)).trans (.of_drops (drops_doneEffect h o _) h)).trans
    (((beside_modHead h _ _).trans (beside_recomputeHoldings h _)).trans ((beside_retime h _).trans
      (.of_drops ((drops_endPlan h o.plan _).trans ((drops_opportunity h _).trans (drops_grantPoint h _))) h)))

theorem beside_resolveByPresence (h : Head) (presence : Byte) : ∀ (l : List Order) (failed : Bool) (s : State),
    Beside h s (resolveByPresence h presence l failed s)
  | [], _, s => .of_drops (.refl s) h
  | o :: l, failed, s => by
    obtain ⟨failed', v, resolved, next⟩ := resolveByPresence_cons h presence o l failed s
    rw [next]
    refine Beside.trans ?_ (beside_resolveByPresence h presence l failed' v)
    obtain rfl | rfl := resolved
    · exact beside_resolveDone h o s
    · exact beside_resolveNotDone h o s

theorem beside_reconcile (h : Head) (presence : Byte) (s : State) : Beside h s (reconcile h presence s) :=
  (beside_resolveByPresence h presence _ false s).trans
    (.of_drops (comparedAll_compareNozzles h presence _).drops h)

theorem beside_standAt (h : Head) (p : Pos) (s : State) : Beside h s (standAt h p s) := by
  have stood := (beside_modHead h (fun x => { x with
    base := some (clippedZone h (zoneOf p.x) s)
    holdings := ⟨clippedZone h (zoneOf p.x) s, clippedZone h (zoneOf p.x) s⟩ }) s).trans
    (.of_drops (drops_tellOther h (s.head h).holdings _) h)
  unfold standAt
  dsimp only
  split
  · exact stood
  · exact stood.trans (.of_drops (drops_raiseEvent _ _ _) h)

/-- R139: a head that has come to stand at a reported position, its granted orders resolved. -/
theorem Rail.stands {p : Pos} (l : Rail (fun _ => True) s) (beside : Beside h s t) (between : Beside h s u)
    (stands : Stands h p u t) (calm : ∀ o ∈ (u.head h).queue, o.state ≠ .outstanding ∧ o.state ≠ .unknown)
    (recover : u.timer (.recover h) = .clear) : Rail (fun _ => True) t := by
  have room : 2 ≤ (s.head .east).holdings.lo := room_of_railClear l.clear
  have zone := clippedZone_apart (s := s) (h := h) (zoneOf p.x) fun _ => room
  have same : clippedZone h (zoneOf p.x) u = clippedZone h (zoneOf p.x) s := clippedZone_congr between.holdings _
  have own := stands.head
  have recover' : t.timer (.recover h) = .clear := (timer_of_timers stands.timers _).trans recover
  refine l.change beside id (railClear_of_apart beside.holdings ?_) ?_
  · cases h
    · rw [own]
      dsimp only
      rw [same]
      exact zone
    · rw [own]
      dsimp only
      rw [same]
      exact zone
  · rw [own, recover']
    exact ⟨fun _ => ⟨_, rfl, Nat.le_refl _, Nat.le_refl _⟩, fun _ o mem => (calm o mem).2,
      fun _ o mem out => absurd out (calm o mem).1, fun rests => absurd rfl rests, fun rests => absurd rfl rests, fun _ => rfl⟩

theorem calm_of_resolves {v : State} (resolves : Resolves h v u)
    (gone : ∀ q ∈ (u.head h).queue, q.state ≠ .unknown) (rests : ∀ q ∈ (v.head h).queue, q.state ≠ .outstanding) :
    ∀ o ∈ (u.head h).queue, o.state ≠ .outstanding ∧ o.state ≠ .unknown :=
  fun o mem => ⟨rests o (resolves.queue.subset mem), gone o mem⟩

theorem Rail.recoverReady (l : Rail (fun _ => True) s) (presence : Byte) (p : Pos) (rests : (s.head h).state ≠ .ready) :
    Rail (fun _ => True) (recoverReady h presence p s) := by
  obtain ⟨-, -, -, resolves, gone⟩ := reconcile_spec h presence (cancelTimer (.recover h) s)
  have cancelled : Beside h s (cancelTimer (.recover h) s) := beside_setTimer h (.inr (.inl rfl)) _ s
  have between := cancelled.trans (beside_reconcile h presence _)
  have stood := between.trans ((beside_modHead h (fun x => { x with known := some p }) _).trans
    ((beside_modHead h (fun x => { x with state := .ready }) _).trans (beside_standAt h p _)))
  have beside : Beside h s (Machine.recoverReady h presence p s) := by
    unfold Machine.recoverReady
    dsimp only
    refine Beside.trans ?_ (.of_drops ((drops_opportunity h _).trans (drops_grantPoint h _)) h)
    split
    · exact stood.trans ((beside_modHead h _ _).trans (.of_drops (drops_complete _ _ _ _) h))
    · exact stood
  refine l.stands beside between (stands_recoverReady h presence p s).1
    (calm_of_resolves resolves gone ((l.held h).cleared rests trivial)) ?_
  exact resolves.recover.trans ((timer_cancelTimer _ _ _).trans (if_pos rfl))

theorem Rail.restartReady (l : Rail (fun _ => True) s) (presence : Byte) (p : Pos) (ready : (s.head h).state = .ready) :
    Rail (fun _ => True) (restartReady h presence p s) := by
  obtain ⟨-, -, -, resolves, gone⟩ := reconcile_spec h presence (restarting h s)
  have prepared : Beside h s (restarting h s) :=
    ((Beside.of_drops (drops_raiseEvent _ _ s) h).trans (beside_setTimer h (.inl rfl) _ _)).trans
      (beside_modHead h (fun x => { x with queue := x.queue.map Order.late }) _)
  have between := prepared.trans (beside_reconcile h presence _)
  have beside : Beside h s (Machine.restartReady h presence p s) :=
    between.trans (((beside_modHead h (fun x => { x with known := some p }) _).trans (beside_standAt h p _)).trans
      (.of_drops ((drops_opportunity h _).trans (drops_grantPoint h _)) h))
  refine l.stands beside between (stands_restartReady presence p ready) (calm_of_resolves resolves gone fun q mem => ?_) ?_
  · rw [queue_restarting] at mem
    obtain ⟨o, -, rfl⟩ := List.mem_map.1 mem
    exact (late_state o).1
  · have raised := offLink_timers (offLink_raiseEvent .headProtocol h.num s)
    have before : (cancelTimer (.order h) (raiseEvent .headProtocol h.num s)).timer (.recover h) = s.timer (.recover h) :=
      (timer_cancelTimer _ _ _).trans ((if_neg nofun).trans (timer_of_timers raised _))
    exact resolves.recover.trans (before.trans ((l.held h).recovers (by rw [ready]; nofun)))

/-- R123: a HEAD STATUS. -/
theorem Rail.takeHeadStatus (l : Rail (fun _ => True) s) (h : Head) (payload : List Byte) :
    Rail (fun _ => True) (takeHeadStatus h payload s) := by
  unfold Machine.takeHeadStatus
  dsimp only
  split
  · split
    · exact l.drops (drops_raiseEvent _ _ _)
    · split
      · next ready => exact l.restartReady _ _ ready
      · next rests => exact l.recoverReady _ _ rests
    · split
      · next ready => exact l.stopJam _ ready
      · exact (rail_readsView _).same l (lawView_setKnown h _ s)
    · exact l.orderStatus h _ _
  · exact l.drops (drops_raiseEvent _ _ _)

end Sys2Proof.Machine
end

section
/-! PROOFS. The clearance law of the rail is kept by every command: recovery, grants, the end of a lot and the deck (R41, R121,
R130, R132, R134, R138, R140, R143, R144). -/

namespace Sys2Proof.Machine

variable {s t u : State} {h : Head} {j : Head → Prop}

/-! ## RECOVERING and OFFLINE (R130, R132, R138) -/

theorem head_widenHoldings (h : Head) (s : State) :
    (widenHoldings h s).head h = { s.head h with holdings := widened h s, base := none } := by
  unfold widenHoldings State.head
  rw [tellOther_heads]
  exact PerHead.get_set_self _ _ _

theorem beside_widenHoldings (h : Head) (s : State) : Beside h s (widenHoldings h s) :=
  (beside_modHead h (fun x => { x with holdings := widened h s, base := none }) s).trans
    (.of_drops (drops_tellOther h _ _) h)

theorem railClear_widenHoldings (clear : s.railClear) (h : Head) : (widenHoldings h s).railClear := by
  have apart := widened_apart (h := h) clear
  have own := congrArg HeadRecord.holdings (head_widenHoldings h s)
  refine railClear_of_apart (beside_widenHoldings h s).holdings ?_
  cases h <;> (dsimp only at own ⊢; rw [own]; exact apart)

/-- A head that leaves READY or STOPPED for another state than READY, with its holdings widened. -/
theorem Rail.widen (l : Rail (fun _ => True) s) {f : HeadRecord → HeadRecord} {state : HeadState}
    (changes : ∀ x, f x = { x with state := state, ticket := (f x).ticket }) (before : (s.head h).state ≠ .ready)
    (after : state ≠ .ready) (recover : state ≠ .recovering → s.timer (.recover h) = .clear) :
    Rail (fun _ => True) (widenHoldings h (s.modHead h f)) := by
  have modified := State.head_modHead_self s h f
  have own := head_widenHoldings h (s.modHead h f)
  have beside := (beside_modHead h f s).trans (beside_widenHoldings h _)
  have clear : (s.modHead h f).railClear := by
    refine railClear_of_head l.clear ?_ (beside_modHead h f s).holdings
    rw [modified, changes]
    exact .refl _
  have timers (id : TimerId) : (widenHoldings h (s.modHead h f)).timer id = s.timer id :=
    timer_of_timers (tellOther_timers _ _ _) id
  obtain ⟨-, order⟩ := (l.held h).rests before
  refine l.change beside id (railClear_widenHoldings clear h) ?_
  rw [own, modified, changes, timers, timers]
  exact ⟨fun ready => absurd ready after, fun ready => absurd ready after, fun ready => absurd ready after,
    fun _ => ⟨rfl, order⟩, fun _ _ => (l.held h).cleared before trivial, recover⟩

/-- A timer that has expired is not clear. -/
theorem ne_clear_of_due {x : Timer} (due : x.due = true) : x ≠ .clear := fun clear => by rw [clear] at due; cases due

theorem Rail.cancelRecover (l : Rail j s) (h : Head) : Rail j (cancelTimer (.recover h) s) := by
  have beside : Beside h s (cancelTimer (.recover h) s) := beside_setTimer h (.inr (.inl rfl)) _ s
  have order : (cancelTimer (.recover h) s).timer (.order h) = s.timer (.order h) :=
    (timer_cancelTimer _ _ _).trans (if_neg nofun)
  have recover : (cancelTimer (.recover h) s).timer (.recover h) = .clear := (timer_cancelTimer _ _ _).trans (if_pos rfl)
  refine l.change beside id (railClear_of_head l.clear (.refl _) beside.holdings) ?_
  rw [order, recover]
  exact { l.held h with recovers := fun _ => rfl }

/-- R132: a RECOVERING head's time runs out. -/
theorem Rail.recoverTimeout (l : Rail (fun _ => True) s) (due : (s.timer (.recover h)).due = true) :
    Rail (fun _ => True) (recoverTimeout h (cancelTimer (.recover h) s)) := by
  have recovering : (s.head h).state = .recovering := by
    by_contra rests
    exact ne_clear_of_due due ((l.held h).recovers rests)
  refine Rail.drops (Rail.widen (l.cancelRecover h) (state := .offline) (fun _ => rfl) ?_ nofun fun _ => ?_)
    (drops_complete _ _ _ _)
  · show (s.head h).state ≠ .ready
    rw [recovering]
    nofun
  · exact (timer_cancelTimer _ _ _).trans (if_pos rfl)

/-- R130: a head that is OFFLINE or STOPPED becomes RECOVERING. -/
theorem Rail.beginRecovery (l : Rail (fun _ => True) s) (mode : Nat) (rests : (s.head h).state ≠ .ready) :
    Rail (fun _ => True) (beginRecovery h mode s) := by
  let sent := produce .downstream (s.nodeAddress (controllerNode h)) kindHeadControl [byte mode] s
  have told : Rail (fun _ => True) sent := l.drops (drops_produce _ _ _ _ _)
  have state : (sent.head h).state ≠ .ready := by
    rw [((drops_produce _ _ _ _ s).head h).rest]
    exact rests
  let w := widenHoldings h (sent.modHead h fun x => { x with state := .recovering, ticket := some (newTicket sent) })
  have wide : Rail (fun _ => True) w := told.widen (state := .recovering) (fun _ => rfl) state nofun fun e => absurd rfl e
  have own : (w.head h).state = .recovering := by
    rw [head_widenHoldings, State.head_modHead_self]
  have beside : Beside h w (startTimer (.recover h) Config.recoverTicks w) := beside_setTimer h (.inr (.inl rfl)) _ w
  have order : (startTimer (.recover h) Config.recoverTicks w).timer (.order h) = w.timer (.order h) :=
    (timer_startTimer _ _ _ _).trans (if_neg nofun)
  have started : Rail (fun _ => True) (startTimer (.recover h) Config.recoverTicks w) := by
    refine wide.change beside id (railClear_of_head wide.clear (.refl _) beside.holdings) ?_
    rw [order]
    exact { wide.held h with recovers := fun rests => absurd own rests }
  exact started.drops (.of_eq rfl rfl rfl rfl)

/-! ## Grants (R119, R121, R137, R140) -/

theorem spanOf_target (start target : Pos) :
    (spanOf start target).lo ≤ zoneOf target.x ∧ zoneOf target.x ≤ (spanOf start target).hi :=
  ⟨Nat.min_le_right _ _, Nat.le_max_right _ _⟩

/-- R52, R140: each order of a claim has its span in the claim and its target in its span. -/
theorem claimOf_fits (h : Head) (o : Order) (s : State) : ∀ c ∈ claimOf h o s,
    c.2.span.Inside (claimSpan (claimOf h o s)) ∧ c.2.span.lo ≤ zoneOf c.2.target.x ∧ zoneOf c.2.target.x ≤ c.2.span.hi := by
  cases pair : pairPlace (s.head h) o with
  | none =>
    rw [claimOf_single pair]
    intro c mem
    obtain rfl := List.mem_singleton.1 mem
    exact ⟨.refl _, spanOf_target _ _⟩
  | some q =>
    rw [claimOf_pair pair]
    intro c mem
    rcases List.mem_cons.1 mem with rfl | mem
    · exact ⟨Span.inside_join_left _ _, spanOf_target _ _⟩
    · obtain rfl := List.mem_singleton.1 mem
      exact ⟨Span.inside_join_right _ _, spanOf_target _ _⟩

/-- R119, R140: what a claim that can be granted is. -/
theorem grantable_spec {claim : List (Order × Resolved)} (granted : grantable h s = some claim) :
    ∃ o, frontPending (s.head h) = some o ∧ claim = claimOf h o s ∧ mayAsk h o s = true ∧
      acceptsClaim h (claimSpan claim) s = true := by
  unfold grantable at granted
  split at granted
  · cases granted
  · next o front =>
    split at granted
    · next asks =>
      cases granted
      obtain ⟨may, accepts⟩ := Bool.and_eq_true_iff.1 asks
      exact ⟨o, front, rfl, may, accepts⟩
    · cases granted

theorem claimOf_ne_nil (h : Head) (o : Order) (s : State) : ∃ c rest, claimOf h o s = c :: rest := by
  cases pair : pairPlace (s.head h) o with
  | none => exact ⟨_, _, claimOf_single pair⟩
  | some q => exact ⟨_, _, claimOf_pair pair⟩

theorem state_of_mayAsk {o : Order} (may : mayAsk h o s = true) : (s.head h).state = .ready := by
  unfold mayAsk at may
  simp only [Bool.and_eq_true, beq_iff_eq] at may
  exact may.1.1

/-- R121: an order of a queue after a grant is as it was, or has been granted. -/
theorem mem_markGranted (claim : List (Order × Resolved)) : ∀ {queue : List Order} {p : Order},
    p ∈ claim.foldl (fun l c => l.map (markGranted c)) queue →
      p ∈ queue ∨ ∃ c ∈ claim, p.resolved = some c.2 ∧ p.state = .outstanding := by
  induction claim with
  | nil => exact fun mem => .inl mem
  | cons c claim ih =>
    intro queue p mem
    rcases ih mem with before | ⟨d, later, granted⟩
    · obtain ⟨q, inside, rfl⟩ := List.mem_map.1 before
      unfold markGranted
      split
      · exact .inr ⟨c, List.mem_cons_self, rfl, rfl⟩
      · exact .inl inside
    · exact .inr ⟨d, List.mem_cons_of_mem _ later, granted⟩

theorem offLink_sendAll (h : Head) (claim : List (Order × Resolved)) (s : State) :
    (sendAll h claim s).offLink = s.offLink := by
  induction claim generalizing s with
  | nil => rfl
  | cons c rest ih => exact (ih _).trans (offLink_sendMoveOrder h c s)

/-- R121: a grant leaves the lot state, the deck and the trays as they are. -/
theorem aside_grantClaim (h : Head) (c : Order × Resolved) (rest : List (Order × Resolved)) (s : State) :
    (grantClaim h (c :: rest) s).lotState = s.lotState ∧ (grantClaim h (c :: rest) s).deck = s.deck ∧
      (grantClaim h (c :: rest) s).bins = s.bins := by
  have rested := grantClaim_rest h c rest s
  have sent := offLink_sendAll h (c :: rest) s
  have lotState := offLink_lotState sent
  have deck := offLink_deck sent
  have bins := offLink_bins sent
  exact ⟨(congrArg State.lotState rested).trans lotState, (congrArg State.deck rested).trans deck,
    (congrArg State.bins rested).trans bins⟩

theorem railClear_grantClaim {claim : List (Order × Resolved)} (granted : grantable h s = some claim) :
    (grantClaim h claim s).railClear := by
  obtain ⟨o, -, claims, -, accepts⟩ := grantable_spec granted
  obtain ⟨c, rest, cons⟩ := claimOf_ne_nil h o s
  rw [claims, cons] at accepts ⊢
  have own := congrArg HeadRecord.holdings (head_grantClaim h c rest s)
  have apart := (acceptsClaim_iff h _ s).1 accepts
  refine railClear_of_apart (h := h) (congrArg HeadRecord.holdings (head_grantClaim_other h c rest s)) ?_
  cases h <;> (dsimp only at own ⊢; rw [own]; exact apart)

/-- R121, R137: a grant. -/
theorem Rail.grantClaim (l : Rail j s) {claim : List (Order × Resolved)} (granted : grantable h s = some claim) :
    Rail j (grantClaim h claim s) := by
  have clear := railClear_grantClaim granted
  obtain ⟨o, -, claims, may, -⟩ := grantable_spec granted
  obtain ⟨c, rest, cons⟩ := claimOf_ne_nil h o s
  have ready := state_of_mayAsk may
  have fits := claimOf_fits h o s
  rw [claims, cons] at clear ⊢
  rw [cons] at fits
  have own := head_grantClaim h c rest s
  have other := head_grantClaim_other h c rest s
  obtain ⟨lotState, deck, -⟩ := aside_grantClaim h c rest s
  have timer (id : TimerId) (apart : .order h ≠ id) : (Machine.grantClaim h (c :: rest) s).timer id = s.timer id :=
    (timer_grantClaim h c rest s id).trans (if_neg fun both => apart both.1)
  have beside : Beside h s (Machine.grantClaim h (c :: rest) s) :=
    ⟨by rw [other]; exact .refl _, lotState, deck, timer _ (by cases h <;> nofun), timer _ nofun⟩
  refine l.change beside id clear ?_
  rw [own, timer (.recover h) nofun]
  have state : (s.head h).state ≠ .ready → False := fun rests => rests ready
  refine ⟨fun _ => ?_, fun _ p mem unknown => ?_, fun _ p mem out => ?_, fun rests => (state rests).elim,
    fun rests => (state rests).elim, (l.held h).recovers⟩
  · obtain ⟨b, base, lo, hi⟩ := (l.held h).base ready
    exact ⟨b, base, (Nat.min_le_left _ _).trans lo, hi.trans (Nat.le_max_left _ _)⟩
  · rcases mem_markGranted _ mem with before | ⟨_, _, _, out⟩
    · exact (l.held h).known ready p before unknown
    · exact OrderState.noConfusion (out.symm.trans unknown)
  · rcases mem_markGranted _ mem with before | ⟨d, inside, resolved, -⟩
    · exact Order.fits_mono ((l.held h).fits ready p before out) (Span.inside_join_left _ _)
    · obtain ⟨span, target⟩ := fits d inside
      exact ⟨d.2, resolved, span.trans (Span.inside_join_right _ _), target⟩

/-- R143: a PARK that joins a queue is pending. -/
theorem standsIn_insertFront {queue : List Order} {o p : Order} (pending : o.state = .pending)
    (mem : p ∈ insertFront o queue) : p.standsIn queue := by
  rcases List.mem_append.1 mem with mem | mem
  · exact Order.standsIn_of_mem (List.mem_filter.1 mem).1
  · rcases List.mem_cons.1 mem with rfl | mem
    · exact .inl ⟨by rw [pending]; nofun, by rw [pending]; nofun⟩
    · exact Order.standsIn_of_mem (List.mem_filter.1 mem).1

theorem demoted_standsIn (front : Option Nat) {o : Order} {queue : List Order} (mem : o ∈ queue) :
    (o.demoted front).standsIn queue := by
  unfold Order.demoted
  split
  · exact .inl ⟨nofun, nofun⟩
  · exact Order.standsIn_of_mem mem

theorem Rail.demote (l : Rail j s) (h : Head) : Rail j (s.modHead h demote) :=
  l.requeue rfl rfl rfl fun o mem => by
    obtain ⟨q, inside, rfl⟩ := List.mem_map.1 mem
    exact demoted_standsIn _ inside

theorem Rail.parked (l : Rail j s) (h : Head) : Rail j (parked h s) := by
  have joined : Rail j (s.modHead h fun x =>
      { x with queue := insertFront (yieldOrder x) x.queue, tagCounter := nextTag x }) :=
    l.requeue rfl rfl rfl fun o mem => standsIn_insertFront (o := yieldOrder (s.head h)) rfl mem
  have inserted : Rail j (insertPark h s) := joined.drops (drops_grantPoint h _)
  exact (rail_readsView j).same (inserted.demote h) (lawView_parked h s)

theorem rail_grants (j : Head → Prop) : Grants (Rail j) where
  same := (rail_readsView j).same
  demote h _ l := l.demote h
  wait h o _ l _ _ := l.requeue rfl rfl rfl fun p mem => by
    obtain ⟨q, inside, rfl⟩ := List.mem_map.1 mem
    dsimp only
    split
    · exact .inl ⟨nofun, nofun⟩
    · exact Order.standsIn_of_mem inside
  grant _ _ _ l granted := l.grantClaim granted
  park h _ _ l _ granted := (l.parked h).grantClaim granted

/-! ## The clearance test alone (R140) -/

theorem railClear_of_heads (clear : s.railClear) (same : ∀ h, (t.head h).holdings = (s.head h).holdings) : t.railClear :=
  railClear_of_inside clear fun h => same h ▸ .refl _

theorem railClear_modHead (clear : s.railClear) {f : HeadRecord → HeadRecord} (same : ∀ x, (f x).holdings = x.holdings) :
    (s.modHead h f).railClear := by
  refine railClear_of_head clear ?_ (beside_modHead h f s).holdings
  rw [State.head_modHead_self, same]
  exact .refl _

theorem railClear_grants : Grants State.railClear where
  same clear same := railClear_of_heads clear fun h => (congrArg HeadRecord.holdings (head_of_lawView same h) :)
  demote _ _ clear := railClear_modHead clear fun _ => rfl
  wait _ _ _ clear _ _ := railClear_modHead clear fun _ => rfl
  grant _ _ _ _ granted := railClear_grantClaim granted
  park _ _ _ _ _ granted := railClear_grantClaim granted

/-! ## The end of a lot (R134, R144) -/

theorem aside_issueOrder (h : Head) (c : Order × Resolved) (s : State) :
    (issueOrder h c s).lotState = s.lotState ∧ (issueOrder h c s).deck = s.deck ∧ (issueOrder h c s).bins = s.bins ∧
      (issueOrder h c s).timers = s.timers := by
  have sent := offLink_sendMoveOrder h c s
  rw [issueOrder_eq]
  exact ⟨(offLink_lotState sent :), (offLink_deck sent :), (offLink_bins sent :), (offLink_timers sent :)⟩

theorem aside_modHead (h : Head) (f : HeadRecord → HeadRecord) (s : State) :
    (s.modHead h f).lotState = s.lotState ∧ (s.modHead h f).deck = s.deck ∧ (s.modHead h f).bins = s.bins ∧
      (s.modHead h f).timers = s.timers := ⟨rfl, rfl, rfl, rfl⟩

/-- R134: a head sent a PARK that leaves its queue again. -/
theorem aside_sentPark (h : Head) (p : Pos) (tag : Nat) (o : Order) (c : Order × Resolved) (s : State) :
    let t := setKnown h p (leaveQueue h tag (issueOrder h c (enqueue h o s)))
    t.lotState = s.lotState ∧ t.deck = s.deck ∧ t.bins = s.bins ∧ t.timers = s.timers := by
  obtain ⟨l1, d1, b1, t1⟩ := aside_modHead h
    (fun x => { x with queue := x.queue ++ [{ o with tag := nextTag x }], tagCounter := nextTag x }) s
  obtain ⟨l2, d2, b2, t2⟩ := aside_issueOrder h c (enqueue h o s)
  generalize issueOrder h c (enqueue h o s) = u at l2 d2 b2 t2
  exact ⟨l2.trans l1, d2.trans d1, b2.trans b1, t2.trans t1⟩

theorem aside_parkHead (h : Head) (s : State) :
    (parkHead h s).lotState = s.lotState ∧ (parkHead h s).deck = s.deck ∧ (parkHead h s).bins = s.bins ∧
      (parkHead h s).timers = s.timers := by
  unfold parkHead
  split
  · exact aside_sentPark h _ _ _ _ s
  · exact ⟨rfl, rfl, rfl, rfl⟩

theorem head_parkHead_other (h : Head) (s : State) : (parkHead h s).head h.other = s.head h.other := by
  unfold parkHead
  split
  · refine (State.head_modHead_other _ h _).trans ((State.head_modHead_other _ h _).trans ?_)
    rw [head_issueOrder_other]
    exact State.head_modHead_other s h _
  · rfl

/-- R134: a head that takes its position at the end of a lot. -/
def HeadRecord.sent (p : Pos) (x : HeadRecord) : HeadRecord :=
  if x.state = .ready then { x with queue := [], tagCounter := nextTag x, known := some p } else x

/-- R144: a head that holds its base zone alone. -/
def HeadRecord.homed (zone : Nat) (x : HeadRecord) : HeadRecord :=
  if x.state = .ready then { x with base := some zone, holdings := ⟨zone, zone⟩ } else x

/-- R134: a head without orders is sent to its park position, and the PARK has left the queue again. -/
theorem head_parkHead (empty : (s.head h).queue = []) : (parkHead h s).head h = (s.head h).sent (s.parkPos h) := by
  unfold parkHead HeadRecord.sent
  split
  · next ready =>
    let o : Order := { newOrder .park none none none none .lotEnd with tag := nextTag (s.head h) }
    have joined : (enqueue h o s).head h =
        { s.head h with queue := [o], tagCounter := nextTag (s.head h) } := by
      refine (State.head_modHead_self s h fun x =>
        { x with queue := x.queue ++ [{ o with tag := nextTag x }], tagCounter := nextTag x }).trans ?_
      rw [empty]
      rfl
    dsimp only
    rw [setKnown, State.head_modHead_self, head_leaveQueue, head_issueOrder]
    erw [joined]
    simp [markGranted, o]
  · rfl

theorem head_holdPark (h : Head) (zone : Nat) (s : State) :
    (holdPark h zone s).head h = (s.head h).homed zone ∧ (holdPark h zone s).head h.other = s.head h.other := by
  unfold holdPark HeadRecord.homed
  split
  · exact ⟨State.head_modHead_self s h _, State.head_modHead_other s h _⟩
  · exact ⟨rfl, rfl⟩

theorem aside_holdPark (h : Head) (zone : Nat) (s : State) :
    (holdPark h zone s).lotState = s.lotState ∧ (holdPark h zone s).deck = s.deck ∧ (holdPark h zone s).bins = s.bins ∧
      (holdPark h zone s).timers = s.timers := by
  unfold holdPark
  split <;> exact ⟨rfl, rfl, rfl, rfl⟩

/-- R134, R144: both heads at the end of a lot. -/
theorem head_parkHeads (empty : ∀ h, (s.head h).queue = []) (h : Head) :
    (parkHeads s).head h = ((s.head h).sent (s.parkPos h)).homed (parkZone h s) := by
  let u := parkHead .east (parkHead .west s)
  have westDeck := (aside_parkHead .west s).2.1
  have eastDeck := (aside_parkHead .east (parkHead .west s)).2.1
  have still : (parkHead .west s).head .east = s.head .east := head_parkHead_other .west s
  have position (v : State) (deck : v.deck = s.deck) (h : Head) : v.parkPos h = s.parkPos h := by
    cases h <;> simp only [State.parkPos, deck]
  have sent (h : Head) : u.head h = (s.head h).sent (s.parkPos h) := by
    cases h with
    | west => exact (head_parkHead_other .east _).trans (head_parkHead (empty .west))
    | east =>
      refine (head_parkHead (by rw [still]; exact empty .east)).trans ?_
      rw [still, position _ westDeck]
  have zone (h : Head) : parkZone h u = parkZone h s := by
    have state : (u.head h.other).state = (s.head h.other).state := by
      rw [sent, HeadRecord.sent]
      split <;> rfl
    have holdings : (u.head h.other).holdings = (s.head h.other).holdings := by
      rw [sent, HeadRecord.sent]
      split <;> rfl
    unfold parkZone
    dsimp only
    rw [state, position u (eastDeck.trans westDeck), clippedZone_congr holdings]
  obtain ⟨eastOwn, eastOther⟩ := head_holdPark .east (parkZone .east u) (holdPark .west (parkZone .west u) u)
  obtain ⟨westOwn, westOther⟩ := head_holdPark .west (parkZone .west u) u
  cases h with
  | west => exact (eastOther.trans westOwn).trans (by rw [sent, zone])
  | east =>
    have still : (holdPark .west (parkZone .west u) u).head .east = u.head .east := westOther
    exact eastOwn.trans (by rw [still, sent, zone])

theorem aside_parkHeads (s : State) :
    (parkHeads s).lotState = s.lotState ∧ (parkHeads s).deck = s.deck ∧ (parkHeads s).bins = s.bins ∧
      (parkHeads s).timers = s.timers := by
  obtain ⟨l1, d1, b1, t1⟩ := aside_parkHead .west s
  obtain ⟨l2, d2, b2, t2⟩ := aside_parkHead .east (parkHead .west s)
  let u := parkHead .east (parkHead .west s)
  obtain ⟨l3, d3, b3, t3⟩ := aside_holdPark .west (parkZone .west u) u
  obtain ⟨l4, d4, b4, t4⟩ := aside_holdPark .east (parkZone .east u) (holdPark .west (parkZone .west u) u)
  exact ⟨l4.trans (l3.trans (l2.trans l1)), d4.trans (d3.trans (d2.trans d1)), b4.trans (b3.trans (b2.trans b1)),
    t4.trans (t3.trans (t2.trans t1))⟩

theorem sent_kept (x : HeadRecord) (p : Pos) : (x.sent p).state = x.state ∧ (x.sent p).holdings = x.holdings := by
  unfold HeadRecord.sent
  split <;> exact ⟨rfl, rfl⟩

theorem holdings_homed (x : HeadRecord) (zone : Nat) :
    (x.homed zone).holdings = if x.state = .ready then ⟨zone, zone⟩ else x.holdings := by
  unfold HeadRecord.homed
  split <;> rfl

theorem head_changeLot (new : LotState) (h : Head) (s : State) : (changeLot new s).head h = s.head h := rfl

/-- R41, R144: parked heads are clear of each other. -/
theorem railClear_parkHeads (l : Rail j s) (working : s.lotState.working = true) (empty : ∀ h, (s.head h).queue = []) :
    (parkHeads s).railClear := by
  obtain ⟨west, east, written⟩ := l.parks
  obtain ⟨w, atWest⟩ := Option.isSome_iff_exists.1 (written working).1
  obtain ⟨e, atEast⟩ := Option.isSome_iff_exists.1 (written working).2
  have westZone : zoneOf (s.parkPos .west).x ≤ 6 := by
    rw [State.parkPos, atWest]
    exact west w atWest
  have eastZone : 9 ≤ zoneOf (s.parkPos .east).x := by
    rw [State.parkPos, atEast]
    exact (east e atEast).1
  have clear := railClear_iff.1 l.clear
  have westApart := clippedZone_apart (s := s) (h := .west) (zoneOf (s.parkPos .west).x) fun _ => room_of_railClear l.clear
  have eastApart := clippedZone_apart (s := s) (h := .east) (zoneOf (s.parkPos .east).x) nofun
  dsimp only at westApart eastApart
  rw [railClear_iff, head_parkHeads empty, head_parkHeads empty, holdings_homed, holdings_homed, (sent_kept _ _).1,
    (sent_kept _ _).1, (sent_kept _ _).2, (sent_kept _ _).2]
  unfold parkZone
  simp only [Head.other]
  by_cases westReady : (s.head .west).state = .ready <;> by_cases eastReady : (s.head .east).state = .ready <;>
    simp only [westReady, eastReady, if_true, if_false] <;> omega

/-- R155: a lot state that is not working leaves the laws of the rail as they are. -/
theorem Rail.lot (l : Rail j s) {new : LotState} (deck : new.working = true →
    s.lotState.working = true ∨ s.deck[(16 : Fin 18)].isSome = true ∧ s.deck[(17 : Fin 18)].isSome = true) :
    Rail j (changeLot new s) := by
  have timer (id : TimerId) (free : id.gated = false) : (changeLot new s).timer id = s.timer id := by
    rw [timer_changeLot, if_neg (by rw [free]; nofun)]
  obtain ⟨west, east, written⟩ := l.parks
  refine ⟨railClear_of_heads l.clear fun _ => rfl, fun h => ?_, west, east, fun working => ?_⟩
  · rw [head_changeLot, timer (.order h) rfl, timer (.recover h) rfl]
    exact l.held h
  · exact (deck working).elim written id

/-- R144: what the holdings of a parked head stand for. -/
theorem HeadRecord.Held.parked {x : HeadRecord} {order recover : Timer} (l : x.Held True order recover) (p : Pos)
    (zone : Nat) : ((x.sent p).homed zone).Held True order recover := by
  by_cases ready : x.state = .ready
  · have sent : x.sent p = { x with queue := [], tagCounter := nextTag x, known := some p } := if_pos ready
    have homed : (x.sent p).homed zone = { x.sent p with base := some zone, holdings := ⟨zone, zone⟩ } :=
      if_pos ((sent_kept x p).1.trans ready)
    rw [homed, sent]
    exact ⟨fun _ => ⟨zone, rfl, Nat.le_refl _, Nat.le_refl _⟩, fun _ _ mem => absurd mem List.not_mem_nil,
      fun _ _ mem => absurd mem List.not_mem_nil, fun rests => absurd ready rests, fun rests => absurd ready rests, l.recovers⟩
  · have sent : x.sent p = x := if_neg ready
    have homed : x.homed zone = x := if_neg ready
    rw [sent, homed]
    exact l

theorem Rail.parkHeads (l : Rail (fun _ => True) s) (working : s.lotState.working = true)
    (empty : ∀ h, (s.head h).queue = []) : Rail (fun _ => True) (parkHeads s) := by
  have heads := head_parkHeads empty
  obtain ⟨lotState, deck, -, timers⟩ := aside_parkHeads s
  refine ⟨railClear_parkHeads l working empty, fun h => ?_, ?_⟩
  · rw [heads, timer_of_timers timers, timer_of_timers timers]
    exact (l.held h).parked _ _
  · have parks := l.parks
    unfold State.parksLawful at parks ⊢
    rw [deck, lotState]
    exact parks

/-! ## Every command (R136 to R144) -/

theorem Rail.power (a : Option Byte) (q : List Instr) (n : Nat) :
    Rail (fun _ => True) { State.reset with ownAddress := a, pending := q, draws := n } :=
  (rail_readsView _).same (railLawful_iff.1 railLawful_reset) rfl

theorem Rail.softReset (l : Rail (fun _ => True) s) : Rail (fun _ => True) (softReset s) := by
  have initial := railLawful_iff.1 railLawful_reset
  obtain ⟨west, east, -⟩ := l.parks
  refine ⟨initial.clear, fun h => ?_, west, east, nofun⟩
  have held := initial.held h
  cases h <;> exact held

theorem tick_clear {x : Timer} (clear : x = .clear) : x.tick = .clear := by rw [clear]; rfl

theorem Rail.endTick (l : Rail j s) : Rail j (endTick s) := by
  have timer (h : Head) : (Machine.endTick s).timer (.order h) = (s.timer (.order h)).tick ∧
      (Machine.endTick s).timer (.recover h) = (s.timer (.recover h)).tick := by cases h <;> exact ⟨rfl, rfl⟩
  have head (h : Head) : (Machine.endTick s).head h = s.head h := rfl
  refine ⟨railClear_of_heads l.clear fun _ => rfl, fun h => ?_, l.parks⟩
  rw [head, (timer h).1, (timer h).2]
  exact { l.held h with
    rests := fun rests => ⟨((l.held h).rests rests).1, tick_clear ((l.held h).rests rests).2⟩
    recovers := fun rests => tick_clear ((l.held h).recovers rests) }

theorem Rail.deck (l : Rail j s) (v : Vector (Option Pos) 18) (rests : s.lotState.working = false)
    (west : ∀ p, v[(16 : Fin 18)] = some p → s.deck[(16 : Fin 18)] = some p ∨ zoneOf p.x ≤ 6)
    (east : ∀ p, v[(17 : Fin 18)] = some p → s.deck[(17 : Fin 18)] = some p ∨ 9 ≤ zoneOf p.x ∧ zoneOf p.x ≤ 15) :
    Rail j { s with deck := v } := by
  obtain ⟨wasWest, wasEast, -⟩ := l.parks
  exact ⟨l.clear, l.held, fun p at_p => (west p at_p).elim (wasWest p) id, fun p at_p => (east p at_p).elim (wasEast p) id,
    fun working => by rw [rests] at working; cases working⟩

theorem Rail.enqueue (l : Rail j s) {o : Order} (pending : o.state = .pending) : Rail j (enqueue h o s) :=
  l.requeue rfl rfl rfl fun p mem => by
    rcases List.mem_append.1 mem with mem | mem
    · exact Order.standsIn_of_mem mem
    · obtain rfl := List.mem_singleton.1 mem
      exact .inl ⟨fun out => OrderState.noConfusion (pending.symm.trans out),
        fun out => OrderState.noConfusion (pending.symm.trans out)⟩

theorem drops_modBin (b : Fin 16) (f : Bin → Bin) (s : State) : Drops s (s.modBin b f) := .of_eq rfl rfl rfl rfl

theorem drops_takePocket (b : Fin 16) (y : TrayId) (s : State) : Drops s (takePocket b y s).1 := by
  rw [takePocket_eq]
  dsimp only
  split
  · exact (drops_modBin _ _ s).trans (drops_opportunityBoth _)
  · exact drops_modBin _ _ s

theorem drops_askPocket {b d : Fin 16} {y : TrayId} (found : stowTray s b = some (d, y)) : Drops s (askPocket b s).1 := by
  rw [askPocket_some found]
  exact (drops_takePocket d y s).trans (drops_modBin b (fun x => { x with blocked := false }) _)

theorem drops_moveActive (b : Fin 16) (y : TrayId) (s : State) : Drops s (moveActive b y s) := by
  unfold moveActive
  split
  · exact ((drops_modTray _ _ _ _).trans (drops_modBin _ _ _)).trans (drops_opportunityBoth _)
  · exact drops_modBin _ _ _

theorem drops_activateTray (b : Fin 16) (y : TrayId) (s : State) : Drops s (activateTray b y s) := by
  unfold activateTray
  split
  · exact ((drops_modTray _ _ _ _).trans (drops_modBin _ _ _)).trans (drops_opportunityBoth _)
  · exact .refl s

/-- R136 to R144: every command keeps the laws of the rail. -/
theorem rail_orderLaw : OrderLaw (Rail fun _ => True) where
  toGrants := rail_grants _
  cancelWhere _ _ _ l := l.drops (drops_cancelWhere _ _ _)
  join _ _ _ l planned _ _ := l.enqueue planned.pending
  stow _ _ _ _ _ _ l planned found _ _ := (l.drops (drops_askPocket found)).enqueue planned.pending
  power := Rail.power
  soft l := l.softReset
  lot _ _ l deck := l.lot deck
  ticked l := l.endTick
  deck v _ l rests west east := l.deck v rests west east
  status h payload _ l := l.takeHeadStatus h payload
  stop h _ l due := (l.cancelOrder h).stopTimeout (by
    by_contra rests
    exact ne_clear_of_due due ((l.held h).rests rests).2)
  offline _ _ l due := l.recoverTimeout due
  recovering _ mode _ l rests := l.beginRecovery mode rests
  ends l working empty := (l.parkHeads working empty).lot nofun
  declare _ _ _ _ l _ _ := (l.drops (drops_modTray _ _ _ _)).drops (drops_activateTray _ _ _)
  withdraw _ _ _ l _ := l.drops (drops_modTray _ _ _ _)
  withdrawActive _ _ _ l _ _ := (l.drops (drops_modTray _ _ _ _)).drops (drops_moveActive _ _ _)

end Sys2Proof.Machine
end

section
/-! PROOFS. The laws of the order queues and of the trays: what keeps a queue's law (R114, R115) and a tray's (R86 to R91). -/

namespace Sys2Proof.Machine

variable {s t u : State} {h : Head}

/-! ## A tray and the pockets that are due to it (R86) -/

/-- R86: the law of a tray, with the pockets due to it. -/
structure Bin.TrayFits (x : Bin) (y : TrayId) (due : Nat) : Prop where
  count : (x.tray y).placed + (x.tray y).holes + due ≤ (x.tray y).allocated
  room : (x.tray y).allocated ≤ (x.tray y).capacity
  range : ∀ g, (x.tray y).geometry = some g → g.inRange = true
  absent : (x.tray y).state = .absent → (x.tray y).geometry = none ∧ (x.tray y).allocated = 0
  present : (x.tray y).state ≠ .absent → ∃ g, (x.tray y).geometry = some g
  ready : (x.tray y).state = .ready → (x.tray y).allocated = 0
  active : (x.tray y).state = .active → (x.tray y).allocated < (x.tray y).capacity
  full : (x.tray y).state = .full → (x.tray y).allocated = (x.tray y).placed + (x.tray y).holes
  current : (x.tray y).state = .active ↔ x.active = some y

variable {x : Bin} {y : TrayId} {n m : Nat}

theorem Bin.TrayFits.mono (l : x.TrayFits y n) (fewer : m ≤ n) : x.TrayFits y m :=
  { l with count := (Nat.add_le_add_left fewer _).trans l.count }

/-- The law of a tray reads its record and whether it is the active one. -/
theorem Bin.TrayFits.congr {z : Bin} (l : x.TrayFits y n) (tray : z.tray y = x.tray y)
    (active : z.active = some y ↔ x.active = some y) : z.TrayFits y n := by
  constructor <;> rw [tray]
  · exact l.count
  · exact l.room
  · exact l.range
  · exact l.absent
  · exact l.present
  · exact l.ready
  · exact l.active
  · exact l.full
  · rw [active]; exact l.current

/-- R86: a READY tray has a pocket to give. -/
theorem Bin.TrayFits.capacity_pos (l : x.TrayFits y n) (there : (x.tray y).state ≠ .absent) : 0 < (x.tray y).capacity := by
  obtain ⟨g, geometry⟩ := l.present there
  have bounds := TrayGeometry.capacity_bounds (l.range g geometry)
  rw [TrayRecord.capacity, geometry]
  exact bounds.1

/-- R86: a tray that is not ACTIVE or CLOSING has no pocket due. -/
theorem Bin.TrayFits.settled (l : x.TrayFits y n)
    (rests : (x.tray y).state = .absent ∨ (x.tray y).state = .ready ∨ (x.tray y).state = .full) : n = 0 := by
  have count := l.count
  rcases rests with absent | ready | full
  · have none' := (l.absent absent).2
    omega
  · have none' := l.ready ready
    omega
  · have all := l.full full
    omega

/-- R89: a pocket that is due is placed or left as a hole. -/
theorem Bin.TrayFits.resolved (l : x.TrayFits y (n + 1)) {r : TrayRecord}
    (counts : r.placed + r.holes = (x.tray y).placed + (x.tray y).holes + 1)
    (rest : r.allocated = (x.tray y).allocated ∧ r.geometry = (x.tray y).geometry ∧ r.state = (x.tray y).state) :
    (x.setTray y r).TrayFits y n := by
  obtain ⟨allocated, geometry, state⟩ := rest
  have capacity : r.capacity = (x.tray y).capacity := by rw [TrayRecord.capacity, TrayRecord.capacity, geometry]
  have count := l.count
  have busy (rests : (x.tray y).state = .absent ∨ (x.tray y).state = .ready ∨ (x.tray y).state = .full) : False :=
    absurd (l.settled rests) (Nat.succ_ne_zero n)
  constructor <;> rw [Bin.tray_setTray_self]
  · omega
  · rw [allocated, capacity]; exact l.room
  · rw [geometry]; exact l.range
  · rw [state]; exact fun absent => (busy (.inl absent)).elim
  · rw [state, geometry]; exact l.present
  · rw [state]; exact fun ready => (busy (.inr (.inl ready))).elim
  · rw [state, allocated, capacity]; exact l.active
  · rw [state]; exact fun full => (busy (.inr (.inr full))).elim
  · rw [state, Bin.active_setTray]; exact l.current

/-- R89: a CLOSING tray without outstanding pockets becomes FULL. -/
def Bin.filled (y : TrayId) (x : Bin) : Bin :=
  if (x.tray y).state = .closing ∧ (x.tray y).outstanding = 0 then x.setTray y { x.tray y with state := .full } else x

theorem Bin.TrayFits.filled (l : x.TrayFits y n) : (x.filled y).TrayFits y n := by
  unfold Bin.filled
  split
  · next fills =>
    obtain ⟨closing, settled⟩ := fills
    have apart : (x.tray y).state ≠ .absent := by rw [closing]; nofun
    have count := l.count
    unfold TrayRecord.outstanding at settled
    constructor <;> rw [Bin.tray_setTray_self]
    · exact l.count
    · exact l.room
    · exact l.range
    · exact nofun
    · exact fun _ => l.present apart
    · exact nofun
    · exact nofun
    · exact fun _ => by dsimp only; omega
    · rw [Bin.active_setTray, ← l.current, closing]
      exact ⟨nofun, nofun⟩
  · exact l

/-- A change of one tray's record leaves the other tray's law. -/
theorem Bin.TrayFits.setTray_other (l : x.TrayFits y.other n) (r : TrayRecord) : (x.setTray y r).TrayFits y.other n :=
  l.congr (Bin.tray_setTray_other x y r) (by rw [Bin.active_setTray])

theorem Bin.TrayFits.filled_other (l : x.TrayFits y.other n) : (x.filled y).TrayFits y.other n := by
  unfold Bin.filled
  split
  · exact l.setTray_other _
  · exact l

/-- R87, R88: the tray a pocket is taken from. -/
theorem Bin.TrayFits.taken (l : x.TrayFits y n) (current : x.active = some y) : (x.taken y).TrayFits y (n + 1) := by
  have active := l.current.2 current
  have room := l.active active
  have count := l.count
  by_cases closes : x.closes y
  · have tray : (x.taken y).tray y = { x.tray y with allocated := (x.tray y).allocated + 1, state := .closing } := by
      rw [Bin.tray_taken, if_pos closes]
    have none' : (x.taken y).active ≠ some y := by
      unfold Bin.taken
      dsimp only
      rw [if_pos closes]
      split
      · cases y <;> nofun
      · nofun
    constructor <;> rw [tray]
    · dsimp only; omega
    · exact room
    · exact l.range
    · exact nofun
    · exact fun _ => l.present (by rw [active]; nofun)
    · exact nofun
    · exact nofun
    · exact nofun
    · exact ⟨nofun, fun e => absurd e none'⟩
  · have tray : (x.taken y).tray y = { x.tray y with allocated := (x.tray y).allocated + 1 } := by
      rw [Bin.tray_taken, if_neg closes]
    have still : (x.taken y).active = x.active := by rw [Bin.taken_open closes, Bin.active_setTray]
    constructor <;> rw [tray]
    · dsimp only; omega
    · exact room
    · exact l.range
    · exact fun absent => absurd (active.symm.trans absent) nofun
    · exact l.present
    · exact fun ready => absurd (active.symm.trans ready) nofun
    · exact fun _ => Nat.lt_of_not_le closes
    · exact fun full => absurd (active.symm.trans full) nofun
    · rw [still]; exact l.current

/-- R88: a tray whose bin loses its active tray to it, or has none. -/
theorem Bin.TrayFits.takesOver (l : x.TrayFits y n) (ready : (x.tray y).state = .ready) {z : Bin}
    (tray : z.tray y = { x.tray y with state := .active }) (active : z.active = some y) : z.TrayFits y n := by
  have none' := l.ready ready
  have positive := l.capacity_pos (by rw [ready]; nofun)
  constructor <;> rw [tray]
  · exact l.count
  · exact l.room
  · exact l.range
  · exact nofun
  · exact fun _ => l.present (by rw [ready]; nofun)
  · exact nofun
  · exact fun _ => none' ▸ positive
  · exact nofun
  · exact ⟨fun _ => active, fun _ => rfl⟩

theorem TrayId.other_ne (y : TrayId) : y.other ≠ y := by cases y <;> nofun

theorem Bin.TrayFits.taken_other (l : x.TrayFits y.other n) (current : x.active = some y) :
    (x.taken y).TrayFits y.other n := by
  have tray := Bin.tray_other_taken x y
  have rests : x.active ≠ some y.other := fun active => TrayId.other_ne y (Option.some.inj (active.symm.trans current))
  by_cases moves : x.moves y
  · rw [if_pos moves] at tray
    refine l.takesOver moves.2 tray ?_
    rw [Bin.taken_moving moves]
  · rw [if_neg moves] at tray
    refine l.congr tray ⟨fun active => ?_, fun active => absurd active rests⟩
    by_cases closes : x.closes y
    · rw [Bin.taken_closing closes fun ready => moves ⟨closes, ready⟩] at active
      cases active
    · rw [Bin.taken_open closes, Bin.active_setTray] at active
      exact active

/-- R91: a tray that is withdrawn. -/
theorem Bin.TrayFits.withdrawn {z : Bin} (tray : z.tray y = .initial) (active : z.active ≠ some y) : z.TrayFits y 0 := by
  constructor <;> rw [tray]
  · exact Nat.le_refl 0
  · exact Nat.zero_le _
  · exact nofun
  · exact fun _ => ⟨rfl, rfl⟩
  · exact fun there => absurd rfl there
  · exact fun _ => rfl
  · exact nofun
  · exact nofun
  · exact ⟨nofun, fun e => absurd e active⟩

/-- R90: a tray that is declared. -/
theorem Bin.TrayFits.declared {z : Bin} {g : TrayGeometry} (range : g.inRange = true) (tray : z.tray y = .declared g)
    (active : z.active ≠ some y) : z.TrayFits y 0 := by
  have inRange : ∀ g', some g = some g' → g'.inRange = true := fun g' e => by cases e; exact range
  constructor <;> rw [tray]
  · exact Nat.le_refl 0
  · exact Nat.zero_le _
  · exact inRange
  · exact nofun
  · exact fun _ => ⟨g, rfl⟩
  · exact fun _ => rfl
  · exact nofun
  · exact nofun
  · exact ⟨nofun, fun e => absurd e active⟩

/-! ## An order queue (R113 to R115) -/

/-- R114, R115: `HeadRecord.queueLawful`, with its law of UNKNOWN orders under a condition (`c`): a restart makes them at a
READY head and resolves them (R133). -/
structure HeadRecord.QueueBut (x : HeadRecord) (c : Prop) : Prop where
  length : x.queue.length ≤ 8
  granted : (x.queue.filter Order.isGranted).length ≤ 2
  planned : (x.queue.filter fun o => !(o.action == .park)).length ≤ 5
  tags : (x.queue.map Order.tag).Nodup
  range : ∀ o ∈ x.queue, 1 ≤ o.tag ∧ o.tag ≤ 255
  counter : x.tagCounter ≤ 255
  park : ∀ i o, x.queue[i]? = some o → o.action = .park → i = 0 ∧ o.isGranted = true
  known : c → x.state = .ready → ∀ o ∈ x.queue, o.state ≠ .unknown

theorem queueLawful_iff {x : HeadRecord} : x.queueLawful ↔ x.QueueBut True :=
  ⟨fun ⟨a, b, c, d, e, f, g, i⟩ => ⟨a, b, c, d, e, f, g, fun _ => i⟩,
    fun l => ⟨l.length, l.granted, l.planned, l.tags, l.range, l.counter, l.park, l.known trivial⟩⟩

namespace HeadRecord.QueueBut

variable {x z : HeadRecord} {c d : Prop}

theorem weaken (l : x.QueueBut c) (less : d → c) : x.QueueBut d := { l with known := fun hd => l.known (less hd) }

/-- Orders that leave a queue leave its law. -/
theorem sublist (l : x.QueueBut c) (queue : z.queue.Sublist x.queue) (counter : z.tagCounter = x.tagCounter)
    (known : d → z.state = .ready → ∀ o ∈ z.queue, o.state ≠ .unknown) : z.QueueBut d where
  length := queue.length_le.trans l.length
  granted := (queue.filter _).length_le.trans l.granted
  planned := (queue.filter _).length_le.trans l.planned
  tags := l.tags.sublist (queue.map _)
  range o mem := l.range o (queue.subset mem)
  counter := counter ▸ l.counter
  park i o at_i parks := by
    obtain ⟨f, embeds⟩ := List.sublist_iff_exists_orderEmbedding_getElem?_eq.mp queue
    have later : i ≤ f i := f.strictMono.le_apply
    obtain ⟨first, granted⟩ := l.park (f i) o ((embeds i).symm.trans at_i) parks
    exact ⟨by omega, granted⟩
  known := known

/-- A queue whose orders leave, and a head that keeps its state. -/
theorem fewer (l : x.QueueBut c) (queue : z.queue.Sublist x.queue) (counter : z.tagCounter = x.tagCounter)
    (state : z.state = x.state) : z.QueueBut c :=
  l.sublist queue counter fun hc ready o mem => l.known hc (state ▸ ready) o (queue.subset mem)

/-- Orders that change, but for their tags and actions. -/
theorem map (l : x.QueueBut c) (f : Order → Order) (queue : z.queue = x.queue.map f) (counter : z.tagCounter = x.tagCounter)
    (same : ∀ o, (f o).tag = o.tag ∧ (f o).action = o.action)
    (parks : ∀ o ∈ x.queue, o.action = .park → o.isGranted = true → (f o).isGranted = true)
    (granted : (z.queue.filter Order.isGranted).length ≤ 2)
    (known : d → z.state = .ready → ∀ o ∈ z.queue, o.state ≠ .unknown) : z.QueueBut d where
  length := by rw [queue, List.length_map]; exact l.length
  granted := granted
  planned := by
    rw [queue, List.filter_map, List.length_map]
    refine le_of_eq_of_le (congrArg List.length (List.filter_congr fun o _ => ?_)) l.planned
    rw [Function.comp, (same o).2]
  tags := by
    rw [queue, List.map_map]
    exact (List.map_congr_left fun o _ => (same o).1).symm ▸ l.tags
  range o mem := by
    rw [queue] at mem
    obtain ⟨q, inside, rfl⟩ := List.mem_map.1 mem
    rw [(same q).1]
    exact l.range q inside
  counter := counter ▸ l.counter
  park i o at_i isPark := by
    rw [queue, List.getElem?_map, Option.map_eq_some_iff] at at_i
    obtain ⟨q, at_i, rfl⟩ := at_i
    have qParks := (same q).2.symm.trans isPark
    obtain ⟨first, granted⟩ := l.park i q at_i qParks
    exact ⟨first, parks q (List.mem_of_getElem? at_i) qParks granted⟩
  known := known

/-- Orders of which none is newly granted. -/
theorem granted_map_le (l : x.QueueBut c) {f : Order → Order}
    (less : ∀ o ∈ x.queue, (f o).isGranted = true → o.isGranted = true) :
    ((x.queue.map f).filter Order.isGranted).length ≤ 2 := by
  rw [List.filter_map, List.length_map, ← List.countP_eq_length_filter]
  refine le_trans (List.countP_mono_left less) ?_
  rw [List.countP_eq_length_filter]
  exact l.granted

/-- R113: an order that is not granted is pending. -/
theorem length_eq (queue : List Order) : queue.length =
    (queue.filter Order.isGranted).length + (queue.filter Order.isPending).length := by
  rw [List.length_eq_length_filter_add Order.isGranted]
  congr 2
  refine List.filter_congr fun o _ => ?_
  rw [Order.isGranted, Order.isPending]
  cases o.state <;> rfl

/-- R114, R115: an order of a plan joins a queue. -/
theorem append (l : x.QueueBut c) {o : Order} (planned : o.Planned) (room : pendingCount x ≤ 2) :
    ({ x with queue := x.queue ++ [{ o with tag := nextTag x }], tagCounter := nextTag x } : HeadRecord).QueueBut c := by
  obtain ⟨low, high⟩ := nextNumber_range (x.queue.map Order.tag) x.queue.length x.tagCounter
  have short : x.queue.length ≤ 4 := by
    have parts := length_eq x.queue
    have granted := l.granted
    unfold pendingCount at room
    omega
  have fresh : nextTag x ∉ x.queue.map Order.tag := by
    have unused := nextNumber_fresh (used := x.queue.map Order.tag) x.tagCounter (by rw [List.length_map]; omega)
    rwa [List.length_map] at unused
  have waits : Order.isGranted { o with tag := nextTag x } = false := by
    rw [Order.isGranted]
    dsimp only
    rw [planned.pending]
    rfl
  constructor
  · rw [List.length_append, List.length_singleton]
    omega
  · rw [List.filter_append, List.length_append, List.filter_singleton, waits]
    exact l.granted
  · refine (List.length_filter_le _ _).trans ?_
    rw [List.length_append, List.length_singleton]
    omega
  · rw [List.map_append, List.nodup_append]
    refine ⟨l.tags, List.nodup_singleton _, fun a mem b last => ?_⟩
    obtain rfl := List.mem_singleton.1 last
    exact fun e => fresh (by rw [e] at mem; exact mem)
  · intro q mem
    rcases List.mem_append.1 mem with mem | mem
    · exact l.range q mem
    · obtain rfl := List.mem_singleton.1 mem
      exact ⟨low, high⟩
  · exact high
  · intro i q at_i parks
    rcases Nat.lt_or_ge i x.queue.length with inside | beyond
    · rw [List.getElem?_append_left inside] at at_i
      exact l.park i q at_i parks
    · have mem := List.mem_of_getElem? ((List.getElem?_append_right beyond).symm.trans at_i)
      obtain rfl := List.mem_singleton.1 mem
      exact absurd parks planned.action
  · intro hc ready q mem
    rcases List.mem_append.1 mem with mem | mem
    · exact l.known hc ready q mem
    · obtain rfl := List.mem_singleton.1 mem
      exact fun unknown => OrderState.noConfusion (planned.pending.symm.trans unknown)

end HeadRecord.QueueBut

/-! ## A queue with its orders granted (R121, R143) -/

/-- R121: an order of the claim is granted at most once in a queue. -/
theorem granted_markGranted (a : Order × Resolved) : ∀ {queue : List Order}, (queue.map Order.tag).Nodup →
    ((queue.map (markGranted a)).filter Order.isGranted).length ≤ (queue.filter Order.isGranted).length + 1
  | [], _ => Nat.zero_le _
  | o :: queue, distinct => by
    obtain ⟨apart, distinct⟩ := List.nodup_cons.1 distinct
    rw [List.map_cons]
    by_cases own : o.tag = a.1.tag
    · have rest : queue.map (markGranted a) = queue := by
        refine (List.map_congr_left (g := id) fun q mem => if_neg fun same => apart ?_).trans (List.map_id _)
        rw [own, ← same]
        exact List.mem_map_of_mem mem
      have grown : ((markGranted a o :: queue).filter Order.isGranted).length ≤ (queue.filter Order.isGranted).length + 1 := by
        rw [List.filter_cons]
        split
        · exact Nat.le_refl _
        · exact Nat.le_succ _
      have kept := ((List.sublist_cons_self o queue).filter Order.isGranted).length_le
      rw [rest]
      omega
    · have other : markGranted a o = o := if_neg own
      have ih := granted_markGranted a distinct
      rw [other, List.filter_cons, List.filter_cons]
      split
      · rw [List.length_cons, List.length_cons]
        omega
      · exact ih

theorem markGranted_kept (a : Order × Resolved) (o : Order) :
    (markGranted a o).tag = o.tag ∧ (markGranted a o).action = o.action ∧ (markGranted a o).location = o.location := by
  unfold markGranted
  split <;> exact ⟨rfl, rfl, rfl⟩

/-- R121: an order is as it was, or the claim's. -/
def markAll (claim : List (Order × Resolved)) (o : Order) : Order := claim.foldl (fun o a => markGranted a o) o

theorem foldl_markGranted (claim : List (Order × Resolved)) (queue : List Order) :
    claim.foldl (fun l a => l.map (markGranted a)) queue = queue.map (markAll claim) := by
  induction claim generalizing queue with
  | nil => exact (List.map_id _).symm
  | cons a claim ih => rw [List.foldl_cons, ih, List.map_map]; rfl

theorem markAll_kept (claim : List (Order × Resolved)) (o : Order) :
    (markAll claim o).tag = o.tag ∧ (markAll claim o).action = o.action ∧ (markAll claim o).location = o.location := by
  unfold markAll
  induction claim generalizing o with
  | nil => exact ⟨rfl, rfl, rfl⟩
  | cons a claim ih =>
    obtain ⟨tag, action, location⟩ := ih (markGranted a o)
    obtain ⟨tag', action', location'⟩ := markGranted_kept a o
    exact ⟨tag.trans tag', action.trans action', location.trans location'⟩

theorem granted_markAll : ∀ (claim : List (Order × Resolved)) {queue : List Order}, (queue.map Order.tag).Nodup →
    ((queue.map (markAll claim)).filter Order.isGranted).length ≤ (queue.filter Order.isGranted).length + claim.length
  | [], queue, _ => by rw [show queue.map (markAll []) = queue from List.map_id _]; exact Nat.le_refl _
  | a :: claim, queue, distinct => by
    have tags : ((queue.map (markGranted a)).map Order.tag).Nodup := by
      rw [List.map_map]
      exact (List.map_congr_left fun o _ => (markGranted_kept a o).1).symm ▸ distinct
    have rest := granted_markAll claim tags
    have first := granted_markGranted a distinct
    rw [List.map_map] at rest
    rw [List.length_cons]
    exact rest.trans (by omega)

theorem markAll_isGranted (claim : List (Order × Resolved)) {o : Order} (granted : o.isGranted = true) :
    (markAll claim o).isGranted = true := by
  unfold markAll
  induction claim generalizing o with
  | nil => exact granted
  | cons a claim ih =>
    have first : (markGranted a o).isGranted = true := by
      unfold markGranted
      split
      · rfl
      · exact granted
    exact ih first

/-- R119 to R121: a grant keeps the law of its head's queue. -/
theorem HeadRecord.QueueBut.grant {x z : HeadRecord} (l : x.QueueBut True) {claim : List (Order × Resolved)}
    (ready : x.state = .ready)
    (room : outstandingCount x + claim.length ≤ 2) (queue : z.queue = x.queue.map (markAll claim))
    (counter : z.tagCounter = x.tagCounter) : z.QueueBut True := by
  have outstanding : (x.queue.filter Order.isGranted).length = outstandingCount x := by
    refine congrArg List.length (List.filter_congr fun o mem => ?_)
    rw [Order.isGranted, beq_eq_false_iff_ne.2 (l.known trivial ready o mem), Bool.or_false]
  refine l.map (markAll claim) queue counter (fun o => ⟨(markAll_kept claim o).1, (markAll_kept claim o).2.1⟩)
    (fun o _ _ granted => markAll_isGranted claim granted) ?_ fun _ _ p mem unknown => ?_
  · rw [queue]
    exact (granted_markAll claim l.tags).trans (outstanding ▸ room)
  · rw [queue, ← foldl_markGranted] at mem
    rcases mem_markGranted claim mem with before | ⟨_, _, _, out⟩
    · exact l.known trivial ready p before unknown
    · exact OrderState.noConfusion (out.symm.trans unknown)

/-- R143: a PARK that is granted as it joins a queue without granted orders. -/
theorem HeadRecord.QueueBut.parkFirst {x z : HeadRecord} (l : x.QueueBut True) (ready : x.state = .ready)
    (idle : ∀ q ∈ x.queue, q.isGranted = false) {o : Order} (tag : o.tag = nextTag x) (out : o.state = .outstanding)
    (queue : z.queue = o :: x.queue) (counter : z.tagCounter = nextTag x)
    (parks : o.action = .park) : z.QueueBut True := by
  have noPark : ∀ q ∈ x.queue, (!(q.action == .park)) = true := fun q mem => by
    obtain ⟨i, at_i⟩ := List.mem_iff_getElem?.1 mem
    simpa using fun parks => Bool.false_ne_true ((idle q mem).symm.trans (l.park i q at_i parks).2)
  have short : x.queue.length ≤ 5 := by
    have planned := l.planned
    rwa [List.filter_eq_self.2 noPark] at planned
  obtain ⟨low, high⟩ := nextNumber_range (x.queue.map Order.tag) x.queue.length x.tagCounter
  have fresh : nextTag x ∉ x.queue.map Order.tag := by
    have unused := nextNumber_fresh (used := x.queue.map Order.tag) x.tagCounter (by rw [List.length_map]; omega)
    rwa [List.length_map] at unused
  constructor
  · rw [queue, List.length_cons]
    omega
  · rw [queue, List.filter_cons, List.filter_eq_nil_iff.2 fun q mem => by rw [idle q mem]; nofun]
    split
    · exact Nat.le_succ 1
    · exact Nat.zero_le 2
  · rw [queue, List.filter_cons, parks, List.filter_eq_self.2 noPark]
    exact short
  · rw [queue]
    exact List.nodup_cons.2 ⟨tag ▸ fresh, l.tags⟩
  · rw [queue]
    intro q mem
    rcases List.mem_cons.1 mem with rfl | mem
    · rw [tag]
      exact ⟨low, high⟩
    · exact l.range q mem
  · rw [counter]
    exact high
  · rw [queue]
    intro i q at_i isPark
    cases i with
    | zero =>
      obtain rfl : o = q := by simpa using at_i
      exact ⟨rfl, by rw [Order.isGranted, out]; rfl⟩
    | succ i =>
      have mem : q ∈ x.queue := List.mem_of_getElem? (by simpa using at_i)
      have never := noPark q mem
      rw [isPark] at never
      cases never
  · rw [queue]
    intro _ _ q mem
    rcases List.mem_cons.1 mem with rfl | mem
    · rw [out]
      nofun
    · exact l.known trivial ready q mem

end Sys2Proof.Machine
end

section
/-! PROOFS. The laws of the order queues and of the trays through the operations on orders and pockets (R86 to R92, R113 to
R115, R127). -/

namespace Sys2Proof.Machine

variable {s t u : State} {h : Head} {k j : Head → Prop} {c : Prop} {loc : Option Location}

/-! ## Pockets (R86, R87) -/

/-- An order's location is a pocket of a tray. -/
def Order.atPocket (b : Fin 16) (y : TrayId) (o : Order) : Bool :=
  match o.location with
  | some (.pocket d z _) => decide (d = b ∧ z = y)
  | _ => false

theorem pocketsHeld_eq (b : Fin 16) (y : TrayId) (x : HeadRecord) :
    pocketsHeld b y x = (x.queue.filter (Order.atPocket b y)).length := rfl

/-- The pocket of a tray that is owed to a location: one that has been given, or whose order has left its queue. -/
def owed (loc : Option Location) (b : Fin 16) (y : TrayId) : Nat :=
  match loc with
  | some (.pocket d z _) => if d = b ∧ z = y then 1 else 0
  | _ => 0

theorem owed_location (o : Order) (b : Fin 16) (y : TrayId) :
    owed o.location b y = if o.atPocket b y = true then 1 else 0 := by
  unfold owed Order.atPocket
  split <;> simp

theorem owed_eq_zero (off : ∀ b y j, loc ≠ some (.pocket b y j)) (b : Fin 16) (y : TrayId) : owed loc b y = 0 := by
  unfold owed
  split
  · next d z j => exact absurd rfl (off d z j)
  · rfl

theorem owed_self (b : Fin 16) (y : TrayId) (j : Nat) : owed (some (.pocket b y j)) b y = 1 := if_pos ⟨rfl, rfl⟩

theorem owed_apart {b d : Fin 16} {y z : TrayId} (apart : ¬ (d = b ∧ z = y)) (j : Nat) :
    owed (some (.pocket d z j)) b y = 0 := if_neg apart

/-- R86: the pockets due to a tray: those of the queued orders, and one that is owed. -/
def State.due (s : State) (loc : Option Location) (b : Fin 16) (y : TrayId) : Nat :=
  pocketsHeld b y (s.head .west) + pocketsHeld b y (s.head .east) + owed loc b y

theorem pocketsHeld_sublist {x z : HeadRecord} (queue : z.queue.Sublist x.queue) (b : Fin 16) (y : TrayId) :
    pocketsHeld b y z ≤ pocketsHeld b y x := (queue.filter _).length_le

theorem pocketsHeld_map {x z : HeadRecord} {f : Order → Order} (queue : z.queue = x.queue.map f)
    (location : ∀ o, (f o).location = o.location) (b : Fin 16) (y : TrayId) : pocketsHeld b y z = pocketsHeld b y x := by
  rw [pocketsHeld_eq, pocketsHeld_eq, queue, List.filter_map, List.length_map]
  refine congrArg List.length (List.filter_congr fun o _ => ?_)
  unfold Order.atPocket
  rw [Function.comp, location]

/-- An order that leaves a queue takes its pocket with it. -/
theorem pocketsHeld_leave {queue : List Order} {o : Order} (mem : o ∈ queue) (b : Fin 16) (y : TrayId) :
    ((queue.filter fun q => !(q.tag == o.tag)).filter (Order.atPocket b y)).length + owed o.location b y ≤
      (queue.filter (Order.atPocket b y)).length := by
  have parts := List.length_eq_length_filter_add (l := queue.filter (Order.atPocket b y)) fun q => !(q.tag == o.tag)
  rw [List.filter_comm] at parts
  have own : owed o.location b y ≤ ((queue.filter (Order.atPocket b y)).filter fun q => !!(q.tag == o.tag)).length := by
    rw [owed_location]
    split
    · next pocket =>
      refine List.length_pos_of_mem (a := o) (List.mem_filter.2 ⟨List.mem_filter.2 ⟨mem, pocket⟩, ?_⟩)
      simp
    · exact Nat.zero_le _
  omega

/-! ## The laws of the queues and of the trays -/

/-- R86, R114, R115: the laws of the queues and, under a condition (`c`), of the trays, while a pocket may be owed. -/
structure Queues (k : Head → Prop) (c : Prop) (loc : Option Location) (s : State) : Prop where
  queue : ∀ h, (s.head h).QueueBut (k h)
  trays : c → ∀ (b : Fin 16) (y : TrayId), s.bins[b].TrayFits y (s.due loc b y)

theorem queuesLawful_iff : s.queuesLawful ↔ Queues (fun _ => True) False none s :=
  ⟨fun l => ⟨fun h => queueLawful_iff.1 (l h), False.elim⟩, fun l h => queueLawful_iff.2 (l.queue h)⟩

theorem trayLawful_iff (b : Fin 16) (y : TrayId) : s.trayLawful b y ↔ s.bins[b].TrayFits y (s.due none b y) := by
  have due : s.due none b y = pocketsHeld b y s.heads.west + pocketsHeld b y s.heads.east := rfl
  rw [due]
  constructor
  · rintro ⟨count, room, range, absent, present, ready, active, full, current⟩
    exact ⟨by omega, room, range, absent, present, ready, active, full, current⟩
  · rintro ⟨count, room, range, absent, present, ready, active, full, current⟩
    exact ⟨by omega, room, range, absent, present, ready, active, full, current⟩

theorem laws_iff : s.queuesLawful ∧ s.traysLawful ↔ Queues (fun _ => True) True none s :=
  ⟨fun ⟨queues, trays⟩ => ⟨fun h => queueLawful_iff.1 (queues h), fun _ b y => (trayLawful_iff b y).1 (trays b y)⟩,
    fun l => ⟨fun h => queueLawful_iff.2 (l.queue h), fun b y => (trayLawful_iff b y).2 (l.trays trivial b y)⟩⟩

/-- The trays of a bin, whatever its mark of being blocked. -/
theorem Bin.TrayFits.blocked {x z : Bin} {y : TrayId} {n : Nat} (l : x.TrayFits y n)
    (same : { z with blocked := false } = { x with blocked := false }) : z.TrayFits y n := by
  have tray : z.tray y = x.tray y := (congrArg (Bin.tray · y) same :)
  have active : z.active = x.active := (congrArg Bin.active same :)
  exact l.congr tray (by rw [active])

theorem Queues.change {loc' : Option Location} (l : Queues k c loc s) (queue : ∀ h, (t.head h).QueueBut (j h))
    (bins : t.bins = s.bins) (due : ∀ b y, t.due loc' b y ≤ s.due loc b y) : Queues j c loc' t :=
  ⟨queue, fun hc b y => by rw [bins]; exact (l.trays hc b y).mono (due b y)⟩

theorem queues_readsView (k : Head → Prop) (c : Prop) (loc : Option Location) : ReadsView (Queues k c loc) := by
  refine ⟨fun {s t} l same => ?_⟩
  have view (h : Head) := head_of_lawView same h
  have queue (h : Head) := queue_of_lawView same h
  refine ⟨fun h => (l.queue h).fewer (by rw [queue h]) ?_ ?_, fun hc b y => ?_⟩
  · exact (congrArg HeadRecord.tagCounter (view h) :)
  · exact (congrArg HeadRecord.state (view h) :)
  · have due : t.due loc b y = s.due loc b y := by
      unfold State.due
      rw [pocketsHeld_eq, pocketsHeld_eq, queue, queue]
      rfl
    rw [due]
    exact (l.trays hc b y).blocked (bin_of_lawView same b)

/-- Nothing owed is left owed. -/
theorem Queues.settled (l : Queues k c loc s) : Queues k c none s :=
  l.change l.queue rfl fun _ _ => Nat.add_le_add_left (Nat.zero_le _) _

theorem Queues.owe (l : Queues k c none s) (off : ∀ b y j, loc ≠ some (.pocket b y j)) : Queues k c loc s :=
  l.change l.queue rfl fun b y => by unfold State.due; rw [owed_eq_zero off]; exact Nat.le_refl _

/-- A change of one head. -/
theorem Queues.modHead {loc' : Option Location} (l : Queues k c loc s) {f : HeadRecord → HeadRecord}
    (own : (f (s.head h)).QueueBut (j h)) (others : j h.other → k h.other)
    (pockets : ∀ b y, pocketsHeld b y (f (s.head h)) + owed loc' b y ≤ pocketsHeld b y (s.head h) + owed loc b y) :
    Queues j c loc' (s.modHead h f) := by
  have self := State.head_modHead_self s h f
  have other := State.head_modHead_other s h f
  refine l.change (fun g => ?_) rfl fun b y => ?_
  · have rest : ((s.modHead h f).head h.other).QueueBut (j h.other) := by
      rw [other]
      exact (l.queue h.other).weaken others
    rw [← self] at own
    cases h <;> cases g <;> assumption
  · have more := pockets b y
    unfold State.due
    cases h
    · rw [self, show (s.modHead .west f).head .east = s.head .east from other]
      omega
    · rw [self, show (s.modHead .east f).head .west = s.head .west from other]
      omega

/-- A change of a head outside its queue, its tags and its state. -/
theorem Queues.modHead_same (l : Queues k c loc s) {f : HeadRecord → HeadRecord} (queue : (f (s.head h)).queue = (s.head h).queue)
    (counter : (f (s.head h)).tagCounter = (s.head h).tagCounter)
    (state : k h → (f (s.head h)).state = .ready → (s.head h).state = .ready) : Queues k c loc (s.modHead h f) := by
  refine l.modHead ((l.queue h).sublist (by rw [queue]) counter fun hk ready o mem => ?_) id fun b y => ?_
  · exact (l.queue h).known hk (state hk ready) o (queue ▸ mem)
  · rw [pocketsHeld_eq, pocketsHeld_eq, queue]

/-- R113: an order leaves a queue. -/
theorem Queues.leaveQueue (l : Queues k c none s) {o : Order} (mem : o ∈ (s.head h).queue) :
    Queues k c o.location (leaveQueue h o.tag s) :=
  l.modHead ((l.queue h).fewer List.filter_sublist rfl rfl) id fun b y => pocketsHeld_leave mem b y

/-! ## Pockets placed or left as holes (R89) -/

theorem bins_fillTray (b : Fin 16) (y : TrayId) (s : State) : (fillTray b y s).bins = (s.modBin b (Bin.filled y)).bins := by
  unfold fillTray
  dsimp only
  split
  · next fills =>
    rw [(offLink_bins (offLink_raiseEvent _ _ _) : _)]
    exact congrArg State.bins (State.modBin_congr (if_pos fills).symm)
  · next open_ => exact congrArg State.bins (State.modBin_self (if_neg open_)).symm

theorem TrayId.eq_or_other (y z : TrayId) : z = y ∨ z = y.other := by cases y <;> cases z <;> simp [TrayId.other]

/-- A pocket that is owed is resolved in its tray. -/
theorem Queues.pocket {b : Fin 16} {y : TrayId} {i : Nat} {r : TrayRecord} (l : Queues k c (some (.pocket b y i)) s)
    (counts : r.placed + r.holes = (s.bins[b].tray y).placed + (s.bins[b].tray y).holes + 1)
    (rest : r.allocated = (s.bins[b].tray y).allocated ∧ r.geometry = (s.bins[b].tray y).geometry ∧
      r.state = (s.bins[b].tray y).state)
    (heads : ∀ h, (t.head h).lawView = (s.head h).lawView)
    (bins : t.bins = (s.modBin b fun x => (x.setTray y r).filled y).bins) : Queues k c none t := by
  have queue (h : Head) : (t.head h).queue = (s.head h).queue := (congrArg HeadRecord.queue (heads h) :)
  have due (d : Fin 16) (z : TrayId) : s.due (some (.pocket b y i)) d z = t.due none d z + owed (some (.pocket b y i)) d z := by
    unfold State.due
    rw [pocketsHeld_eq, pocketsHeld_eq, pocketsHeld_eq, pocketsHeld_eq, queue, queue]
    rfl
  refine ⟨fun h => (l.queue h).fewer (by rw [queue h]) ?_ ?_, fun hc d z => ?_⟩
  · exact (congrArg HeadRecord.tagCounter (heads h) :)
  · exact (congrArg HeadRecord.state (heads h) :)
  · have fits := l.trays hc d z
    rw [due] at fits
    rw [bins, State.bin_modBin]
    split
    · next own =>
      subst own
      rcases y.eq_or_other z with rfl | rfl
      · rw [owed_self] at fits
        exact (fits.resolved counts rest).filled
      · rw [owed_apart fun same => TrayId.other_ne y same.2.symm] at fits
        exact (fits.setTray_other r).filled_other
    · next apart =>
      rw [owed_apart fun same => apart same.1] at fits
      exact fits

theorem heads_fillTray (b : Fin 16) (y : TrayId) (s : State) : (fillTray b y s).heads = s.heads := by
  unfold fillTray
  dsimp only
  split
  · have raised := offLink_heads (offLink_raiseEvent .trayFull b (s.modTray b y fun x => { x with state := .full }))
    exact raised.trans rfl
  · rfl

theorem Queues.holePocket {b : Fin 16} {y : TrayId} {i : Nat} (l : Queues k c (some (.pocket b y i)) s) :
    Queues k c none (holePocket b y s) := by
  refine l.pocket (r := { s.bins[b].tray y with holes := (s.bins[b].tray y).holes + 1 }) rfl ⟨rfl, rfl, rfl⟩ (fun h => ?_) ?_
  · exact congrArg (fun x => (PerHead.get x h).lawView) (heads_fillTray b y _)
  · rw [Machine.holePocket, bins_fillTray, State.modTray, State.modBin_modBin]
    exact congrArg State.bins (State.modBin_congr rfl)

theorem Queues.placePocket {b : Fin 16} {y : TrayId} {i : Nat} (l : Queues k c (some (.pocket b y i)) s) :
    Queues k c none (placePocket b y s) := by
  refine l.pocket (r := { s.bins[b].tray y with placed := (s.bins[b].tray y).placed + 1 }) (by dsimp only; omega)
    ⟨rfl, rfl, rfl⟩ (fun h => ?_) ?_
  · exact congrArg (fun x => (PerHead.get x h).lawView) (heads_fillTray b y _)
  · rw [Machine.placePocket, bins_fillTray]
    have counted (u : State) (f : Counters → Counters) :
        ((u.modCounters f).modBin b (Bin.filled y)).bins = (u.modBin b (Bin.filled y)).bins := rfl
    rw [counted, State.modTray, State.modBin_modBin]
    exact congrArg State.bins (State.modBin_congr rfl)

theorem Queues.holeOf {o : Order} (l : Queues k c o.location s) : Queues k c none (holeOf o s) := by
  unfold Machine.holeOf
  split
  · next at_pocket =>
    rw [at_pocket] at l
    exact l.holePocket
  · exact l.settled

/-! ## Pending orders cancelled (R127) -/

theorem Queues.cancelPending (l : Queues k c none s) {o : Order} (mem : o ∈ (s.head h).queue) :
    Queues k c none (cancelPending h o s) := by
  have point : (cancelPoint h o s).lawView = s.lawView := by
    unfold cancelPoint
    split <;> rfl
  have left := ((queues_readsView k c none).same l point).leaveQueue (o := o) (by rw [queue_of_lawView point]; exact mem)
  exact (queues_readsView k c none).same left.holeOf ((lawView_opportunity h _).trans (lawView_endPlan h o.plan _))

/-- The orders of a queue that are cancelled one after the other. -/
theorem Queues.cancelAll : ∀ (os : List Order) {s : State}, Queues k c none s → (∀ o ∈ os, o ∈ (s.head h).queue) →
    (os.map Order.tag).Nodup → Queues k c none (os.foldl (fun s o => Machine.cancelPending h o s) s)
  | [], _, l, _, _ => l
  | o :: os, s, l, members, distinct => by
    obtain ⟨apart, distinct⟩ := List.nodup_cons.1 distinct
    refine Queues.cancelAll os (l.cancelPending (members o List.mem_cons_self)) (fun q mem => ?_) distinct
    rw [queue_cancelPending_eq, if_pos rfl]
    refine List.mem_filter.2 ⟨members q (List.mem_cons_of_mem _ mem), ?_⟩
    have other : q.tag ≠ o.tag := fun same => apart (same ▸ List.mem_map_of_mem mem)
    simpa using other

theorem queues_sheds (k : Head → Prop) (c : Prop) : Sheds (Queues k c none) where
  same := (queues_readsView k c none).same
  cancelWhere _ _ _ l := Queues.cancelAll _ l (fun _ mem => (List.mem_filter.1 mem).1)
    ((l.queue _).tags.sublist (List.filter_sublist.map _))

end Sys2Proof.Machine
end

section
/-! PROOFS. The laws of the order queues and of the trays through statuses, stops and READY (R123 to R133). -/

namespace Sys2Proof.Machine

variable {s t u : State} {h : Head} {k j : Head → Prop} {c : Prop} {loc : Option Location}

/-! ## What the laws do not read -/

/-- A change outside the queues, the tags, the heads' states and the trays. -/
theorem Queues.still (l : Queues k c loc s) (queue : ∀ h, (t.head h).queue = (s.head h).queue)
    (counter : ∀ h, (t.head h).tagCounter = (s.head h).tagCounter) (state : ∀ h, (t.head h).state = (s.head h).state)
    (bins : t.bins = s.bins) : Queues k c loc t := by
  refine l.change (fun h => (l.queue h).fewer (by rw [queue]) (counter h) (state h)) bins fun b y => ?_
  unfold State.due
  rw [pocketsHeld_eq, pocketsHeld_eq, queue, queue]
  exact Nat.le_refl _

theorem Queues.same_heads (l : Queues k c loc s) (heads : t.heads = s.heads) (bins : t.bins = s.bins) : Queues k c loc t := by
  have head (h : Head) : t.head h = s.head h := congrArg (PerHead.get · h) heads
  exact l.still (fun h => by rw [head]) (fun h => by rw [head]) (fun h => by rw [head]) bins

theorem Queues.setTimer (l : Queues k c loc s) (id : TimerId) (x : Timer) : Queues k c loc (s.setTimer id x) :=
  l.same_heads (by cases id <;> rfl) (by cases id <;> rfl)

theorem Queues.tellOther (l : Queues k c loc s) (h : Head) (old : Span) : Queues k c loc (tellOther h old s) :=
  l.same_heads (tellOther_heads _ _ _) (tellOther_bins _ _ _)

theorem Queues.recompute (l : Queues k c loc s) (h : Head) : Queues k c loc (recomputeHoldings h s) :=
  Queues.tellOther (l.modHead_same (f := fun x => { x with holdings := newHoldings x }) rfl rfl fun _ ready => ready) h _

theorem Queues.retime (l : Queues k c loc s) (h : Head) : Queues k c loc (retime h s) := by
  unfold Machine.retime
  split <;> exact l.setTimer _ _

theorem Queues.setBase (l : Queues k c loc s) (h : Head) (z : Nat) : Queues k c loc (setBase h z s) := by
  have kept : (if (s.head h).state = .ready then { s.head h with base := some z } else s.head h).queue = (s.head h).queue ∧
      (if (s.head h).state = .ready then { s.head h with base := some z } else s.head h).tagCounter = (s.head h).tagCounter ∧
      (if (s.head h).state = .ready then { s.head h with base := some z } else s.head h).state = (s.head h).state := by
    split <;> exact ⟨rfl, rfl, rfl⟩
  exact l.modHead_same kept.1 kept.2.1 fun _ ready => kept.2.2.symm.trans ready

theorem Queues.view (l : Queues k c loc s) (same : t.lawView = s.lawView) : Queues k c loc t :=
  (queues_readsView k c loc).same l same

/-! ## Orders resolved (R124, R127) -/

/-- R124: the pocket of an order that is done is placed. -/
theorem Queues.doneEffect {o : Order} (l : Queues k c o.location s) : Queues k c none (doneEffect h o s) := by
  by_cases pocket : ∃ b y i, o.location = some (.pocket b y i)
  · obtain ⟨b, y, i, at_pocket⟩ := pocket
    have placed : Queues k c none (Machine.placePocket b y s) := by
      rw [at_pocket] at l
      exact l.placePocket
    unfold Machine.doneEffect
    rw [at_pocket]
    cases o.action with
    | place =>
      cases o.nozzle with
      | none => exact l.settled
      | some n =>
        dsimp only
        split
        · exact placed.view (lawView_releaseAt _ _)
        · exact placed.view (lawView_modCounters _ _)
    | _ => exact l.settled
  · exact (queues_sheds k c).doneEffect h (fun b y i at_pocket => pocket ⟨b, y, i, at_pocket⟩) l.settled

/-- R127: the pocket of an order that is not done is left as a hole. -/
theorem Queues.notDoneEffect {o : Order} (l : Queues k c o.location s) : Queues k c none (notDoneEffect o s) := by
  by_cases pocket : ∃ b y i, o.location = some (.pocket b y i)
  · obtain ⟨b, y, i, at_pocket⟩ := pocket
    have hole : Machine.notDoneEffect o s = Machine.holeOf o s := by
      unfold Machine.notDoneEffect
      rw [at_pocket]
      cases o.action <;> rfl
    rw [hole]
    exact l.holeOf
  · exact (queues_sheds k c).notDoneEffect (fun b y i at_pocket => pocket ⟨b, y, i, at_pocket⟩) l.settled

/-- R128: the pocket of a final stuck is left as a hole. -/
theorem Queues.stuckAt {o : Order} (l : Queues k c o.location s) : Queues k c none (stuckAt o s) := by
  by_cases pocket : ∃ b y i, o.location = some (.pocket b y i)
  · obtain ⟨b, y, i, at_pocket⟩ := pocket
    have hole : Machine.stuckAt o s = Machine.holeOf o s := by
      unfold Machine.stuckAt
      rw [at_pocket]
    rw [hole]
    exact l.holeOf
  · exact (queues_sheds k c).stuckAt (fun b y i at_pocket => pocket ⟨b, y, i, at_pocket⟩) l.settled

theorem Queues.resolveDone (l : Queues k c none s) {o : Order} (mem : o ∈ (s.head h).queue) :
    Queues k c none (resolveDone h o s) := by
  have arrived : Queues k c o.location (doneArrived h o s) := (l.leaveQueue mem).view (lawView_setKnown h _ _)
  have done : Queues k c none (Machine.doneEffect h o (doneArrived h o s)) := arrived.doneEffect
  rw [resolveDone_eq]
  exact (((done.setBase h _).recompute h).retime h).view ((lawView_opportunity h _).trans (lawView_endPlan h o.plan _))

theorem Queues.resolveNotDone (l : Queues k c none s) {o : Order} (mem : o ∈ (s.head h).queue) :
    Queues k c none (resolveNotDone h o s) :=
  ((l.leaveQueue mem).notDoneEffect.recompute h).view ((lawView_opportunity h _).trans (lawView_endPlan h o.plan _))

/-- A granted order stays queued while others leave pending. -/
theorem HeadDrops.mem_granted {x y : HeadRecord} (d : HeadDrops x y) (distinct : (x.queue.map Order.tag).Nodup) {q : Order}
    (mem : q ∈ x.queue) (granted : q.isGranted = true) : q ∈ y.queue := by
  have stays : q ∈ y.queue.filter Order.isGranted := by
    rw [d.granted distinct]
    exact List.mem_filter.2 ⟨mem, granted⟩
  exact (List.mem_filter.1 stays).1

/-- R124, R127: another granted order stays queued while one is resolved. -/
theorem mem_resolveNotDone (distinct : ((s.head h).queue.map Order.tag).Nodup) {o q : Order} (mem : q ∈ (s.head h).queue)
    (granted : q.isGranted = true) (apart : q.tag ≠ o.tag) : q ∈ ((resolveNotDone h o s).head h).queue := by
  have effect := (drops_notDoneEffect o (leaveQueue h o.tag s)).head h
  have ended := ((drops_endPlan h o.plan (recomputeHoldings h (notDoneEffect o (leaveQueue h o.tag s)))).trans
    ((drops_opportunity h _).trans (drops_grantPoint h _))).head h
  rw [head_leaveQueue] at effect
  rw [head_recomputeHoldings] at ended
  have left : (((s.head h).queue.filter fun p => !(p.tag == o.tag)).map Order.tag).Nodup :=
    distinct.sublist (List.filter_sublist.map _)
  have first := effect.mem_granted left (q := q) (List.mem_filter.2 ⟨mem, by simpa using apart⟩) granted
  exact ended.mem_granted (left.sublist (effect.queue.map _)) first granted

theorem mem_resolveDone (distinct : ((s.head h).queue.map Order.tag).Nodup) {o q : Order} (mem : q ∈ (s.head h).queue)
    (granted : q.isGranted = true) (apart : q.tag ≠ o.tag) : q ∈ ((resolveDone h o s).head h).queue := by
  have effect := (drops_doneEffect h o (doneArrived h o s)).head h
  obtain ⟨-, queue⟩ := head_doneFollows h o (doneEffect h o (doneArrived h o s))
  rw [head_doneArrived] at effect
  rw [resolveDone_eq, queue]
  exact effect.mem_granted (distinct.sublist (List.filter_sublist.map _))
    (List.mem_filter.2 ⟨mem, by simpa using apart⟩) granted

/-- The granted orders of a queue that are resolved one after the other. -/
structure Awaiting (h : Head) (os : List Order) (s : State) : Prop where
  members : ∀ o ∈ os, o ∈ (s.head h).queue ∧ o.isGranted = true
  distinct : (os.map Order.tag).Nodup

theorem Awaiting.of_filter {p : Order → Bool} (granted : ∀ o, p o = true → o.isGranted = true)
    (distinct : ((s.head h).queue.map Order.tag).Nodup) : Awaiting h ((s.head h).queue.filter p) s :=
  ⟨fun o mem => ⟨(List.mem_filter.1 mem).1, granted o (List.mem_filter.1 mem).2⟩,
    distinct.sublist (List.filter_sublist.map _)⟩

/-- The first has been resolved. -/
theorem Awaiting.next {o : Order} {os : List Order} (a : Awaiting h (o :: os) s)
    (stays : ∀ q ∈ (s.head h).queue, q.isGranted = true → q.tag ≠ o.tag → q ∈ (t.head h).queue) : Awaiting h os t := by
  obtain ⟨apart, distinct⟩ := List.nodup_cons.1 a.distinct
  refine ⟨fun q mem => ?_, distinct⟩
  obtain ⟨queued, granted⟩ := a.members q (List.mem_cons_of_mem _ mem)
  exact ⟨stays q queued granted fun same => apart (same ▸ List.mem_map_of_mem mem), granted⟩

theorem Queues.failAll : ∀ (os : List Order) {s : State}, Queues k c none s → Awaiting h os s →
    Queues k c none (os.foldl (fun s o => Machine.resolveNotDone h o s) s)
  | [], _, l, _ => l
  | o :: os, s, l, a => by
    have distinct := (l.queue h).tags
    exact Queues.failAll os (l.resolveNotDone (a.members o List.mem_cons_self).1)
      (a.next fun q mem granted apart => mem_resolveNotDone distinct mem granted apart)

theorem Queues.failGranted (l : Queues k c none s) (h : Head) : Queues k c none (failGranted h s) :=
  Queues.failAll _ l (.of_filter (fun _ granted => granted) (l.queue h).tags)

/-! ## Statuses for an order (R126, R128, R129) -/

/-- R126: the orders of a queue without a PARK go back. -/
theorem Queues.returnForRetry (l : Queues k c none s) (failed : Option Nat)
    (noPark : ∀ q ∈ (s.head h).queue, q.action ≠ .park) : Queues k c none (returnForRetry h failed s) := by
  have kept (o : Order) : (o.returned failed).tag = o.tag ∧ (o.returned failed).action = o.action ∧
      (o.returned failed).location = o.location ∧ ((o.returned failed).isGranted = true → o.isGranted = true) ∧
      ((o.returned failed).state = .unknown → o.state = .unknown) := by
    unfold Order.returned
    split
    · exact ⟨rfl, rfl, rfl, nofun, nofun⟩
    · exact ⟨rfl, rfl, rfl, id, id⟩
  have requeued : Queues k c none (requeued h failed s) := by
    refine l.modHead ((l.queue h).map (Order.returned failed) rfl rfl (fun o => ⟨(kept o).1, (kept o).2.1⟩)
      (fun o mem parks => absurd parks (noPark o mem)) ((l.queue h).granted_map_le fun o _ => (kept o).2.2.2.1)
      fun hk ready o mem unknown => ?_) id fun b y => ?_
    · obtain ⟨q, inside, rfl⟩ := List.mem_map.1 mem
      exact (l.queue h).known hk ready q inside ((kept q).2.2.2.2 unknown)
    · rw [pocketsHeld_map rfl fun o => (kept o).2.2.1]
  have back : Queues k c none (givenBack h failed s) :=
    foldl_keeps (fun _ o l => (queues_sheds k c).revertSocket o l) _ requeued
  rw [returnForRetry_eq]
  exact ((back.setTimer (.order h) .clear).recompute h).view (lawView_opportunity h _)

theorem Queues.finalMiss (l : Queues k c none s) {o : Order} (mem : o ∈ (s.head h).queue) :
    Queues k c none (finalMiss h o s) := by
  have left : Queues k c none (Machine.leaveQueue h o.tag s) := (l.leaveQueue mem).settled
  have mates : Queues k c none (failPlanMates h o (Machine.leaveQueue h o.tag s)) :=
    Queues.failAll _ left (.of_filter (fun q fails => (Bool.and_eq_true_iff.1 fails).2) (left.queue h).tags)
  exact ((queues_sheds k c).lostFrom o mates).view ((lawView_opportunity h _).trans ((lawView_raiseEvent _ _ _).trans
    (lawView_endPlan h o.plan _)))

theorem queue_finalMiss_sublist (h : Head) (o : Order) (s : State) :
    ((finalMiss h o s).head h).queue.Sublist (s.head h).queue := by
  have mates : ((failPlanMates h o (leaveQueue h o.tag s)).head h).queue.Sublist ((leaveQueue h o.tag s).head h).queue :=
    (foldl_removes (fun v q => (notDone_resolveNotDone h q v).queue) _ _).1
  refine (((drops_finalMiss h o s).head h).queue.trans mates).trans ?_
  rw [head_leaveQueue]
  exact List.filter_sublist

theorem Queues.finalStuck (l : Queues k c none s) {o : Order} (mem : o ∈ (s.head h).queue) :
    Queues k c none (finalStuck h o s) := by
  have stuck := (l.leaveQueue mem).stuckAt.view (lawView_endPlan h o.plan _)
  exact ((queues_sheds k c).raiseStuck (stuckTag h o s) stuck).view (lawView_opportunity h _)

/-! ## Stops (R125) -/

theorem Queues.stopQueue (l : Queues k c none s) (h : Head) : Queues k c none (stopQueue h s) := by
  have stopped : Queues k c none (s.modHead h fun x => { x with state := .stopped, base := none }) :=
    l.modHead_same rfl rfl fun _ => nofun
  have checked : Queues k c none (yieldCheck h.other (s.modHead h fun x => { x with state := .stopped, base := none })) :=
    stopped.view rfl
  exact (queues_sheds k c).cancelWhere h _ (checked.setTimer (.order h) .clear)

theorem late_kept (o : Order) : o.late.tag = o.tag ∧ o.late.action = o.action ∧ o.late.location = o.location ∧
    o.late.isGranted = o.isGranted := by
  unfold Order.late
  split
  · next out => exact ⟨rfl, rfl, rfl, by simp [Order.isGranted, out]⟩
  · exact ⟨rfl, rfl, rfl, rfl⟩

/-- R125, R133: OUTSTANDING orders become UNKNOWN. -/
theorem Queues.makeUnknown (l : Queues k c none s) (rests : j h → (s.head h).state ≠ .ready) (others : j h.other → k h.other) :
    Queues j c none (makeUnknown h s) := by
  refine l.modHead (j := j) ((l.queue h).map Order.late rfl rfl (fun o => ⟨(late_kept o).1, (late_kept o).2.1⟩)
    (fun o _ _ granted => (late_kept o).2.2.2.trans granted)
    ((l.queue h).granted_map_le fun o _ granted => (late_kept o).2.2.2.symm.trans granted)
    fun hj ready => absurd ready (rests hj)) others fun b y => ?_
  rw [pocketsHeld_map (x := s.head h) rfl fun o => (late_kept o).2.2.1]

theorem Queues.stops (l : Queues k c none s) (h : Head) : Queues k c none (Machine.makeUnknown h (Machine.stopQueue h s)) :=
  (l.stopQueue h).makeUnknown (fun _ => by rw [state_stopQueue]; nofun) id

theorem Queues.stopTimeout (l : Queues k c none s) (h : Head) : Queues k c none (stopTimeout h s) :=
  (l.stops h).view ((lawView_raiseEvent _ _ _).trans (lawView_raiseEvent _ _ _))

theorem Queues.stopJam (l : Queues k c none s) (h : Head) (p : Pos) : Queues k c none (stopJam h p s) :=
  (l.stops h).view ((lawView_raiseEvent _ _ _).trans (lawView_setKnown h p _))

theorem Queues.stopStuck (l : Queues k c none s) (h : Head) : Queues k c none (stopStuck h s) :=
  ((l.stopQueue h).failGranted h).view (lawView_raiseEvent _ _ _)

/-! ## Taking a status (R123) -/

/-- R123, R143: behind an order that a plan made and that is OUTSTANDING first, there is no PARK. -/
theorem noPark_of_oldest {o : Order} (l : (s.head h).QueueBut True) (ready : (s.head h).state = .ready)
    (oldest : oldestIn .outstanding (s.head h) = some o) (planned : o.action ≠ .park) :
    ∀ q ∈ (s.head h).queue, q.action ≠ .park := by
  intro q mem parks
  obtain ⟨i, at_i⟩ := List.mem_iff_getElem?.1 mem
  obtain ⟨first, granted⟩ := l.park i q at_i parks
  have out : q.state = .outstanding := ((isGranted_iff q).1 granted).resolve_right (l.known trivial ready q mem)
  obtain ⟨queue, cons⟩ : ∃ queue, (s.head h).queue = q :: queue := by
    cases whole : (s.head h).queue with
    | nil => rw [whole] at mem; cases mem
    | cons p queue =>
      rw [whole, first] at at_i
      exact ⟨queue, by rw [Option.some.inj at_i]⟩
  have found : oldestIn .outstanding (s.head h) = some q := by
    unfold oldestIn
    rw [cons, List.find?_cons, out]
    rfl
  exact planned (by rw [← Option.some.inj (found.symm.trans oldest)]; exact parks)

theorem Queues.takeOutcome (l : Queues (fun _ => True) c none s) {o : Order} {outcome : HeadOutcome}
    (oldest : oldestIn .outstanding (s.head h) = some o) (ready : (s.head h).state = .ready)
    (fits : outcomeFits outcome o.action = true) : Queues (fun _ => True) c none (takeOutcome h outcome o s) := by
  have mem := (mem_of_oldestIn oldest).1
  have noPark (planned : o.action ≠ .park) := noPark_of_oldest (l.queue h) ready oldest planned
  unfold Machine.takeOutcome
  split
  · exact l.resolveDone mem
  · have pick : o.action ≠ .park := fun parks => by rw [parks] at fits; cases fits
    split
    · exact l.returnForRetry _ (noPark pick)
    · exact (l.finalMiss mem).returnForRetry _ fun q left =>
        noPark pick q ((queue_finalMiss_sublist h o s).subset left)
  · have place : o.action ≠ .park := fun parks => by rw [parks] at fits; cases fits
    split
    · exact l.returnForRetry _ (noPark place)
    · exact (l.finalStuck mem).stopStuck h
  · exact l

/-- R129: a late status. -/
theorem Queues.takeLate (l : Queues k c none s) (outcome : HeadOutcome) {o : Order} (mem : o ∈ (s.head h).queue) :
    Queues k c none (takeLate h outcome o s) := by
  unfold Machine.takeLate
  split
  · exact l.resolveDone mem
  · split
    · exact (l.resolveNotDone mem).failGranted h
    · exact (l.finalMiss mem).failGranted h
  · split
    · exact (l.resolveNotDone mem).failGranted h
    · exact (l.finalStuck mem).failGranted h
  · exact l

theorem Queues.orderStatus (l : Queues (fun _ => True) c none s) (h : Head) (outcome : HeadOutcome) (tag : Nat) :
    Queues (fun _ => True) c none (orderStatus h outcome tag s) := by
  unfold Machine.orderStatus
  split
  · next o matched =>
    split
    · next fits =>
      split
      · next ready =>
        unfold matchOrder at matched
        rw [if_pos ready] at matched
        exact l.takeOutcome matched ready fits.2
      · exact l.takeLate outcome (mem_of_oldestIn matched).1
    · exact l.view (lawView_raiseEvent _ _ _)
  · exact l.view (lawView_raiseEvent _ _ _)

/-! ## READY (R131, R133) -/

theorem Queues.resolveByPresence (presence : Byte) : ∀ (os : List Order) (failed : Bool) {s : State}, Queues k c none s →
    Awaiting h os s → Queues k c none (resolveByPresence h presence os failed s)
  | [], _, _, l, _ => l
  | o :: os, failed, s, l, a => by
    obtain ⟨failed', v, resolved, next⟩ := resolveByPresence_cons h presence o os failed s
    have distinct := (l.queue h).tags
    have mem := (a.members o List.mem_cons_self).1
    rw [next]
    obtain rfl | rfl := resolved
    · exact Queues.resolveByPresence presence os failed' (l.resolveDone mem)
        (a.next fun q mem granted apart => mem_resolveDone distinct mem granted apart)
    · exact Queues.resolveByPresence presence os failed' (l.resolveNotDone mem)
        (a.next fun q mem granted apart => mem_resolveNotDone distinct mem granted apart)

theorem Queues.reconcile (l : Queues k c none s) (h : Head) (presence : Byte) : Queues k c none (reconcile h presence s) :=
  (queues_sheds k c).compareNozzles h presence (Queues.resolveByPresence presence _ false l
    (.of_filter (fun o unknown => (isGranted_iff o).2 (.inr (beq_iff_eq.1 unknown))) (l.queue h).tags))

theorem Queues.standAt (l : Queues k c none s) (h : Head) (p : Pos) : Queues k c none (standAt h p s) := by
  have stood : Queues k c none (s.modHead h fun x => { x with
      base := some (clippedZone h (zoneOf p.x) s)
      holdings := ⟨clippedZone h (zoneOf p.x) s, clippedZone h (zoneOf p.x) s⟩ }) :=
    l.modHead_same rfl rfl fun _ ready => ready
  have told := stood.tellOther h (s.head h).holdings
  unfold Machine.standAt
  dsimp only
  split
  · exact told
  · exact told.view (lawView_raiseEvent _ _ _)

theorem Queues.recoverReady (l : Queues (fun _ => True) c none s) (h : Head) (presence : Byte) (p : Pos) :
    Queues (fun _ => True) c none (recoverReady h presence p s) := by
  obtain ⟨-, -, -, -, gone⟩ := reconcile_spec h presence (cancelTimer (.recover h) s)
  have reconciled : Queues (fun _ => True) c none (Machine.reconcile h presence (cancelTimer (.recover h) s)) :=
    Queues.reconcile (l.setTimer _ _) h presence
  generalize v : Machine.reconcile h presence (cancelTimer (.recover h) s) = u at gone reconciled
  have known := reconciled.view (lawView_setKnown h p u)
  have own : (setKnown h p u).head h = { u.head h with known := some p } := State.head_modHead_self u h _
  have readied : Queues (fun _ => True) c none ((setKnown h p u).modHead h fun x => { x with state := .ready }) := by
    refine known.modHead ((known.queue h).sublist (.refl _) rfl fun _ _ o mem => ?_) id fun _ _ => Nat.le_refl _
    rw [own] at mem
    exact gone o mem
  have stood := readied.standAt h p
  unfold Machine.recoverReady
  dsimp only
  rw [v]
  refine Queues.view ?_ (lawView_opportunity h _)
  split
  · exact (stood.modHead_same (f := fun x => { x with ticket := none }) rfl rfl fun _ ready => ready).view
      (lawView_complete _ _ _ _)
  · exact stood

/-- A head whose UNKNOWN orders have been resolved. -/
theorem Queues.resolved (l : Queues (allBut h) c none s) (gone : ∀ o ∈ (s.head h).queue, o.state ≠ .unknown) :
    Queues (fun _ => True) c none s := by
  refine { l with queue := fun g => (l.queue g).sublist (.refl _) rfl fun _ ready o mem => ?_ }
  by_cases own : g = h
  · rw [own] at mem
    exact gone o mem
  · exact (l.queue g).known own ready o mem

theorem Queues.restartReady (l : Queues (fun _ => True) c none s) (h : Head) (presence : Byte) (p : Pos) :
    Queues (fun _ => True) c none (restartReady h presence p s) := by
  obtain ⟨-, -, -, -, gone⟩ := reconcile_spec h presence (restarting h s)
  have raised : Queues (fun _ => True) c none (raiseEvent .headProtocol h.num s) := l.view (lawView_raiseEvent _ _ s)
  have prepared : Queues (allBut h) c none (restarting h s) :=
    (raised.setTimer (.order h) .clear).makeUnknown (fun apart => absurd rfl apart) fun _ => trivial
  have reconciled := (prepared.reconcile h presence).resolved gone
  exact ((reconciled.view (lawView_setKnown h p _)).standAt h p).view (lawView_opportunity h _)

theorem Queues.takeHeadStatus (l : Queues (fun _ => True) c none s) (h : Head) (payload : List Byte) :
    Queues (fun _ => True) c none (takeHeadStatus h payload s) := by
  unfold Machine.takeHeadStatus
  dsimp only
  split
  · split
    · exact l.view (lawView_raiseEvent _ _ _)
    · split
      · exact l.restartReady h _ _
      · exact l.recoverReady h _ _
    · split
      · exact l.stopJam h _
      · exact l.view (lawView_setKnown h _ s)
    · exact l.orderStatus h _ _
  · exact l.view (lawView_raiseEvent _ _ _)

end Sys2Proof.Machine
end

section
/-! PROOFS. Every command keeps the laws of the order queues and of the trays; O39. -/

namespace Sys2Proof.Machine

variable {s t u : State} {h : Head} {k j : Head → Prop} {c : Prop} {loc : Option Location}

/-! ## New orders and their pockets (R87, R94, R114) -/

theorem Queues.enqueue {o : Order} (l : Queues k c o.location s) (planned : o.Planned)
    (room : pendingCount (s.head h) ≤ 2) : Queues k c none (enqueue h o s) := by
  refine l.modHead ((l.queue h).append planned room) id fun b y => ?_
  rw [pocketsHeld_eq, pocketsHeld_eq, List.filter_append, List.length_append, owed_location, List.filter_singleton]
  have same : Order.atPocket b y { o with tag := nextTag (s.head h) } = o.atPocket b y := rfl
  rw [same]
  cases o.atPocket b y <;> exact Nat.le_refl _

/-- R87, R88: the pocket a stow is answered with is owed to it. -/
theorem Queues.askPocket (l : Queues k c none s) {b d : Fin 16} {y : TrayId} (found : stowTray s b = some (d, y)) :
    Queues k c (some (.pocket d y (s.bins[d].tray y).allocated)) (askPocket b s).1 := by
  have drops := drops_askPocket found
  have current : s.bins[d].active = some y := by
    rcases (stowTray_iff s b d y).1 found with ⟨active, rfl⟩ | ⟨-, -, active⟩
    · exact active
    · exact active
  obtain ⟨blocked, bin, -⟩ := bin_askPocket_tray found
  have due (b' : Fin 16) (z : TrayId) : (Machine.askPocket b s).1.due (some (.pocket d y (s.bins[d].tray y).allocated)) b' z ≤
      s.due none b' z + owed (some (.pocket d y (s.bins[d].tray y).allocated)) b' z := by
    have west := pocketsHeld_sublist (drops.head .west).queue b' z
    have east := pocketsHeld_sublist (drops.head .east).queue b' z
    have rest : s.due none b' z = pocketsHeld b' z (s.head .west) + pocketsHeld b' z (s.head .east) := rfl
    unfold State.due
    omega
  refine ⟨fun h => (l.queue h).fewer (drops.head h).queue ?_ ?_, fun hc b' z => ?_⟩
  · rw [(drops.head h).rest]
  · rw [(drops.head h).rest]
  · have fits := l.trays hc b' z
    refine Bin.TrayFits.mono ?_ (due b' z)
    by_cases own : d = b'
    · subst own
      rw [bin]
      rcases y.eq_or_other z with rfl | rfl
      · rw [owed_self]
        exact (fits.taken current).blocked rfl
      · rw [owed_apart fun same => TrayId.other_ne y same.2.symm]
        exact (fits.taken_other current).blocked rfl
    · rw [owed_apart fun same => own same.1, bin_askPocket_other found own]
      split
      · exact fits.blocked rfl
      · exact fits

/-! ## Grants (R119 to R121, R143) -/

theorem demoted_kept (front : Option Nat) (o : Order) : (o.demoted front).tag = o.tag ∧ (o.demoted front).action = o.action ∧
    (o.demoted front).location = o.location := by
  unfold Order.demoted
  split <;> exact ⟨rfl, rfl, rfl⟩

/-- An order that is neither newly granted nor no longer granted, nor newly UNKNOWN. -/
def Order.StaysAs (q o : Order) : Prop := q.isGranted = o.isGranted ∧ (q.state = .unknown → o.state = .unknown)

theorem demoted_staysAs (front : Option Nat) (o : Order) : (o.demoted front).StaysAs o := by
  unfold Order.demoted
  split
  · next both => exact ⟨by rw [Order.isGranted, Order.isGranted, both.1]; rfl, nofun⟩
  · exact ⟨rfl, id⟩

/-- A queue whose orders stay granted or not. -/
theorem HeadRecord.QueueBut.staysAs {x z : HeadRecord} {c : Prop} (l : x.QueueBut c) (f : Order → Order)
    (queue : z.queue = x.queue.map f) (counter : z.tagCounter = x.tagCounter) (state : z.state = x.state)
    (same : ∀ o, (f o).tag = o.tag ∧ (f o).action = o.action) (stays : ∀ o ∈ x.queue, (f o).StaysAs o) : z.QueueBut c := by
  refine l.map f queue counter same (fun o mem _ granted => (stays o mem).1.trans granted) ?_
    fun hc ready o mem unknown => ?_
  · rw [queue]
    exact l.granted_map_le fun o mem granted => (stays o mem).1.symm.trans granted
  · rw [queue] at mem
    obtain ⟨q, inside, rfl⟩ := List.mem_map.1 mem
    exact l.known hc (state ▸ ready) q inside ((stays q inside).2 unknown)

theorem Queues.mapQueue (l : Queues k c none s) (f : HeadRecord → Order → Order)
    (same : ∀ x o, (f x o).tag = o.tag ∧ (f x o).action = o.action ∧ (f x o).location = o.location)
    (stays : ∀ o ∈ (s.head h).queue, (f (s.head h) o).StaysAs o) :
    Queues k c none (s.modHead h fun x => { x with queue := x.queue.map (f x) }) := by
  refine l.modHead ((l.queue h).staysAs (f (s.head h)) rfl rfl rfl (fun o => ⟨(same _ o).1, (same _ o).2.1⟩) stays) id
    fun b y => ?_
  rw [pocketsHeld_map (x := s.head h) rfl fun o => (same _ o).2.2]

theorem Queues.demote (l : Queues k c none s) (h : Head) : Queues k c none (s.modHead h demote) :=
  l.mapQueue (fun x o => o.demoted ((frontPending x).map Order.tag)) (fun _ => demoted_kept _) fun o _ => demoted_staysAs _ o

/-- R113, R119: the front pending order waits. -/
theorem Queues.wait (l : Queues k c none s) {o : Order} (front : frontPending (s.head h) = some o) :
    Queues k c none (modOrder h o.tag (fun o => { o with state := .waitingZone }) s) := by
  obtain ⟨pre, post, queue, -, waits⟩ := (frontPending_some _ _).1 front
  have mem : o ∈ (s.head h).queue := by rw [queue]; simp
  refine l.mapQueue (fun _ q => if q.tag = o.tag then { q with state := .waitingZone } else q) (fun _ q => ?_) fun q inside => ?_
  · split <;> exact ⟨rfl, rfl, rfl⟩
  · split
    · next own =>
      obtain rfl := List.inj_on_of_nodup_map (l.queue h).tags inside mem own
      have free : q.isGranted = false := by
        rw [← Bool.not_eq_true, isGranted_iff]
        exact waits
      exact ⟨free.symm, nofun⟩
    · exact ⟨rfl, id⟩

theorem outstanding_room {o : Order} (may : mayAsk h o s = true) :
    outstandingCount (s.head h) + (claimOf h o s).length ≤ 2 := by
  cases pair : pairPlace (s.head h) o with
  | none =>
    obtain ⟨-, -, few, -⟩ := (mayAsk_single pair).1 may
    rw [claimOf_single pair]
    exact few
  | some q =>
    obtain ⟨-, -, none'⟩ := (mayAsk_pair pair).1 may
    rw [claimOf_pair pair, beq_iff_eq.1 ((outstandingCount_eq_zero _).2 none')]
    exact Nat.le_refl 2

theorem Queues.grantClaim (l : Queues (fun _ => True) c none s) {claim : List (Order × Resolved)}
    (granted : grantable h s = some claim) : Queues (fun _ => True) c none (grantClaim h claim s) := by
  obtain ⟨o, -, claims, may, -⟩ := grantable_spec granted
  obtain ⟨a, rest, cons⟩ := claimOf_ne_nil h o s
  have room := outstanding_room may
  rw [claims, cons]
  rw [cons] at room
  have own := head_grantClaim h a rest s
  have other := head_grantClaim_other h a rest s
  have queue : ((Machine.grantClaim h (a :: rest) s).head h).queue =
      (s.head h).queue.map (markAll (a :: rest)) := by
    rw [own]
    exact foldl_markGranted (a :: rest) _
  have counter : ((Machine.grantClaim h (a :: rest) s).head h).tagCounter = (s.head h).tagCounter := by rw [own]
  have held (b : Fin 16) (y : TrayId) (g : Head) :
      pocketsHeld b y ((Machine.grantClaim h (a :: rest) s).head g) = pocketsHeld b y (s.head g) := by
    have self := pocketsHeld_map queue (fun o => (markAll_kept _ o).2.2) b y
    have rest := congrArg (pocketsHeld b y) other
    cases h <;> cases g <;> assumption
  refine l.change (fun g => ?_) (aside_grantClaim h a rest s).2.2 fun b y => ?_
  · have self := (l.queue h).grant (state_of_mayAsk may) room queue counter
    have rest := l.queue h.other
    rw [← other] at rest
    cases h <;> cases g <;> assumption
  · unfold State.due
    rw [held, held]

/-- R143: the PARK, granted. -/
def parkGranted (x : HeadRecord) (r : Resolved) : Order := { yieldOrder x with resolved := some r, state := .outstanding }

/-- R143: after the grant of a PARK the queue is the PARK and what waits behind it. -/
theorem queue_grantPark {r : Resolved} (idle : ∀ q ∈ (s.head h).queue, q.isGranted = false)
    (fresh : nextTag (s.head h) ∉ (s.head h).queue.map Order.tag) :
    ∃ front, ((grantClaim h [(yieldOrder (s.head h), r)] (parked h s)).head h).queue =
      parkGranted (s.head h) r :: (s.head h).queue.map (Order.demoted front) := by
  have joined : ((insertPark h s).head h).queue = yieldOrder (s.head h) :: (s.head h).queue := by
    rw [head_insertPark]
    show insertFront _ _ = _
    rw [insertFront, List.filter_eq_nil_iff.2 fun q mem => by rw [idle q mem]; nofun,
      List.filter_eq_self.2 fun q mem => by rw [idle q mem]; rfl]
    rfl
  let front := (frontPending ((insertPark h s).head h)).map Order.tag
  have waits : ((parked h s).head h).queue = (yieldOrder (s.head h) :: (s.head h).queue).map (Order.demoted front) := by
    rw [head_parked, ← joined]
    rfl
  refine ⟨front, ?_⟩
  rw [head_grantClaim]
  show (((parked h s).head h).queue).map (markGranted (yieldOrder (s.head h), r)) = _
  rw [waits, List.map_cons, List.map_cons, List.map_map]
  refine congrArg₂ List.cons ?_ (List.map_congr_left fun q mem => ?_)
  · rw [demoted_of_not_waiting (o := yieldOrder (s.head h)) OrderState.noConfusion]
    exact if_pos rfl
  · refine if_neg fun same => fresh ?_
    rw [← show q.tag = nextTag (s.head h) from (demoted_kept front q).1.symm.trans same]
    exact List.mem_map_of_mem mem

/-- R143: a yield PARK made and granted keeps the laws. -/
theorem Queues.grantPark (l : Queues (fun _ => True) c none s) (r : Resolved) (possible : parkPossible h s = true) :
    Queues (fun _ => True) c none (Machine.grantClaim h [(yieldOrder (s.head h), r)] (parked h s)) := by
  obtain ⟨-, ready, none', -⟩ := (parkPossible_iff h s).1 possible
  have idle : ∀ q ∈ (s.head h).queue, q.isGranted = false := fun q mem => by
    rw [Order.isGranted, beq_eq_false_iff_ne.2 (none' q mem), beq_eq_false_iff_ne.2 ((l.queue h).known trivial ready q mem)]
    rfl
  have own := head_grantClaim h (yieldOrder (s.head h), r) [] (parked h s)
  have other := (head_grantClaim_other h (yieldOrder (s.head h), r) [] (parked h s)).trans (head_parked_other h s)
  have bins := (aside_grantClaim h (yieldOrder (s.head h), r) [] (parked h s)).2.2
  have counter : ((Machine.grantClaim h [(yieldOrder (s.head h), r)] (parked h s)).head h).tagCounter = nextTag (s.head h) := by
    rw [own, head_parked, head_insertPark]
    rfl
  have state : ((Machine.grantClaim h [(yieldOrder (s.head h), r)] (parked h s)).head h).state = (s.head h).state := by
    rw [own, head_parked, head_insertPark]
    rfl
  have fresh : nextTag (s.head h) ∉ (s.head h).queue.map Order.tag := by
    have short := (l.queue h).length
    have unused := nextNumber_fresh (used := (s.head h).queue.map Order.tag) (s.head h).tagCounter
      (by rw [List.length_map]; omega)
    rwa [List.length_map] at unused
  obtain ⟨front, queue⟩ := queue_grantPark (r := r) idle fresh
  generalize v : Machine.grantClaim h [(yieldOrder (s.head h), r)] (parked h s) = t at own other bins counter state queue
  let x : HeadRecord :=
    { s.head h with queue := parkGranted (s.head h) r :: (s.head h).queue, tagCounter := nextTag (s.head h) }
  have first : x.QueueBut True := (l.queue h).parkFirst ready idle (o := parkGranted (s.head h) r) rfl rfl rfl rfl rfl
  have mapped : (t.head h).queue = x.queue.map (Order.demoted front) := by
    rw [queue]
    exact congrArg (· :: _) (demoted_of_not_waiting (o := parkGranted (s.head h) r) OrderState.noConfusion).symm
  have self : (t.head h).QueueBut True := first.staysAs _ mapped counter state
    (fun o => ⟨(demoted_kept front o).1, (demoted_kept front o).2.1⟩) fun o _ => demoted_staysAs front o
  have rest : (t.head h.other).QueueBut True := by
    rw [other]
    exact l.queue h.other
  have held (b : Fin 16) (y : TrayId) : pocketsHeld b y (t.head h) = pocketsHeld b y (s.head h) :=
    pocketsHeld_map mapped (fun o => (demoted_kept front o).2.2) b y
  have heldOther (b : Fin 16) (y : TrayId) : pocketsHeld b y (t.head h.other) = pocketsHeld b y (s.head h.other) := by
    rw [other]
  have due (b : Fin 16) (y : TrayId) : t.due none b y = s.due none b y := by
    unfold State.due
    cases h
    · exact congrArg₂ (fun w e => w + e + owed none b y) (held b y) (heldOther b y)
    · exact congrArg₂ (fun e w => w + e + owed none b y) (held b y) (heldOther b y)
  refine ⟨fun g => ?_, fun hc b y => ?_⟩
  · cases h <;> cases g <;> assumption
  · rw [due, bins]
    exact (l.trays hc b y).blocked (bin_of_lawView (s := (insertPark h s).modHead h Machine.demote) (lawView_parked h s) b)

/-! ## Trays declared and withdrawn (R88, R90, R91) -/

/-- A change of one bin that both its trays' laws keep. -/
theorem Queues.modBin (l : Queues k c none s) (b : Fin 16) (f : Bin → Bin)
    (fits : ∀ y n, s.bins[b].TrayFits y n → (f s.bins[b]).TrayFits y n) : Queues k c none (s.modBin b f) := by
  refine ⟨l.queue, fun hc d y => ?_⟩
  have before := l.trays hc d y
  rw [State.bin_modBin]
  split
  · next own =>
    subst own
    exact fits y _ before
  · exact before

end Sys2Proof.Machine
end

section
/-! PROOFS. Every command and every step keeps the laws of the order queues and of the trays, and the laws of the rail: O39. -/

namespace Sys2Proof.Machine

variable {s t u : State} {h : Head} {c : Prop}

/-! ## Trays declared and withdrawn (R88, R90, R91) -/

section

variable {x : Bin} {y : TrayId} {n : Nat} {g : TrayGeometry}

theorem TrayId.other_other (y : TrayId) : y.other.other = y := by cases y <;> rfl

theorem Bin.TrayFits.declare (l : x.TrayFits y n) (free : (x.tray y).free) (range : g.inRange = true) :
    (x.setTray y (.declared g)).TrayFits y n := by
  have idle : x.active ≠ some y := fun active => by
    have state := l.current.2 active
    rcases free with e | e <;> rw [e] at state <;> cases state
  obtain rfl := l.settled (free.elim .inl fun full => .inr (.inr full))
  exact .declared range (Bin.tray_setTray_self x y _) (by rwa [Bin.active_setTray])

/-- R90: a tray just declared becomes the active tray of a bin that has none. -/
theorem Bin.TrayFits.declareActive {z : TrayId} (l : x.TrayFits z n) (free : (x.tray y).free) (range : g.inRange = true)
    (vacant : x.active = none) : ({ x.setTray y { TrayRecord.declared g with state := .active } with
      active := some y, blocked := false } : Bin).TrayFits z n := by
  rcases y.eq_or_other z with rfl | rfl
  · refine (l.declare free range).takesOver ?_ ?_ rfl
    · rw [Bin.tray_setTray_self]
      rfl
    · rw [Bin.tray_setTray_self]
      exact Bin.tray_setTray_self x z _
  · refine l.congr (Bin.tray_setTray_other x y _) ⟨fun active => ?_, fun active => ?_⟩
    · exact absurd (Option.some.inj active).symm (TrayId.other_ne y)
    · rw [vacant] at active
      cases active

theorem Bin.TrayFits.withdraw (l : x.TrayFits y n) (rests : (x.tray y).state = .ready ∨ (x.tray y).state = .full) :
    (x.setTray y .initial).TrayFits y n := by
  have idle : x.active ≠ some y := fun active => by
    have state := l.current.2 active
    rcases rests with e | e <;> rw [e] at state <;> cases state
  obtain rfl := l.settled (.inr rests)
  exact .withdrawn (Bin.tray_setTray_self x y _) (by rwa [Bin.active_setTray])

/-- R91: no pocket is due to an ACTIVE tray without an outstanding pocket. -/
theorem Bin.TrayFits.none_due (l : x.TrayFits y n) (settled : (x.tray y).outstanding = 0) : n = 0 := by
  have count := l.count
  unfold TrayRecord.outstanding at settled
  omega

/-- R91: an active tray withdrawn from a bin with no tray to take over. -/
theorem Bin.TrayFits.withdrawLast {z : TrayId} (l : x.TrayFits z n) (active : x.active = some y)
    (settled : (x.tray y).outstanding = 0) : ({ x.setTray y .initial with active := none } : Bin).TrayFits z n := by
  rcases y.eq_or_other z with rfl | rfl
  · obtain rfl := l.none_due settled
    exact .withdrawn (Bin.tray_setTray_self x z _) nofun
  · refine l.congr (Bin.tray_setTray_other x y _) ⟨nofun, fun other => ?_⟩
    exact absurd (Option.some.inj (other.symm.trans active)) (TrayId.other_ne y)

/-- R88, R91: an active tray withdrawn from a bin whose other tray takes over. -/
theorem Bin.TrayFits.withdrawFirst {z : TrayId} (l : x.TrayFits z n) (settled : (x.tray y).outstanding = 0)
    (ready : (x.tray y.other).state = .ready) :
    ({ (x.setTray y .initial).setTray y.other { x.tray y.other with state := .active } with
      active := some y.other, blocked := false } : Bin).TrayFits z n := by
  rcases y.eq_or_other z with rfl | rfl
  · obtain rfl := l.none_due settled
    refine .withdrawn ?_ fun active => TrayId.other_ne z (Option.some.inj active)
    have other := Bin.tray_setTray_other (x.setTray z .initial) z.other { x.tray z.other with state := .active }
    rw [TrayId.other_other, Bin.tray_setTray_self] at other
    exact other
  · exact l.takesOver ready (Bin.tray_setTray_self _ _ _) rfl

end

theorem Queues.declare {b : Fin 16} {y : TrayId} {g : TrayGeometry} (l : Queues (fun _ => True) c none s)
    (free : (s.bins[b].tray y).free) (range : g.inRange = true) :
    Queues (fun _ => True) c none (activateTray b y (s.modTray b y fun _ => .declared g)) := by
  by_cases active : s.bins[b].active = none
  · rw [activateTray_takes _ active]
    exact (l.modBin b _ fun z n fits => fits.declareActive free range active).view (lawView_opportunityBoth _)
  · rw [activateTray_waits _ active]
    refine l.modBin b _ fun z n fits => ?_
    rcases y.eq_or_other z with rfl | rfl
    · exact fits.declare free range
    · exact fits.setTray_other _

theorem Queues.withdraw {b : Fin 16} {y : TrayId} (l : Queues (fun _ => True) c none s)
    (rests : (s.bins[b].tray y).state = .ready ∨ (s.bins[b].tray y).state = .full) :
    Queues (fun _ => True) c none (removeTray b y s) := by
  refine l.modBin b (fun x => x.setTray y .initial) fun z n fits => ?_
  rcases y.eq_or_other z with rfl | rfl
  · exact fits.withdraw rests
  · exact fits.setTray_other _

theorem Queues.withdrawActive {b : Fin 16} {y : TrayId} (l : Queues (fun _ => True) c none s)
    (active : (s.bins[b].tray y).state = .active) (settled : (s.bins[b].tray y).outstanding = 0) :
    Queues (fun _ => True) c none (moveActive b y (removeTray b y s)) := by
  by_cases ready : (s.bins[b].tray y.other).state = .ready
  · rw [moveActive_other ready]
    exact (l.modBin b _ fun z n fits => fits.withdrawFirst settled ready).view (lawView_opportunityBoth _)
  · rw [moveActive_none ready]
    by_cases trays : c
    · exact l.modBin b _ fun z n fits => fits.withdrawLast ((l.trays trays b y).current.1 active) settled
    · exact ⟨l.queue, fun hc => absurd hc trays⟩

/-! ## Heads that recover, give up or are parked (R130, R132, R134) -/

theorem Queues.widen (l : Queues (fun _ => True) c none s) (h : Head) : Queues (fun _ => True) c none (widenHoldings h s) :=
  (l.modHead_same (f := fun x => { x with holdings := widened h s, base := none }) rfl rfl fun _ ready => ready).tellOther h _

theorem Queues.recoverTimeout (l : Queues (fun _ => True) c none s) (h : Head) :
    Queues (fun _ => True) c none (recoverTimeout h s) := by
  have offline : Queues (fun _ => True) c none (s.modHead h fun x => { x with state := .offline, ticket := none }) :=
    l.modHead_same rfl rfl fun _ => nofun
  exact (offline.widen h).view (lawView_complete _ _ _ _)

theorem Queues.beginRecovery (l : Queues (fun _ => True) c none s) (h : Head) (mode : Nat) :
    Queues (fun _ => True) c none (beginRecovery h mode s) := by
  let sent := produce .downstream (s.nodeAddress (controllerNode h)) kindHeadControl [byte mode] s
  have told : Queues (fun _ => True) c none sent := l.view (lawView_produce _ _ _ _ s)
  have recovering : Queues (fun _ => True) c none
      (sent.modHead h fun x => { x with state := .recovering, ticket := some (newTicket sent) }) :=
    told.modHead_same rfl rfl fun _ => nofun
  have started : Queues (fun _ => True) c none (startTimer (.recover h) Config.recoverTicks (widenHoldings h
      (sent.modHead h fun x => { x with state := .recovering, ticket := some (newTicket sent) }))) :=
    (recovering.widen h).setTimer _ _
  exact started.same_heads rfl rfl

theorem HeadRecord.QueueBut.parked {x : HeadRecord} (l : x.QueueBut c) (p : Pos) (zone : Nat) :
    ((x.sent p).homed zone).QueueBut c := by
  have sent : (x.sent p).QueueBut c := by
    unfold HeadRecord.sent
    split
    · obtain ⟨-, high⟩ := nextNumber_range (x.queue.map Order.tag) x.queue.length x.tagCounter
      exact { length := Nat.zero_le _, granted := Nat.zero_le _, planned := Nat.zero_le _, tags := List.nodup_nil,
              range := fun _ mem => absurd mem List.not_mem_nil, counter := high,
              park := fun _ _ at_i => absurd at_i nofun, known := fun _ _ _ mem => absurd mem List.not_mem_nil }
    · exact l
  unfold HeadRecord.homed
  split
  · exact sent.fewer (.refl _) rfl rfl
  · exact sent

theorem queue_parked {x : HeadRecord} (empty : x.queue = []) (p : Pos) (zone : Nat) :
    ((x.sent p).homed zone).queue = [] := by
  have sent : (x.sent p).queue = [] := by
    unfold HeadRecord.sent
    split
    · rfl
    · exact empty
  unfold HeadRecord.homed
  split <;> exact sent

theorem Queues.parkHeads (l : Queues (fun _ => True) c none s) (empty : ∀ h, (s.head h).queue = []) :
    Queues (fun _ => True) c none (parkHeads s) := by
  have heads := head_parkHeads empty
  refine l.change (fun h => ?_) (aside_parkHeads s).2.2.1 fun b y => ?_
  · rw [heads]
    exact (l.queue h).parked _ _
  · unfold State.due
    rw [pocketsHeld_eq, pocketsHeld_eq, heads, heads, queue_parked (empty _), queue_parked (empty _)]
    exact Nat.add_le_add_right (Nat.zero_le _) _

/-! ## Every command -/

theorem queues_reset (c : Prop) : Queues (fun _ => True) c none State.reset :=
  { laws_iff.1 ⟨queuesLawful_reset, traysLawful_reset⟩ with
    trays := fun _ => (laws_iff.1 ⟨queuesLawful_reset, traysLawful_reset⟩).trays trivial }

theorem queues_power (c : Prop) (a : Option Byte) (q : List Instr) (n : Nat) :
    Queues (fun _ => True) c none { State.reset with ownAddress := a, pending := q, draws := n } :=
  (queues_reset c).same_heads rfl rfl

theorem queues_softReset (c : Prop) (s : State) : Queues (fun _ => True) c none (softReset s) :=
  (queues_reset c).same_heads rfl rfl

theorem Queues.lot (l : Queues (fun _ => True) c none s) (new : LotState) : Queues (fun _ => True) c none (changeLot new s) :=
  l.same_heads rfl rfl

theorem Queues.ends (l : Queues (fun _ => True) c none s) (empty : ∀ h, (s.head h).queue = []) :
    Queues (fun _ => True) c none (changeLot .idle (Machine.parkHeads s)) :=
  (l.parkHeads empty).lot .idle

/-- R86 to R92, R113 to R115: every command keeps the laws of the queues and, from those, the laws of the trays. -/
theorem queues_orderLaw (c : Prop) : OrderLaw (Queues (fun _ => True) c none) where
  toSheds := queues_sheds _ c
  join h o _ l planned off room := (l.owe off).enqueue planned room
  stow h t o b y s l planned found location room := by
    have given := l.askPocket found
    rw [← location] at given
    exact given.enqueue planned ((pendingCount_le (drops_askPocket found)).trans (room.trans (Nat.le_succ 1)))
  demote h _ l := l.demote h
  wait h o _ l front _ := l.wait front
  grant h claim _ l granted := l.grantClaim granted
  park h _ r l possible _ := l.grantPark r possible
  power := queues_power c
  soft _ := queues_softReset c _
  lot new _ l _ := l.lot new
  ticked l := l.same_heads rfl rfl
  deck _ _ l _ _ _ := l.same_heads rfl rfl
  status h payload _ l := l.takeHeadStatus h payload
  stop h _ l _ := (l.setTimer (.order h) .clear).stopTimeout h
  offline h _ l _ := (l.setTimer (.recover h) .clear).recoverTimeout h
  recovering h mode _ l _ := l.beginRecovery h mode
  ends l _ empty := l.ends empty
  declare _ _ _ _ l free good := l.declare free ((trayFailure_none _ _).1 good).1
  withdraw _ _ _ l rests := l.withdraw rests
  withdrawActive _ _ _ l active settled := l.withdrawActive active settled

/-! ## The operations of the rail (R137 to R139) -/

theorem holdings_standAt (h : Head) (p : Pos) (s : State) :
    ((standAt h p s).head h).holdings = ⟨clippedZone h (zoneOf p.x) s, clippedZone h (zoneOf p.x) s⟩ := by
  let f (x : HeadRecord) : HeadRecord := { x with
    base := some (clippedZone h (zoneOf p.x) s)
    holdings := ⟨clippedZone h (zoneOf p.x) s, clippedZone h (zoneOf p.x) s⟩ }
  have told : (tellOther h (s.head h).holdings (s.modHead h f)).heads = (s.modHead h f).heads := tellOther_heads _ _ _
  have heads : (standAt h p s).heads = (s.modHead h f).heads := by
    unfold standAt
    dsimp only
    split
    · exact told
    · exact (offLink_heads (offLink_raiseEvent _ _ _)).trans told
  exact congrArg HeadRecord.holdings ((congrArg (PerHead.get · h) heads).trans (State.head_modHead_self s h f))

/-- R139: a READY at any reported position. -/
theorem railClear_standAt (clear : s.railClear) (h : Head) (p : Pos) : (standAt h p s).railClear := by
  have zone := clippedZone_apart (s := s) (h := h) (zoneOf p.x) fun _ => room_of_railClear clear
  have own := holdings_standAt h p s
  refine railClear_of_apart (beside_standAt h p s).holdings ?_
  cases h <;> (dsimp only; rw [own]; exact zone)

/-- R137: a recomputation from a base zone and spans that the head holds. -/
theorem railClear_recomputeHoldings (clear : s.railClear) {b : Nat} (base : (s.head h).base = some b)
    (lo : (s.head h).holdings.lo ≤ b) (hi : b ≤ (s.head h).holdings.hi)
    (spans : ∀ o ∈ (s.head h).queue, o.state = .outstanding → ∀ r, o.resolved = some r → r.span.Inside (s.head h).holdings) :
    (recomputeHoldings h s).railClear := by
  refine railClear_of_head clear ?_ (beside_recomputeHoldings h s).holdings
  rw [head_recomputeHoldings]
  dsimp only
  by_cases ready : (s.head h).state = .ready
  · rw [newHoldings, ready, base]
    exact holdings_inside ⟨lo, hi⟩ spans
  · rw [newHoldings_of_not_ready ready]
    exact .refl _

/-! ## The trays' bounds (R86) -/

/-- R44: a tray holds at most 1,024 parts. -/
theorem Bin.TrayFits.bounds {x : Bin} {y : TrayId} {n : Nat} (l : x.TrayFits y n) :
    (x.tray y).placed + (x.tray y).holes ≤ (x.tray y).allocated ∧ (x.tray y).allocated ≤ (x.tray y).capacity ∧
      (x.tray y).capacity ≤ 1024 := by
  refine ⟨(Nat.le_add_right _ _).trans l.count, l.room, ?_⟩
  unfold TrayRecord.capacity
  cases geometry : (x.tray y).geometry with
  | none => exact Nat.zero_le _
  | some g => exact (TrayGeometry.capacity_bounds (l.range g geometry)).2

/-- Settles O39: each law is one that the operations on orders, trays and heads keep (`OrderLaw`). -/
theorem clearanceKept : Obligations.ClearanceKept := by
  refine ⟨fun s t steps => ⟨fun l => ?rail, fun l => ?queues, fun queues trays => ?trays⟩,
    fun s clear => railClear_grants.finish clear, fun s h p clear => railClear_standAt clear h p,
    fun s h clear => railClear_widenHoldings clear h, fun s h b clear base lo hi spans => ?recompute,
    fun s b y l => ((trayLawful_iff b y).1 l).bounds⟩
  case rail => exact railLawful_iff.2 (rail_orderLaw.step (railLawful_iff.1 l) t steps)
  case queues => exact queuesLawful_iff.2 ((queues_orderLaw False).step (queuesLawful_iff.1 l) t steps)
  case trays => exact (laws_iff.2 ((queues_orderLaw True).step (laws_iff.1 ⟨queues, trays⟩) t steps)).2
  case recompute =>
    refine railClear_recomputeHoldings clear base lo hi fun o mem out r resolved => ?_
    obtain ⟨low, high⟩ := spans o mem out r resolved
    exact ⟨low, high⟩

end Sys2Proof.Machine
end

section
/-! PROOFS. Conversions of RETEST devices (R80 to R83): O29. -/

namespace Sys2Proof.Machine

variable {s t : State} {k i : Fin 96} {r y : PartRecord}

/-! ## One conversion (R80, R81, R97) -/

theorem finalDisposition_mapped {i : Fin 64} {code : Byte} {e : BinEntry} (last : r.attempts.getLast? = some (i, code))
    (entry : s.binMap[code.toFin] = some e) : finalDisposition s r = (.bin e.finalBin, none) := by
  unfold finalDisposition
  rw [last]
  dsimp only
  rw [entry]

theorem finalDisposition_unmapped {i : Fin 64} {code : Byte} (last : r.attempts.getLast? = some (i, code))
    (unwritten : s.binMap[code.toFin] = none) : finalDisposition s r = (.hold, some i.val) := by
  unfold finalDisposition
  rw [last]
  dsimp only
  rw [unwritten]

/-- R78, R80: a device has its final disposition, and an unwritten entry its event. -/
def finalized (k : Fin 96) (r : PartRecord) (s : State) : State :=
  match (finalDisposition s r).2 with
  | some socket => raiseEvent .unmappedResult socket
      (s.modPart k fun x => { x with disposition := (finalDisposition s r).1 })
  | none => s.modPart k fun x => { x with disposition := (finalDisposition s r).1 }

theorem convert_retest (device : s.parts[k] = some r) (retest : r.disposition = .retest) :
    convert k s = carriedOpportunity k (cancelCarrying k r.plan (finalized k r s)) := by
  unfold convert
  rw [device]
  exact if_pos retest

theorem convert_other (device : s.parts[k] = some r) (other : r.disposition ≠ .retest) : convert k s = s := by
  unfold convert
  rw [device]
  exact if_neg other

theorem offLink_finalized (k : Fin 96) (r : PartRecord) (s : State) : (finalized k r s).offLink =
    (s.modPart k fun x => { x with disposition := (finalDisposition s r).1 }).offLink := by
  unfold finalized
  split
  · exact offLink_raiseEvent _ _ _
  · rfl

theorem part_finalized (device : s.parts[k] = some r) :
    (finalized k r s).parts[k] = some { r with disposition := (finalDisposition s r).1 } := by
  rw [offLink_parts (offLink_finalized k r s), State.part_modPart, if_pos rfl, device]
  rfl

theorem heads_finalized (k : Fin 96) (r : PartRecord) (s : State) : (finalized k r s).heads = s.heads :=
  (offLink_heads (offLink_finalized k r s)).trans rfl

theorem passCondition_finalized (h : Head) (k : Fin 96) (r : PartRecord) (s : State) :
    passCondition h (finalized k r s) = passCondition h s := by
  have own : (finalized k r s).head h = s.head h := congrArg (PerHead.get · h) (heads_finalized k r s)
  have lotState : (finalized k r s).lotState = s.lotState :=
    (offLink_lotState (offLink_finalized k r s)).trans rfl
  unfold passCondition
  rw [own, lotState]

theorem pends_finalized (unmapped : (finalDisposition s r).2.isSome = true) : (finalized k r s).pends .unmappedResult := by
  unfold finalized
  split
  · exact raiseEvent_pends _ _ _
  · next mapped =>
    rw [mapped] at unmapped
    cases unmapped

/-- R80: a conversion gives the device its final disposition and keeps its tag, place and attempts. -/
theorem part_convert (device : s.parts[k] = some r) (retest : r.disposition = .retest) :
    ∃ y, (convert k s).parts[k] = some y ∧ y.disposition = (finalDisposition s r).1 ∧ y.place = r.place ∧ y.tag = r.tag ∧
      y.attempts = r.attempts := by
  have results : (convert k s).results = (finalized k r s).results := by
    rw [convert_retest device retest, results_carriedOpportunity, results_cancelCarrying]
  obtain ⟨y, at_k, -, disposition⟩ := results_some results (part_finalized device)
  obtain ⟨z, at_k', tag, place, attempts⟩ := custody_record (custody_convert k s) device
  obtain rfl : y = z := Option.some.inj (at_k.symm.trans at_k')
  exact ⟨y, at_k, disposition, place, tag, attempts⟩

/-- R97, R117: the device on a BLOCKED nozzle is not carried. -/
theorem heads_convert_blocked {h : Head} {n : Fin 4} (device : s.parts[k] = some r) (retest : r.disposition = .retest)
    (carried : r.place = .nozzle h n) (free : r.plan = none) (blocked : (s.head h).nozzles[n].blocked = true) :
    (convert k s).heads = s.heads := by
  have own : (finalized k r s).head h = s.head h := congrArg (PerHead.get · h) (heads_finalized k r s)
  have settled := part_finalized device
  rw [carried, free] at settled
  rw [convert_retest device retest, free, cancelCarrying, carriedOpportunity, settled]
  dsimp only
  rw [own, if_pos blocked, heads_finalized]

/-- R97: a carried device that is converted is a planning opportunity for its head. -/
theorem passDue_convert {h : Head} {n : Fin 4} (device : s.parts[k] = some r) (retest : r.disposition = .retest)
    (carried : r.place = .nozzle h n) (free : r.plan = none) (unblocked : (s.head h).nozzles[n].blocked = false)
    (pass : passCondition h s = true) : ((convert k s).head h).passDue = true := by
  have own : (finalized k r s).head h = s.head h := congrArg (PerHead.get · h) (heads_finalized k r s)
  have settled := part_finalized device
  rw [carried, free] at settled
  rw [convert_retest device retest, free, cancelCarrying, carriedOpportunity, settled]
  dsimp only
  rw [own, unblocked, if_neg Bool.false_ne_true, head_opportunity]
  exact if_pos ⟨rfl, (passCondition_finalized h k r s).trans pass⟩

/-! ## The conversions of all devices (R82, R83) -/

/-- A record after the conversion of a device was there before, with the same attempts and the same disposition or a
final one. -/
theorem part_of_convert (i : Fin 96) (after : (convert i s).parts[k] = some y) :
    ∃ r, s.parts[k] = some r ∧ y.attempts = r.attempts ∧ (y.disposition = .retest → r.disposition = .retest) := by
  obtain ⟨r, device, -⟩ := custody_record (custody_convert i s).symm after
  obtain ⟨z, at_k, attempts, disposition⟩ := (converts_convert i s).part k r device
  obtain rfl : y = z := Option.some.inj (after.symm.trans at_k)
  refine ⟨r, device, attempts, fun retest => ?_⟩
  obtain same | ⟨was, -⟩ := disposition
  · exact same.symm.trans retest
  · exact was

theorem convert_settles (after : (convert k s).parts[k] = some y) : y.disposition ≠ .retest := by
  obtain ⟨r, device, -, keeps⟩ := part_of_convert k after
  intro retest
  obtain ⟨z, at_k, final, -⟩ := part_convert device (keeps retest)
  obtain rfl : y = z := Option.some.inj (after.symm.trans at_k)
  exact finalDisposition_ne_retest s r (final.symm.trans retest)

/-- R79: which sockets take a device goes by the sockets in service and the lot. -/
theorem someSocketTakes_congr (view : t.benchView = s.benchView) (attempts : y.attempts = r.attempts)
    (disposition : y.disposition = r.disposition) : someSocketTakes t y = someSocketTakes s r := by
  have pending (i : Fin 64) : t.sockets[i].pendingDisable = s.sockets[i].pendingDisable :=
    (congrArg Socket.pendingDisable (benchView_socket view i) :)
  have sites := benchView_siteGeometry view
  have lot : t.lotTable = s.lotTable := congrArg BenchView.lotTable view
  unfold someSocketTakes loadable groupOf State.geometry State.lot
  rw [sites, lot, attempts, disposition]
  simp only [benchView_socketState view, pending]

/-- A property of each index that one step brings about and every step keeps holds after all of them. -/
theorem foldl_establishes {α : Type} {f : State → α → State} {Q : α → State → Prop} (own : ∀ s a, Q a (f s a))
    (keeps : ∀ s a b, Q a s → Q a (f s b)) (l : List α) (s : State) {a : α} (mem : a ∈ l) : Q a (l.foldl f s) := by
  induction l generalizing s with
  | nil => cases mem
  | cons b l ih =>
    rcases List.mem_cons.1 mem with rfl | mem
    · exact foldl_keeps (fun s c hs => keeps s a c hs) l (own s a)
    · exact ih (f s b) mem

/-- R82: a device is not RETEST. -/
def State.settledAt (s : State) (k : Fin 96) : Prop := ∀ r, s.parts[k] = some r → r.disposition ≠ .retest

theorem settledAt_convertAll (s : State) (k : Fin 96) : (convertAll s).settledAt k := by
  refine foldl_establishes (Q := fun k s => s.settledAt k) (fun s k r after => convert_settles after)
    (fun s k i settled y after retest => ?_) _ s (List.mem_finRange k)
  obtain ⟨r, device, -, keeps⟩ := part_of_convert i after
  exact settled r device (keeps retest)

/-- R83: a RETEST device has a socket in service that takes it. -/
def State.servedAt (s : State) (k : Fin 96) : Prop :=
  ∀ r, s.parts[k] = some r → r.disposition = .retest → someSocketTakes s r = true

theorem State.servedAt.convert (served : s.servedAt k) (i : Fin 96) : (convert i s).servedAt k := by
  intro y after retest
  obtain ⟨r, device, attempts, keeps⟩ := part_of_convert i after
  have was := keeps retest
  rw [someSocketTakes_congr (benchView_convert i s) attempts (retest.trans was.symm)]
  exact served r device was

theorem servedAt_reexamine (s : State) (k : Fin 96) : (reexamine s).servedAt k := by
  refine foldl_establishes (Q := fun k s => s.servedAt k) (fun s k => ?_) (fun s k i served => ?_) _ s (List.mem_finRange k)
  · split
    · next r device =>
      split
      · exact fun y after retest => absurd retest (convert_settles after)
      · next stays =>
        intro y at_k retest
        obtain rfl : r = y := Option.some.inj (device.symm.trans at_k)
        exact Bool.eq_true_of_not_eq_false fun none => stays ⟨retest, none⟩
    · next vacant => exact fun y at_k => absurd (vacant.symm.trans at_k) nofun
  · split
    · split
      · exact served.convert i
      · exact served
    · exact served

/-- Settles O29. -/
theorem conversionsLeaveNoStrandedRetest : Obligations.ConversionsLeaveNoStrandedRetest := by
  refine ⟨fun s r i code last => ⟨fun e entry => finalDisposition_mapped last entry, finalDisposition_unmapped last⟩,
    fun s k r device => ⟨convert_other device, fun retest => ⟨fun unmapped => ?pends, part_convert device retest,
      custody_recordAt (custody_convert k s), benchView_counters (benchView_convert k s), fun h n carried free =>
        ⟨heads_convert_blocked device retest carried free, passDue_convert device retest carried free⟩⟩⟩,
    fun s k => settledAt_convertAll s k, fun s k => servedAt_reexamine s k⟩
  case pends =>
    have settled : (finalized k r s).pends .unmappedResult := pends_finalized unmapped
    rw [convert_retest device retest]
    exact pends_carriedOpportunity k (pends_cancelCarrying k r.plan settled)

end Sys2Proof.Machine
end

section
/-! PROOFS. What the planner chooses: free nozzles, carried devices, the scan of the service list (R99, R100). -/

namespace Sys2Proof.Machine

variable {s t : State} {h : Head}

/-! ## The first index that meets a test -/

theorem find?_finRange_none {n : Nat} {p : Fin n → Bool} : (List.finRange n).find? p = none ↔ ∀ i, p i = false := by
  simp

theorem find?_finRange_eq {n : Nat} {p : Fin n → Bool} {i : Fin n} (hit : p i = true) (before : ∀ j, j < i → p j = false) :
    (List.finRange n).find? p = some i := by
  cases found : (List.finRange n).find? p with
  | none =>
    rw [find?_finRange_none.1 found i] at hit
    cases hit
  | some j =>
    obtain ⟨hit', before'⟩ := find?_finRange_some found
    refine congrArg some (le_antisymm (not_lt.1 fun later => ?_) (not_lt.1 fun sooner => ?_))
    · exact Bool.false_ne_true ((before' i later).symm.trans hit)
    · exact Bool.false_ne_true ((before j sooner).symm.trans hit')

/-! ## Free nozzles (R99) -/

theorem isFree_iff (n : Fin 4) : (s.head h).nozzles[n].isFree = true ↔ s.nozzleFree h n := by
  unfold Nozzle.isFree State.nozzleFree
  simp [and_assoc]

theorem isFree_eq_false (n : Fin 4) : (s.head h).nozzles[n].isFree = false ↔ ¬ s.nozzleFree h n := by
  rw [← isFree_iff, Bool.not_eq_true]

theorem mem_freeNozzles (n : Fin 4) : n ∈ freeNozzles s h ↔ s.nozzleFree h n := by
  rw [freeNozzles, List.mem_filter, isFree_iff]
  exact and_iff_right (List.mem_finRange n)

theorem freeNozzles_sorted (s : State) (h : Head) : (freeNozzles s h).Pairwise (· < ·) :=
  (List.pairwise_lt_finRange 4).filter _

theorem freeNozzles_none : (freeNozzles s h).head? = none ↔ ∀ n, ¬ s.nozzleFree h n := by
  rw [freeNozzles, List.head?_filter, find?_finRange_none]
  exact forall_congr' fun n => isFree_eq_false n

theorem freeNozzles_isEmpty : (freeNozzles s h).isEmpty = true ↔ ∀ n, ¬ s.nozzleFree h n := by
  rw [← freeNozzles_none, List.isEmpty_iff, List.head?_eq_none_iff]

theorem lowestFree_of_head {n : Fin 4} (first : (freeNozzles s h).head? = some n) : s.lowestFree h n := by
  rw [freeNozzles, List.head?_filter] at first
  obtain ⟨free, before⟩ := find?_finRange_some first
  exact ⟨(isFree_iff n).1 free, fun m lower => (isFree_eq_false m).1 (before m lower)⟩

/-- R106: two nozzles are free, or not. -/
theorem freeNozzles_two : (∃ n m rest, freeNozzles s h = n :: m :: rest) ↔
    ¬ ∀ m n, s.nozzleFree h m → s.nozzleFree h n → m = n := by
  have sorted := freeNozzles_sorted s h
  have free := mem_freeNozzles (s := s) (h := h)
  constructor
  · rintro ⟨n, m, rest, list⟩ same
    rw [list] at sorted free
    have apart := (List.pairwise_cons.1 sorted).1 m List.mem_cons_self
    exact apart.ne (same n m ((free n).1 List.mem_cons_self) ((free m).1 (List.mem_cons_of_mem _ List.mem_cons_self)))
  · intro apart
    rcases list : freeNozzles s h with - | ⟨n, - | ⟨m, rest⟩⟩ <;> rw [list] at free
    · exact absurd (fun m _ freeM _ => absurd ((free m).2 freeM) List.not_mem_nil) apart
    · refine absurd (fun m k freeM freeK => ?_) apart
      rw [List.mem_singleton.1 ((free m).2 freeM), List.mem_singleton.1 ((free k).2 freeK)]
    · exact ⟨n, m, rest, rfl⟩

/-! ## Carried devices (R99) -/

/-- What nozzle `n` gives to the list of carried devices. -/
def carriedAt (s : State) (h : Head) (n : Fin 4) : Option (Fin 4 × Fin 96 × PartRecord) :=
  let x := (s.head h).nozzles[n]
  if x.blocked then none
  else
    match x.record with
    | none => none
    | some k =>
      match s.parts[k] with
      | some r => if r.plan = none then some (n, k, r) else none
      | none => none

theorem carried_eq (s : State) (h : Head) : carried s h = (List.finRange 4).filterMap (carriedAt s h) := rfl

theorem carriedAt_some {n : Fin 4} {c : Fin 4 × Fin 96 × PartRecord} :
    carriedAt s h n = some c ↔ c.1 = n ∧ s.carries h n c.2.1 c.2.2 := by
  obtain ⟨m, k, r⟩ := c
  unfold carriedAt State.carries
  dsimp only
  constructor
  · intro given
    split at given
    · cases given
    · next open_ =>
      split at given
      · cases given
      · next record =>
        split at given
        · next device =>
          split at given
          · next free =>
            cases given
            exact ⟨rfl, record, Bool.eq_false_iff.2 open_, device, free⟩
          · cases given
        · cases given
  · rintro ⟨rfl, record, open_, device, free⟩
    rw [open_, record]
    dsimp only
    rw [device]
    exact if_pos free

theorem mem_carried (n : Fin 4) (k : Fin 96) (r : PartRecord) : (n, k, r) ∈ carried s h ↔ s.carries h n k r := by
  rw [carried_eq, List.mem_filterMap]
  constructor
  · rintro ⟨m, -, given⟩
    obtain ⟨same, carries⟩ := carriedAt_some.1 given
    cases same
    exact carries
  · exact fun carries => ⟨n, List.mem_finRange n, carriedAt_some.2 ⟨rfl, carries⟩⟩

theorem carried_sorted (s : State) (h : Head) : (carried s h).Pairwise fun a b => a.1 < b.1 := by
  rw [carried_eq, List.pairwise_filterMap]
  refine (List.pairwise_lt_finRange 4).imp fun lower a given b given' => ?_
  rw [(carriedAt_some.1 given).1, (carriedAt_some.1 given').1]
  exact lower

/-- In a list sorted by nozzle, what follows the first that meets a test has a higher nozzle, or does not meet it. -/
theorem find?_sorted {cs : List (Fin 4 × Fin 96 × PartRecord)} {p : Fin 4 × Fin 96 × PartRecord → Bool}
    {c d : Fin 4 × Fin 96 × PartRecord} (sorted : cs.Pairwise fun a b => a.1 < b.1) (found : cs.find? p = some c)
    (mem : d ∈ cs) (meets : p d = true) : d = c ∨ c.1 < d.1 := by
  obtain ⟨-, before, after, list, fails⟩ := List.find?_eq_some_iff_append.1 found
  rw [list] at mem sorted
  rcases List.mem_append.1 mem with early | late
  · have misses := fails d early
    rw [meets] at misses
    cases misses
  · rcases List.mem_cons.1 late with rfl | late
    · exact .inl rfl
    · exact .inr ((List.pairwise_cons.1 (List.pairwise_append.1 sorted).2.1).1 d late)

/-- R105: the carried device of the lowest nozzle that meets a test. -/
theorem find?_carried {p : Fin 4 × Fin 96 × PartRecord → Bool} {n : Fin 4} {k : Fin 96} {r : PartRecord}
    (carries : s.carries h n k r) (meets : p (n, k, r) = true)
    (lowest : ∀ n' k' r', n' < n → s.carries h n' k' r' → p (n', k', r') = false) :
    (carried s h).find? p = some (n, k, r) := by
  have mem := (mem_carried n k r).2 carries
  cases found : (carried s h).find? p with
  | none =>
    have fails := List.find?_eq_none.1 found (n, k, r) mem
    exact absurd meets fails
  | some c =>
    obtain ⟨n', k', r'⟩ := c
    rcases find?_sorted (carried_sorted s h) found mem meets with same | later
    · rw [same]
    · have none' := lowest n' k' r' later ((mem_carried _ _ _).1 (List.mem_of_find?_eq_some found))
      rw [List.find?_some found] at none'
      cases none'

/-! ## The device taken for a socket (R99) -/

/-- The carried devices that are loadable into a socket. -/
def fitting (s : State) (h : Head) (i : Fin 64) : List (Fin 4 × Fin 96 × PartRecord) :=
  (carried s h).filter fun c => loadable s c.2.2 i

theorem chooseFor_eq (s : State) (h : Head) (i : Fin 64) : chooseFor s h i =
    (((fitting s h i).find? fun c => c.2.2.disposition == .retest).or (fitting s h i).head?).map fun c => (c.1, c.2.1) := rfl

theorem mem_fitting {i : Fin 64} {n : Fin 4} {k : Fin 96} {r : PartRecord} :
    (n, k, r) ∈ fitting s h i ↔ s.carries h n k r ∧ loadable s r i = true := by
  rw [fitting, List.mem_filter, mem_carried]

theorem chooseFor_none {i : Fin 64} : chooseFor s h i = none ↔ ¬ s.hasFor h i := by
  rw [chooseFor_eq, Option.map_eq_none_iff, Option.or_eq_none_iff, List.head?_eq_none_iff]
  constructor
  · rintro ⟨-, empty⟩ ⟨n, k, r, takes⟩
    have mem := mem_fitting.2 takes
    rw [empty] at mem
    cases mem
  · intro none'
    have empty : fitting s h i = [] :=
      List.eq_nil_iff_forall_not_mem.2 fun c mem => none' ⟨c.1, c.2.1, c.2.2, mem_fitting.1 mem⟩
    rw [empty]
    exact ⟨rfl, rfl⟩

theorem chooseFor_some {i : Fin 64} {m : Fin 4} {d : Fin 96} (chosen : chooseFor s h i = some (m, d)) :
    ∃ r, s.takenFor h i m d r := by
  have sorted : (fitting s h i).Pairwise fun a b => a.1 < b.1 := (carried_sorted s h).filter _
  rw [chooseFor_eq, Option.map_eq_some_iff] at chosen
  obtain ⟨⟨m, d, r⟩, first, same⟩ := chosen
  cases same
  refine ⟨r, ?_⟩
  cases retest : (fitting s h i).find? fun c => c.2.2.disposition == .retest with
  | some c =>
    rw [retest] at first
    obtain rfl : c = (m, d, r) := Option.some.inj first
    have own : r.disposition = .retest := beq_iff_eq.1 (List.find?_some retest :)
    obtain ⟨carries, loads⟩ := mem_fitting.1 (List.mem_of_find?_eq_some retest)
    refine ⟨carries, loads, fun n' k' r' carries' loads' apart => ?_⟩
    by_cases other : r'.disposition = .retest
    · rcases find?_sorted sorted retest (mem_fitting.2 ⟨carries', loads'⟩) (beq_iff_eq.2 other) with same | later
      · exact absurd (congrArg Prod.fst same) apart
      · exact .inr ⟨iff_of_true own other, later⟩
    · exact .inl ⟨own, other⟩
  | none =>
    have never (n' : Fin 4) (k' : Fin 96) (r' : PartRecord) (mem : (n', k', r') ∈ fitting s h i) :
        r'.disposition ≠ .retest := by simpa using List.find?_eq_none.1 retest (n', k', r') mem
    rw [retest, Option.none_or] at first
    obtain ⟨rest, list⟩ : ∃ rest, fitting s h i = (m, d, r) :: rest := List.head?_eq_some_iff.1 first
    have mem : (m, d, r) ∈ fitting s h i := by rw [list]; exact List.mem_cons_self
    obtain ⟨carries, loads⟩ := mem_fitting.1 mem
    refine ⟨carries, loads, fun n' k' r' carries' loads' apart => .inr ⟨?_, ?_⟩⟩
    · exact iff_of_false (never _ _ _ mem) (never _ _ _ (mem_fitting.2 ⟨carries', loads'⟩))
    · have mem' := mem_fitting.2 ⟨carries', loads'⟩
      rw [list] at mem' sorted
      rcases List.mem_cons.1 mem' with same | later
      · exact absurd (congrArg Prod.fst same) apart
      · exact (List.pairwise_cons.1 sorted).1 _ later

/-! ## The scan of the service list (R100) -/

/-- A round of positions from a pointer passes every position. -/
theorem round_covers {len j : Nat} (pointer : Nat) (inside : j < len) : ∃ k, k < len ∧ (pointer + k) % len = j := by
  have low : pointer % len < len := Nat.mod_lt _ (Nat.zero_lt_of_lt inside)
  refine ⟨(j + (len - pointer % len)) % len, Nat.mod_lt _ (Nat.zero_lt_of_lt inside), ?_⟩
  have whole : pointer + (j + (len - pointer % len)) = j + len * (pointer / len + 1) := by
    have parts := Nat.div_add_mod pointer len
    rw [Nat.mul_add, Nat.mul_one]
    omega
  rw [Nat.add_mod_mod, whole, Nat.add_mul_mod_self_left, Nat.mod_eq_of_lt inside]

/-- What a position gives to a scan. -/
def scanAt (s : State) (test : Fin 64 → Bool) (p : Nat) : Option (Nat × Fin 64) :=
  match s.serviceList[p]? with
  | some i => if test i then some (p, i) else none
  | none => none

theorem scan_eq (s : State) (h : Head) (test : Fin 64 → Bool) :
    scan s h test = (scanPositions s h).findSome? (scanAt s test) := rfl

theorem scanAt_some {test : Fin 64 → Bool} {p pos : Nat} {i : Fin 64} :
    scanAt s test p = some (pos, i) ↔ p = pos ∧ s.serviceList[pos]? = some i ∧ test i = true := by
  unfold scanAt
  constructor
  · intro given
    split at given
    · next j entry =>
      split at given
      · next meets =>
        cases given
        exact ⟨rfl, entry, meets⟩
      · cases given
    · cases given
  · rintro ⟨rfl, entry, meets⟩
    rw [entry]
    exact if_pos meets

theorem scanAt_none {test : Fin 64 → Bool} {p : Nat} :
    scanAt s test p = none ↔ ∀ i, s.serviceList[p]? = some i → ¬ test i = true := by
  unfold scanAt
  cases s.serviceList[p]? with
  | none => simp
  | some i => simp

theorem scan_none {test : Fin 64 → Bool} : scan s h test = none ↔ ∀ i ∈ s.serviceList, ¬ test i = true := by
  rw [scan_eq, List.findSome?_eq_none_iff]
  constructor
  · intro none' i mem
    obtain ⟨j, inside, entry⟩ := List.mem_iff_getElem.1 mem
    obtain ⟨k, low, at_j⟩ := round_covers (s.head h).pointer inside
    have position : j ∈ scanPositions s h := List.mem_map.2 ⟨k, List.mem_range.2 low, at_j⟩
    exact scanAt_none.1 (none' j position) i (List.getElem?_eq_some_iff.2 ⟨inside, entry⟩)
  · exact fun none' p _ => scanAt_none.2 fun i entry => none' i (List.mem_of_getElem? entry)

theorem findSome?_range_some {β : Type} {f : Nat → Option β} {b : β} (n : Nat) :
    (List.range n).findSome? f = some b ↔ ∃ k, k < n ∧ f k = some b ∧ ∀ j, j < k → f j = none := by
  induction n with
  | zero => simp
  | succ n ih =>
    rw [List.range_succ, List.findSome?_append, Option.or_eq_some_iff, ih, List.findSome?_eq_none_iff,
      List.findSome?_singleton]
    constructor
    · rintro (⟨k, low, hit, before⟩ | ⟨before, hit⟩)
      · exact ⟨k, low.trans (Nat.lt_succ_self n), hit, before⟩
      · exact ⟨n, Nat.lt_succ_self n, hit, fun j low => before j (List.mem_range.2 low)⟩
    · rintro ⟨k, low, hit, before⟩
      rcases Nat.lt_succ_iff_lt_or_eq.1 low with low | rfl
      · exact .inl ⟨k, low, hit, before⟩
      · exact .inr ⟨fun j low => before j (List.mem_range.1 low), hit⟩

theorem scan_some {test : Fin 64 → Bool} {pos : Nat} {i : Fin 64} :
    scan s h test = some (pos, i) ↔ s.found h (fun j => test j = true) pos i := by
  rw [scan_eq, scanPositions, List.findSome?_map, findSome?_range_some, State.found]
  refine exists_congr fun k => and_congr_right fun _ => ?_
  rw [Function.comp, scanAt_some, and_assoc, and_assoc, eq_comm]
  simp only [Function.comp, scanAt_none]

theorem found_congr {p q : Fin 64 → Prop} (same : ∀ i, p i ↔ q i) {pos : Nat} {i : Fin 64} :
    s.found h p pos i ↔ s.found h q pos i := by
  rw [show p = q from funext fun i => propext (same i)]

/-! ## The conditions of the four priorities (R101 to R106) -/

theorem canUnload_iff (i : Fin 64) :
    (servedBy s i h && s.sockets[i].state == .tested && s.sockets[i].plan.isNone) = true ↔ s.canUnload h i := by
  simp [State.canUnload, and_assoc]

theorem loadSocket_iff (i : Fin 64) : loadSocket s h i = true ↔ s.canLoad h i := by
  simp [loadSocket, State.canLoad, and_assoc]

theorem canTake_iff (i : Fin 64) : (loadSocket s h i && (chooseFor s h i).isSome) = true ↔ s.canLoad h i ∧ s.hasFor h i := by
  rw [Bool.and_eq_true, loadSocket_iff, ← Option.ne_none_iff_isSome, Ne, chooseFor_none, not_not]

theorem passedOver_iff (i : Fin 64) :
    (loadSocket s h i && (chooseFor s h i).isNone) = true ↔ s.canLoad h i ∧ ¬ s.hasFor h i := by
  rw [Bool.and_eq_true, loadSocket_iff, Option.isNone_iff_eq_none, chooseFor_none]

theorem noLoadFor_iff (r : PartRecord) :
    noLoadFor s h r = true ↔ ∀ i ∈ s.serviceList, s.canLoad h i → loadable s r i = false := by
  simp [noLoadFor, loadSocket_iff]

theorem retestOffers_iff (r : Fin 8) : (s.retests[r].record.isSome && s.retests[r].plan.isNone) = true ↔ s.retestOffers r := by
  simp [State.retestOffers, Option.isSome_iff_ne_none]

theorem inputOffers_iff (i : Fin 8) : (s.inputs[i].record.isSome && s.inputs[i].plan.isNone) = true ↔ s.inputOffers i := by
  simp [State.inputOffers, Option.isSome_iff_ne_none]

theorem emptyRetest_iff (r : Fin 8) : (s.retests[r].record.isNone && s.retests[r].plan.isNone) = true ↔
    s.retests[r].record = none ∧ s.retests[r].plan = none := by
  simp

end Sys2Proof.Machine
end

section
/-! PROOFS. What a plan reserves and queues (R94, R95), and what each of the four priorities yields (R101 to R106): O38. -/

namespace Sys2Proof.Machine

variable {s t u : State} {h : Head} {p : Nat}

/-! ## An order of a plan (R94, R95) -/

theorem reservesParts_trans {ks js : List (Fin 96)} (first : s.reservesParts t p ks) (next : t.reservesParts u p js) :
    s.reservesParts u p (js ++ ks) := by
  intro k
  rw [next k, first k]
  by_cases late : k ∈ js <;> by_cases early : k ∈ ks <;>
    simp [late, early, Function.comp_def]

theorem reservesParts_reservePart (p : Nat) (part : Option (Fin 96)) (s : State) :
    s.reservesParts (reservePart p part s) p part.toList := by
  intro k
  cases part with
  | none => exact (if_neg List.not_mem_nil).symm
  | some j =>
    refine (State.part_modPart s j k _).trans ?_
    by_cases own : j = k
    · subst own
      simp
    · rw [if_neg own, if_neg (by simpa using fun same => own same.symm)]

/-- R94, R95: an order of a plan has joined a queue, with its nozzle and its device reserved. -/
structure Ordered (h : Head) (p : Nat) (part : Option (Fin 96)) (n : Fin 4) (o : Order) (s t : State) : Prop where
  queue : (t.head h).queue = (s.head h).queue ++ [{ o with tag := nextTag (s.head h) }]
  nozzle : ∀ m : Fin 4, (t.head h).nozzles[m].plan = if n = m then some p else (s.head h).nozzles[m].plan
  pointer : (t.head h).pointer = (s.head h).pointer
  parts : s.reservesParts t p part.toList
  sockets : t.sockets = s.sockets
  inputs : t.inputs = s.inputs
  retests : t.retests = s.retests
  plans : t.plans = s.plans

theorem ordered_joinQueue (h : Head) (p : Nat) (part : Option (Fin 96)) (n : Fin 4) (o : Order) (s : State) :
    Ordered h p part n o s (joinQueue h o (reserveNozzle p h n (reservePart p part s))) := by
  let v := reservePart p part s
  let w := reserveNozzle p h n v
  have still : v.head h = s.head h := by cases part <;> rfl
  have reserved : w.head h = { v.head h with nozzles := (w.head h).nozzles } := by
    rw [show w.head h = _ from State.head_modHead_self v h _]
  have joined : (joinQueue h o w).head h =
      { w.head h with queue := (w.head h).queue ++ [{ o with tag := nextTag (w.head h) }], tagCounter := nextTag (w.head h) } :=
    State.head_modHead_self w h fun x => { x with queue := x.queue ++ [{ o with tag := nextTag x }], tagCounter := nextTag x }
  have tag : nextTag (w.head h) = nextTag (s.head h) := by
    rw [reserved, still]
    rfl
  constructor
  · rw [joined, tag, reserved, still]
  · intro m
    rw [joined]
    refine (congrArg Nozzle.plan (State.nozzle_modNozzle v h h n m fun x => { x with plan := some p })).trans ?_
    rw [still]
    by_cases own : n = m
    · rw [if_pos ⟨rfl, own⟩, if_pos own]
    · rw [if_neg fun both => own both.2, if_neg own]
  · rw [joined, reserved, still]
  · exact reservesParts_reservePart p part s
  all_goals cases part <;> rfl

theorem ordered_orderPick (h : Head) (p : Nat) (loc : Location) (part : Option (Fin 96)) (n : Fin 4) (s : State) :
    Ordered h p part n (newOrder .pick (some n) (some loc) part (some p) .planner) s (orderPick h p loc part n s) :=
  ordered_joinQueue h p part n _ s

theorem ordered_orderPlace (h : Head) (p : Nat) (loc : Location) (k : Fin 96) (n : Fin 4) (s : State) :
    Ordered h p (some k) n (newOrder .place (some n) (some loc) (some k) (some p) .planner) s (orderPlace h p loc k n s) :=
  ordered_joinQueue h p (some k) n _ s

/-! ## A plan opened on a socket (R94, R95, R100) -/

/-- R94, R95, R100: a plan has been opened for a head on the socket at a position of the service list. -/
structure OpenedOn (h : Head) (kind : PlanKind) (pos : Nat) (i : Fin 64) (s t : State) : Prop where
  head : t.head h = { s.head h with pointer := (pos + 1) % s.serviceList.length }
  parts : t.parts = s.parts
  socket : t.sockets[i] = { s.sockets[i] with plan := some s.planCount }
  plans : t.plans = s.plans ++ [⟨s.planCount, h, kind⟩]

theorem openedOn (h : Head) (kind : PlanKind) (pos : Nat) (i : Fin 64) (s : State) :
    OpenedOn h kind pos i s (reserveSocket s.planCount i (movePointer h pos (openPlan h kind s))) where
  head := State.head_modHead_self (openPlan h kind s) h fun x => { x with pointer := (pos + 1) % s.serviceList.length }
  parts := rfl
  socket := State.socket_modSocket_self (movePointer h pos (openPlan h kind s)) i _
  plans := rfl

/-! ## UNLOAD / EXCHANGE (R101) -/

/-- R101: the plan of UNLOAD. -/
def unloadPlan (h : Head) (pos : Nat) (i : Fin 64) (n : Fin 4) (s : State) : State :=
  orderPick h s.planCount (.socket i) s.sockets[i].record n
    (reserveSocket s.planCount i (movePointer h pos (openPlan h .unload s)))

/-- R101: the plan of EXCHANGE. -/
def exchangePlan (h : Head) (pos : Nat) (i : Fin 64) (n m : Fin 4) (d : Fin 96) (s : State) : State :=
  orderPlace h s.planCount (.socket i) d m (orderPick h s.planCount (.socket i) s.sockets[i].record n
    (reserveSocket s.planCount i (movePointer h pos (openPlan h .exchange s))))

/-- R101: the device an EXCHANGE places, when one may be placed. -/
def exchangeDevice (s : State) (h : Head) (i : Fin 64) : Option (Fin 4 × Fin 96) :=
  if s.lotState = .run ∧ s.sockets[i].pendingDisable = none then chooseFor s h i else none

theorem tryUnload_eq (h : Head) (s : State) : tryUnload h s =
    match (freeNozzles s h).head? with
    | none => none
    | some n =>
      match scan s h fun i => servedBy s i h && s.sockets[i].state == .tested && s.sockets[i].plan.isNone with
      | none => none
      | some (pos, i) =>
        match exchangeDevice s h i with
        | none => some (unloadPlan h pos i n s)
        | some (m, d) => some (exchangePlan h pos i n m d s) := rfl

theorem tryUnload_none : tryUnload h s = none ↔ (∀ n, ¬ s.nozzleFree h n) ∨ ∀ i ∈ s.serviceList, ¬ s.canUnload h i := by
  have scanned := scan_none (s := s) (h := h)
    (test := fun i => servedBy s i h && s.sockets[i].state == .tested && s.sockets[i].plan.isNone)
  simp only [canUnload_iff] at scanned
  rw [tryUnload_eq, ← freeNozzles_none, ← scanned]
  cases (freeNozzles s h).head? with
  | none => exact iff_of_true rfl (.inl rfl)
  | some n =>
    rcases scan s h _ with - | ⟨pos, i⟩
    · exact iff_of_true rfl (.inr rfl)
    · refine iff_of_false ?_ (by rintro (e | e) <;> cases e)
      dsimp only
      cases exchangeDevice s h i <;> nofun

theorem tryUnload_some (yields : tryUnload h s = some t) : ∃ pos i n, s.found h (s.canUnload h) pos i ∧ s.lowestFree h n ∧
    (exchangeDevice s h i = none ∧ t = unloadPlan h pos i n s ∨
      ∃ m d, exchangeDevice s h i = some (m, d) ∧ t = exchangePlan h pos i n m d s) := by
  rw [tryUnload_eq] at yields
  split at yields
  · cases yields
  · next n first =>
    split at yields
    · cases yields
    · next pos i scanned =>
      refine ⟨pos, i, n, (found_congr canUnload_iff).1 (scan_some.1 scanned), lowestFree_of_head first, ?_⟩
      split at yields <;> cases yields
      · next none' => exact .inl ⟨none', rfl⟩
      · next m d device => exact .inr ⟨m, d, device, rfl⟩

theorem exchangeDevice_none {i : Fin 64} (none' : exchangeDevice s h i = none) :
    ¬ (s.lotState = .run ∧ s.sockets[i].pendingDisable = none ∧ s.hasFor h i) := by
  rintro ⟨run, enabled, has⟩
  rw [exchangeDevice, if_pos ⟨run, enabled⟩] at none'
  exact chooseFor_none.1 none' has

theorem exchangeDevice_some {i : Fin 64} {m : Fin 4} {d : Fin 96} (device : exchangeDevice s h i = some (m, d)) :
    s.lotState = .run ∧ s.sockets[i].pendingDisable = none ∧ ∃ r, s.takenFor h i m d r := by
  unfold exchangeDevice at device
  split at device
  · next both => exact ⟨both.1, both.2, chooseFor_some device⟩
  · cases device

/-! ## LOAD (R102, R103) -/

/-- R102: the plan of LOAD. -/
def loadPlan (h : Head) (pos : Nat) (i : Fin 64) (m : Fin 4) (d : Fin 96) (s : State) : State :=
  orderPlace h s.planCount (.socket i) d m (reserveSocket s.planCount i (movePointer h pos (openPlan h .load s)))

theorem tryLoad_none : tryLoad h s = none ↔ s.lotState ≠ .run ∨ ∀ i ∈ s.serviceList, ¬ (s.canLoad h i ∧ s.hasFor h i) := by
  have scanned := scan_none (s := s) (h := h) (test := fun i => loadSocket s h i && (chooseFor s h i).isSome)
  simp only [canTake_iff] at scanned
  rw [← scanned]
  unfold tryLoad
  split
  · next halted => exact iff_of_true rfl (.inl halted)
  · next runs =>
    split
    · next nothing => exact iff_of_true rfl (.inr nothing)
    · next pos i found =>
      obtain ⟨-, takes⟩ : s.canLoad h i ∧ s.hasFor h i := by
        obtain ⟨-, -, -, -, meets, -⟩ := scan_some.1 found
        exact (canTake_iff i).1 meets
      refine iff_of_false ?_ (by rw [found]; exact fun e => e.elim runs nofun)
      split
      · next none' => exact absurd takes (chooseFor_none.1 none')
      · nofun

theorem tryLoad_some (yields : tryLoad h s = some t) : ∃ pos i m d r, s.lotState = .run ∧
    s.found h (fun x => s.canLoad h x ∧ s.hasFor h x) pos i ∧ s.takenFor h i m d r ∧ t = loadPlan h pos i m d s := by
  unfold tryLoad at yields
  split at yields
  · cases yields
  · next runs =>
    split at yields
    · cases yields
    · next pos i found =>
      split at yields
      · cases yields
      · next m d chosen =>
        obtain ⟨r, taken⟩ := chooseFor_some chosen
        cases yields
        exact ⟨pos, i, m, d, r, not_not.1 runs, (found_congr canTake_iff).1 (scan_some.1 found), taken, rfl⟩

theorem checkStarved_idle (idle : s.lotState ≠ .run ∨ ∀ i ∈ s.serviceList, ¬ (s.canLoad h i ∧ ¬ s.hasFor h i)) :
    checkStarved h s = s := by
  unfold checkStarved
  split
  · rfl
  · next runs =>
    have nothing := idle.resolve_left runs
    rw [scan_none.2 fun i mem passed => nothing i mem ((passedOver_iff i).1 passed)]

/-- R103: what the scan passed over decides. -/
theorem checkStarved_found (runs : s.lotState = .run) {pos : Nat} {i : Fin 64}
    (found : s.found h (fun i => s.canLoad h i ∧ ¬ s.hasFor h i) pos i) : checkStarved h s =
      if (List.finRange 96).any (fun k => s.parts[k].any fun r => loadable s r i) then s
      else raiseEvent .inputStarved i s := by
  unfold checkStarved
  rw [if_neg (not_not.2 runs), scan_some.2 ((found_congr passedOver_iff).2 found)]

theorem someLoadable_iff (i : Fin 64) : ((List.finRange 96).any fun k => s.parts[k].any fun r => loadable s r i) = true ↔
    ∃ (k : Fin 96) (r : PartRecord), s.parts[k] = some r ∧ loadable s r i = true := by
  simp [Option.any_eq_true]

/-! ## STOW (R104, R105) -/

/-- R94: what a STOW reserves before its order joins the queue. -/
def stowOpened (h : Head) (loc : Location) (s : State) : State :=
  match loc with
  | .retest r => reserveRetest s.planCount r (openPlan h .stow s)
  | _ => openPlan h .stow s

theorem stowOpened_keeps (h : Head) (loc : Location) (s : State) : (stowOpened h loc s).heads = s.heads ∧
    (stowOpened h loc s).parts = s.parts ∧ (stowOpened h loc s).plans = s.plans ++ [⟨s.planCount, h, .stow⟩] := by
  unfold stowOpened
  split <;> exact ⟨rfl, rfl, rfl⟩

theorem retest_stowOpened (h : Head) (loc : Location) (s : State) (r : Fin 8) : (stowOpened h loc s).retests[r] =
    if loc = .retest r then { s.retests[r] with plan := some s.planCount } else s.retests[r] := by
  unfold stowOpened
  split
  · next q =>
    refine (State.retest_modRetest (openPlan h .stow s) q r _).trans ?_
    by_cases own : q = r
    · subst own
      rw [if_pos rfl, if_pos rfl]
      rfl
    · rw [if_neg own, if_neg fun same => own (Location.retest.inj same)]
      rfl
  · next other => exact (if_neg (other r)).symm

theorem stowFirst_skips {c : Fin 4 × Fin 96 × PartRecord} {rest : List (Fin 4 × Fin 96 × PartRecord)}
    (none' : stowBin s c.2.2 = none) : stowFirst h (c :: rest) s = stowFirst h rest s := by
  rw [stowFirst, none']

theorem stowFirst_refused {c : Fin 4 × Fin 96 × PartRecord} {rest : List (Fin 4 × Fin 96 × PartRecord)} {b : Fin 16}
    (bin : stowBin s c.2.2 = some b) (refused : (askPocket b s).2 = none) :
    stowFirst h (c :: rest) s = stowFirst h rest (askPocket b s).1 := by
  rw [stowFirst, bin]
  dsimp only
  rw [show askPocket b s = ((askPocket b s).1, none) from Prod.ext rfl refused]

theorem stowFirst_given {c : Fin 4 × Fin 96 × PartRecord} {rest : List (Fin 4 × Fin 96 × PartRecord)} {b : Fin 16}
    {loc : Location} (bin : stowBin s c.2.2 = some b) (given : (askPocket b s).2 = some loc) :
    stowFirst h (c :: rest) s = (stowPlan h loc c.2.1 c.1 (askPocket b s).1, true) := by
  rw [stowFirst, bin]
  dsimp only
  rw [show askPocket b s = ((askPocket b s).1, some loc) from Prod.ext rfl given]

theorem tryStow_first (yields : (stowFirst h (carried s h) s).2 = true) : tryStow h s = stowFirst h (carried s h) s := by
  rw [tryStow, show stowFirst h (carried s h) s = ((stowFirst h (carried s h) s).1, true) from Prod.ext rfl yields]

theorem tryStow_retest (idle : (stowFirst h (carried s h) s).2 = false) :
    tryStow h s = stowRetest h (stowFirst h (carried s h) s).1 := by
  rw [tryStow, show stowFirst h (carried s h) s = ((stowFirst h (carried s h) s).1, false) from Prod.ext rfl idle]

/-- R105: a RETEST device that is carried and that no LOAD can take. -/
def State.waitsFor (s : State) (h : Head) (n : Fin 4) (k : Fin 96) (r : PartRecord) : Prop :=
  s.carries h n k r ∧ r.disposition = .retest ∧ ∀ i ∈ s.serviceList, s.canLoad h i → loadable s r i = false

/-- R105: the test of `stowRetest` on a carried device. -/
def waitTest (s : State) (h : Head) (c : Fin 4 × Fin 96 × PartRecord) : Bool :=
  c.2.2.disposition == .retest && noLoadFor s h c.2.2

theorem waitTest_iff {n : Fin 4} {k : Fin 96} {r : PartRecord} (carries : s.carries h n k r) :
    waitTest s h (n, k, r) = true ↔ s.waitsFor h n k r := by
  rw [waitTest, Bool.and_eq_true, beq_iff_eq, noLoadFor_iff]
  exact (and_iff_right carries).symm

/-- R84, R105: what is done with the device that waits. -/
def stowWaiting (h : Head) (n : Fin 4) (k : Fin 96) (r : PartRecord) (s : State) : State × Bool :=
  match (List.finRange 8).find? fun i => s.retests[i].record.isNone && s.retests[i].plan.isNone with
  | some i => (stowPlan h (.retest i) k n s, true)
  | none =>
    match (overflow k r.tag s).parts[k] with
    | some r' => stowFirst h [(n, k, r')] (overflow k r.tag s)
    | none => (overflow k r.tag s, false)

theorem stowRetest_eq (h : Head) (s : State) : stowRetest h s =
    if (freeNozzles s h).isEmpty then
      match (carried s h).find? (waitTest s h) with
      | none => (s, false)
      | some (n, k, r) => stowWaiting h n k r s
    else (s, false) := rfl

theorem stowRetest_idle (idle : (∃ n, s.nozzleFree h n) ∨ ∀ n k r, ¬ s.waitsFor h n k r) : stowRetest h s = (s, false) := by
  rw [stowRetest_eq]
  split
  · next full =>
    have nothing := idle.resolve_left fun ⟨n, free⟩ => freeNozzles_isEmpty.1 full n free
    have none' : (carried s h).find? (waitTest s h) = none := List.find?_eq_none.2 fun c mem meets =>
      nothing _ _ _ ((waitTest_iff ((mem_carried c.1 c.2.1 c.2.2).1 mem)).1 meets)
    rw [none']
  · rfl

theorem stowRetest_waiting {n : Fin 4} {k : Fin 96} {r : PartRecord} (full : ∀ n, ¬ s.nozzleFree h n)
    (waits : s.waitsFor h n k r) (lowest : ∀ n' k' r', n' < n → ¬ s.waitsFor h n' k' r') :
    stowRetest h s = stowWaiting h n k r s := by
  have carries := waits.1
  have found : (carried s h).find? (waitTest s h) = some (n, k, r) :=
    find?_carried carries ((waitTest_iff carries).2 waits) fun n' k' r' lower carries' =>
      Bool.eq_false_iff.2 fun meets => lowest n' k' r' lower ((waitTest_iff carries').1 meets)
  rw [stowRetest_eq, if_pos (freeNozzles_isEmpty.2 full), found]

theorem stowWaiting_slot {n : Fin 4} {k : Fin 96} {r : PartRecord} {slot : Fin 8}
    (vacant : s.retests[slot].record = none ∧ s.retests[slot].plan = none)
    (lowest : ∀ x : Fin 8, x < slot → ¬ (s.retests[x].record = none ∧ s.retests[x].plan = none)) :
    stowWaiting h n k r s = (stowPlan h (.retest slot) k n s, true) := by
  rw [stowWaiting, find?_finRange_eq ((emptyRetest_iff slot).2 vacant) fun x lower =>
    Bool.eq_false_iff.2 fun meets => lowest x lower ((emptyRetest_iff x).1 meets)]

/-- R84: with no slot left the device is converted and asks for a pocket. -/
theorem stowWaiting_overflow {n : Fin 4} {k : Fin 96} {r : PartRecord} (device : s.parts[k] = some r)
    (occupied : ∀ x : Fin 8, ¬ (s.retests[x].record = none ∧ s.retests[x].plan = none)) :
    ∃ r', (overflow k r.tag s).parts[k] = some r' ∧
      stowWaiting h n k r s = stowFirst h [(n, k, r')] (overflow k r.tag s) := by
  have custody : (overflow k r.tag s).custody = s.custody := by rw [overflow, custody_raiseEvent, custody_convert]
  obtain ⟨r', at_k, -⟩ := custody_record custody device
  refine ⟨r', at_k, ?_⟩
  rw [stowWaiting, find?_finRange_none.2 fun x => Bool.eq_false_iff.2 fun meets => occupied x ((emptyRetest_iff x).1 meets)]
  dsimp only
  rw [at_k]

/-! ## FETCH (R106) -/

/-- R106: the plan of a FETCH from a retest slot. -/
def fetchRetest (h : Head) (n : Fin 4) (i : Fin 8) (s : State) : State :=
  orderPick h s.planCount (.retest i) s.retests[i].record n (reserveRetest s.planCount i (openPlan h .fetch s))

/-- R106: the plan of a FETCH from an input slot. -/
def fetchInput (h : Head) (n : Fin 4) (i : Fin 8) (s : State) : State :=
  orderPick h s.planCount (.input i) s.inputs[i].record n (reserveInput s.planCount i (openPlan h .fetch s))

/-- R106: what FETCH does with two free nozzles. -/
def fetchWith (h : Head) (n : Fin 4) (s : State) : Option State :=
  match (List.finRange 8).find? fun i => s.retests[i].record.isSome && s.retests[i].plan.isNone with
  | some i => some (fetchRetest h n i s)
  | none =>
    if s.lotState ≠ .run then none
    else
      match (List.finRange 8).find? fun i => s.inputs[i].record.isSome && s.inputs[i].plan.isNone with
      | some i => some (fetchInput h n i s)
      | none => none

theorem tryFetch_eq (h : Head) (s : State) : tryFetch h s =
    match freeNozzles s h with
    | n :: _ :: _ => fetchWith h n s
    | _ => none := rfl

theorem noRetest_iff : ((List.finRange 8).find? fun i => s.retests[i].record.isSome && s.retests[i].plan.isNone) = none ↔
    ∀ r, ¬ s.retestOffers r := by
  rw [find?_finRange_none]
  exact forall_congr' fun r => by rw [← retestOffers_iff, Bool.not_eq_true]

theorem noInput_iff : ((List.finRange 8).find? fun i => s.inputs[i].record.isSome && s.inputs[i].plan.isNone) = none ↔
    ∀ i, ¬ s.inputOffers i := by
  rw [find?_finRange_none]
  exact forall_congr' fun i => by rw [← inputOffers_iff, Bool.not_eq_true]

theorem fetchWith_none (n : Fin 4) : fetchWith h n s = none ↔
    (∀ r, ¬ s.retestOffers r) ∧ (s.lotState = .run → ∀ i, ¬ s.inputOffers i) := by
  rw [← noRetest_iff, ← noInput_iff]
  unfold fetchWith
  split
  · next i found =>
    rw [found]
    exact iff_of_false nofun fun both => absurd both.1 nofun
  · next none' =>
    rw [none']
    split
    · next halted => exact iff_of_true rfl ⟨rfl, fun run => absurd run halted⟩
    · next runs =>
      split
      · next i found =>
        rw [found]
        exact iff_of_false nofun fun both => absurd (both.2 (not_not.1 runs)) nofun
      · next nothing => exact iff_of_true rfl ⟨rfl, fun _ => nothing⟩

theorem fetchWith_some {n : Fin 4} (yields : fetchWith h n s = some t) :
    (∃ r, s.retestOffers r ∧ (∀ x, x < r → ¬ s.retestOffers x) ∧ t = fetchRetest h n r s) ∨
      ∃ i, s.lotState = .run ∧ (∀ r, ¬ s.retestOffers r) ∧ s.inputOffers i ∧ (∀ x, x < i → ¬ s.inputOffers x) ∧
        t = fetchInput h n i s := by
  unfold fetchWith at yields
  split at yields
  · next r found =>
    cases yields
    obtain ⟨offers, before⟩ := find?_finRange_some found
    exact .inl ⟨r, (retestOffers_iff r).1 offers, fun x lower offered =>
      Bool.false_ne_true ((before x lower).symm.trans ((retestOffers_iff x).2 offered)), rfl⟩
  · next none' =>
    split at yields
    · cases yields
    · next runs =>
      split at yields
      · next i found =>
        cases yields
        obtain ⟨offers, before⟩ := find?_finRange_some found
        exact .inr ⟨i, not_not.1 runs, noRetest_iff.1 none', (inputOffers_iff i).1 offers, fun x lower offered =>
          Bool.false_ne_true ((before x lower).symm.trans ((inputOffers_iff x).2 offered)), rfl⟩
      · cases yields

theorem tryFetch_none : tryFetch h s = none ↔ (∀ m n, s.nozzleFree h m → s.nozzleFree h n → m = n) ∨
    (∀ r, ¬ s.retestOffers r) ∧ (s.lotState = .run → ∀ i, ¬ s.inputOffers i) := by
  rw [tryFetch_eq]
  split
  · next n m rest list =>
    have two := freeNozzles_two.1 ⟨n, m, rest, list⟩
    rw [fetchWith_none n]
    exact (or_iff_right two).symm
  · next fewer =>
    refine iff_of_true rfl (.inl (not_not.1 fun two => ?_))
    obtain ⟨n, m, rest, list⟩ := freeNozzles_two.2 two
    exact fewer n m rest list

theorem tryFetch_some (yields : tryFetch h s = some t) : ∃ n, s.lowestFree h n ∧ fetchWith h n s = some t := by
  rw [tryFetch_eq] at yields
  split at yields
  · next n m rest list => exact ⟨n, lowestFree_of_head (by rw [list]; rfl), yields⟩
  · cases yields

end Sys2Proof.Machine
end

section
/-! PROOFS. The plans of the planner: O38. -/

namespace Sys2Proof.Machine

variable {s t : State} {h : Head}

/-! ## What each plan is made of (R94, R95, R100) -/

/-- R94: an order of a plan of the planner. -/
def Order.OfPlan (o : Order) (action : Action) (loc : Location) (n : Fin 4) (part : Option (Fin 96)) (p : Nat) : Prop :=
  ∃ tag, o = { newOrder action (some n) (some loc) part (some p) .planner with tag := tag }

/-- R94, R115: the order of a plan at the back of its queue. -/
theorem Ordered.order {p : Nat} {part : Option (Fin 96)} {n : Fin 4} {action : Action} {loc : Location}
    (l : Ordered h p part n (newOrder action (some n) (some loc) part (some p) .planner) s t) :
    ∃ o : Order, o.OfPlan action loc n part p ∧ (t.head h).queue = (s.head h).queue ++ [o] :=
  ⟨_, ⟨nextTag (s.head h), rfl⟩, l.queue⟩

theorem unloadPlan_spec (h : Head) (pos : Nat) (i : Fin 64) (n : Fin 4) (s : State) :
    let t := unloadPlan h pos i n s
    t.sockets[i] = { s.sockets[i] with plan := some s.planCount } ∧ (t.head h).nozzles[n].plan = some s.planCount ∧
      (t.head h).pointer = (pos + 1) % s.serviceList.length ∧ t.plans = s.plans ++ [⟨s.planCount, h, .unload⟩] ∧
      s.reservesParts t s.planCount s.sockets[i].record.toList ∧
      ∃ pick : Order, pick.OfPlan .pick (.socket i) n s.sockets[i].record s.planCount ∧
        (t.head h).queue = (s.head h).queue ++ [pick] := by
  intro t
  let v := reserveSocket s.planCount i (movePointer h pos (openPlan h .unload s))
  have opened : OpenedOn h .unload pos i s v := openedOn h .unload pos i s
  have picks : Ordered h s.planCount s.sockets[i].record n _ v t := ordered_orderPick h _ _ _ n v
  refine ⟨?_, ?_, ?_, ?_, ?_, ?_⟩
  · exact (congrArg (·[i]) picks.sockets).trans opened.socket
  · exact (picks.nozzle n).trans (if_pos rfl)
  · rw [picks.pointer, opened.head]
  · exact picks.plans.trans opened.plans
  · intro k
    rw [picks.parts k, opened.parts]
  · obtain ⟨pick, planned, queue⟩ := picks.order
    exact ⟨pick, planned, by rw [queue, opened.head]⟩

theorem exchangePlan_spec (h : Head) (pos : Nat) (i : Fin 64) (n m : Fin 4) (d : Fin 96) (s : State) :
    let t := exchangePlan h pos i n m d s
    t.sockets[i] = { s.sockets[i] with plan := some s.planCount } ∧ (t.head h).nozzles[n].plan = some s.planCount ∧
      (t.head h).nozzles[m].plan = some s.planCount ∧ (t.head h).pointer = (pos + 1) % s.serviceList.length ∧
      t.plans = s.plans ++ [⟨s.planCount, h, .exchange⟩] ∧
      s.reservesParts t s.planCount (d :: s.sockets[i].record.toList) ∧
      ∃ pick place : Order, pick.OfPlan .pick (.socket i) n s.sockets[i].record s.planCount ∧
        place.OfPlan .place (.socket i) m (some d) s.planCount ∧ (t.head h).queue = (s.head h).queue ++ [pick, place] := by
  intro t
  let v := reserveSocket s.planCount i (movePointer h pos (openPlan h .exchange s))
  let u := orderPick h s.planCount (.socket i) s.sockets[i].record n v
  have opened : OpenedOn h .exchange pos i s v := openedOn h .exchange pos i s
  have picks : Ordered h s.planCount s.sockets[i].record n _ v u := ordered_orderPick h _ _ _ n v
  have places : Ordered h s.planCount (some d) m _ u t := ordered_orderPlace h _ _ d m u
  refine ⟨?_, ?_, ?_, ?_, ?_, ?_, ?_⟩
  · exact (congrArg (·[i]) (places.sockets.trans picks.sockets)).trans opened.socket
  · refine (places.nozzle n).trans ?_
    split
    · rfl
    · exact (picks.nozzle n).trans (if_pos rfl)
  · exact (places.nozzle m).trans (if_pos rfl)
  · rw [places.pointer, picks.pointer, opened.head]
  · exact (places.plans.trans picks.plans).trans opened.plans
  · intro k
    rw [reservesParts_trans picks.parts places.parts k, opened.parts]
    rfl
  · obtain ⟨pick, picked, front⟩ := picks.order
    obtain ⟨place, placed, back⟩ := places.order
    refine ⟨pick, place, picked, placed, ?_⟩
    rw [back, front, opened.head, List.append_assoc]
    rfl

theorem loadPlan_spec (h : Head) (pos : Nat) (i : Fin 64) (m : Fin 4) (d : Fin 96) (s : State) :
    let t := loadPlan h pos i m d s
    t.sockets[i] = { s.sockets[i] with plan := some s.planCount } ∧ (t.head h).nozzles[m].plan = some s.planCount ∧
      (t.head h).pointer = (pos + 1) % s.serviceList.length ∧ t.plans = s.plans ++ [⟨s.planCount, h, .load⟩] ∧
      s.reservesParts t s.planCount [d] ∧
      ∃ place : Order, place.OfPlan .place (.socket i) m (some d) s.planCount ∧
        (t.head h).queue = (s.head h).queue ++ [place] := by
  intro t
  let v := reserveSocket s.planCount i (movePointer h pos (openPlan h .load s))
  have opened : OpenedOn h .load pos i s v := openedOn h .load pos i s
  have places : Ordered h s.planCount (some d) m _ v t := ordered_orderPlace h _ _ d m v
  refine ⟨?_, ?_, ?_, ?_, ?_, ?_⟩
  · exact (congrArg (·[i]) places.sockets).trans opened.socket
  · exact (places.nozzle m).trans (if_pos rfl)
  · rw [places.pointer, opened.head]
  · exact places.plans.trans opened.plans
  · intro k
    rw [places.parts k, opened.parts]
    rfl
  · obtain ⟨place, planned, queue⟩ := places.order
    exact ⟨place, planned, by rw [queue, opened.head]⟩

theorem stowPlan_spec (h : Head) (loc : Location) (k : Fin 96) (n : Fin 4) (s : State) :
    let t := stowPlan h loc k n s
    (t.head h).nozzles[n].plan = some s.planCount ∧ (t.head h).pointer = (s.head h).pointer ∧
      t.plans = s.plans ++ [⟨s.planCount, h, .stow⟩] ∧ s.reservesParts t s.planCount [k] ∧
      (∀ r : Fin 8, t.retests[r] = if loc = .retest r then { s.retests[r] with plan := some s.planCount }
        else s.retests[r]) ∧
      ∃ place : Order, place.OfPlan .place loc n (some k) s.planCount ∧ (t.head h).queue = (s.head h).queue ++ [place] := by
  intro t
  obtain ⟨heads, parts, plans⟩ := stowOpened_keeps h loc s
  have own : (stowOpened h loc s).head h = s.head h := congrArg (PerHead.get · h) heads
  have places : Ordered h s.planCount (some k) n _ (stowOpened h loc s) t := ordered_orderPlace h _ loc k n _
  refine ⟨?_, ?_, ?_, ?_, fun r => ?_, ?_⟩
  · exact (places.nozzle n).trans (if_pos rfl)
  · rw [places.pointer, own]
  · exact places.plans.trans plans
  · intro j
    rw [places.parts j, parts]
    rfl
  · exact (congrArg (·[r]) places.retests).trans (retest_stowOpened h loc s r)
  · obtain ⟨place, planned, queue⟩ := places.order
    exact ⟨place, planned, by rw [queue, own]⟩

/-- R106: what the plan of a FETCH is made of, whichever slot it takes from. -/
theorem fetchPlan_spec {v : State} {loc : Location} {part : Option (Fin 96)} {n : Fin 4}
    (heads : v.heads = s.heads) (parts : v.parts = s.parts) (plans : v.plans = s.plans ++ [⟨s.planCount, h, .fetch⟩]) :
    let t := orderPick h s.planCount loc part n v
    (t.head h).nozzles[n].plan = some s.planCount ∧ (t.head h).pointer = (s.head h).pointer ∧
      t.plans = s.plans ++ [⟨s.planCount, h, .fetch⟩] ∧ s.reservesParts t s.planCount part.toList ∧
      t.retests = v.retests ∧ t.inputs = v.inputs ∧
      ∃ pick : Order, pick.OfPlan .pick loc n part s.planCount ∧ (t.head h).queue = (s.head h).queue ++ [pick] := by
  intro t
  have own : v.head h = s.head h := congrArg (PerHead.get · h) heads
  have picks : Ordered h s.planCount part n _ v t := ordered_orderPick h _ loc part n v
  refine ⟨?_, ?_, picks.plans.trans plans, ?_, picks.retests, picks.inputs, ?_⟩
  · exact (picks.nozzle n).trans (if_pos rfl)
  · rw [picks.pointer, own]
  · intro j
    rw [picks.parts j, parts]
  · obtain ⟨pick, planned, queue⟩ := picks.order
    exact ⟨pick, planned, by rw [queue, own]⟩

/-- Settles O38. -/
theorem plansReserve : Obligations.PlansReserve := by
  refine ⟨fun s h => ⟨tryUnload_none, fun t yields => ?unload⟩, fun s h => ⟨tryLoad_none, fun t yields => ?load⟩,
    fun s h => ⟨checkStarved_idle, fun run pos i found => ⟨fun some => ?unstarved, fun none => ?starved⟩⟩,
    fun s h => ⟨tryFetch_none, fun t yields => ?fetch⟩, fun s h loc k n => ?stow,
    fun s h c rest => ⟨rfl, rfl, stowFirst_skips, fun b bin =>
      ⟨stowFirst_refused bin, fun loc => stowFirst_given bin⟩⟩,
    fun s h => ⟨mem_carried, ?sorted, tryStow_first, tryStow_retest, stowRetest_idle, fun full n k r waits lowest =>
      ⟨fun slot record plan taken => ?slot, fun occupied => ?overflow⟩⟩⟩
  case unload =>
    obtain ⟨pos, i, n, found, lowest, ⟨alone, rfl⟩ | ⟨m, d, device, rfl⟩⟩ := tryUnload_some yields
    · obtain ⟨socket, nozzle, pointer, plans, parts, _, ⟨tag, rfl⟩, queue⟩ := unloadPlan_spec h pos i n s
      exact ⟨pos, i, n, found, lowest, socket, nozzle, pointer, _, rfl, rfl, rfl, rfl, rfl, rfl, rfl,
        .inl ⟨exchangeDevice_none alone, queue, plans, parts⟩⟩
    · obtain ⟨run, enabled, r, taken⟩ := exchangeDevice_some device
      obtain ⟨socket, nozzle, carrier, pointer, plans, parts, _, _, ⟨tag, rfl⟩, ⟨tag', rfl⟩, queue⟩ :=
        exchangePlan_spec h pos i n m d s
      exact ⟨pos, i, n, found, lowest, socket, nozzle, pointer, _, rfl, rfl, rfl, rfl, rfl, rfl, rfl,
        .inr ⟨_, m, d, r, run, enabled, taken, carrier, rfl, rfl, rfl, rfl, rfl, rfl, rfl, queue, plans, parts⟩⟩
  case load =>
    obtain ⟨pos, i, m, d, r, run, found, taken, rfl⟩ := tryLoad_some yields
    obtain ⟨socket, nozzle, pointer, plans, parts, _, ⟨tag, rfl⟩, queue⟩ := loadPlan_spec h pos i m d s
    exact ⟨pos, i, m, d, r, run, found, taken, socket, nozzle, pointer, plans, parts,
      _, rfl, rfl, rfl, rfl, rfl, rfl, rfl, queue⟩
  case unstarved => rw [checkStarved_found run found, if_pos ((someLoadable_iff i).2 some)]
  case starved =>
    rw [checkStarved_found run found, if_neg fun any => ?_]
    obtain ⟨k, r, device, loads⟩ := (someLoadable_iff i).1 any
    rw [none k r device] at loads
    cases loads
  case fetch =>
    obtain ⟨n, lowest, yields⟩ := tryFetch_some yields
    obtain ⟨r, offers, first, rfl⟩ | ⟨i, run, none', offers, first, rfl⟩ := fetchWith_some yields
    · obtain ⟨nozzle, pointer, plans, parts, retests, -, _, ⟨tag, rfl⟩, queue⟩ :=
        fetchPlan_spec (s := s) (h := h) (loc := .retest r) (part := s.retests[r].record) (n := n)
          (v := reserveRetest s.planCount r (openPlan h .fetch s)) rfl rfl rfl
      have reserved := (State.retest_modRetest (openPlan h .fetch s) r r fun x => { x with plan := some s.planCount }).trans
        (if_pos rfl)
      exact ⟨n, lowest, nozzle, pointer, plans, _, rfl, rfl, rfl, rfl, rfl, queue, parts, .inl ⟨r, offers, first, rfl, rfl,
        congrArg RetestSlot.plan ((congrArg (·[r]) retests).trans reserved)⟩⟩
    · obtain ⟨nozzle, pointer, plans, parts, -, inputs, _, ⟨tag, rfl⟩, queue⟩ :=
        fetchPlan_spec (s := s) (h := h) (loc := .input i) (part := s.inputs[i].record) (n := n)
          (v := reserveInput s.planCount i (openPlan h .fetch s)) rfl rfl rfl
      have reserved := (State.input_modInput (openPlan h .fetch s) i i fun x => { x with plan := some s.planCount }).trans
        (if_pos rfl)
      exact ⟨n, lowest, nozzle, pointer, plans, _, rfl, rfl, rfl, rfl, rfl, queue, parts, .inr ⟨i, run, none', offers, first,
        rfl, rfl, congrArg InputSlot.plan ((congrArg (·[i]) inputs).trans reserved)⟩⟩
  case stow =>
    obtain ⟨nozzle, pointer, plans, parts, retests, _, ⟨tag, rfl⟩, queue⟩ := stowPlan_spec h loc k n s
    exact ⟨nozzle, pointer, plans, parts, retests, _, rfl, rfl, rfl, rfl, rfl, rfl, rfl, queue⟩
  case sorted => exact List.pairwise_map.2 (carried_sorted s h)
  case slot => rw [stowRetest_waiting full waits lowest, stowWaiting_slot ⟨record, plan⟩ taken]
  case overflow =>
    have stows := stowRetest_waiting full waits lowest
    obtain ⟨⟨-, -, device, -⟩, -⟩ := waits
    obtain ⟨r', at_k, pocket⟩ := stowWaiting_overflow (h := h) (n := n) device occupied
    exact ⟨r', at_k, stows.trans pocket⟩

end Sys2Proof.Machine
end
